-- ==== Sys2Proof/Word.lean ====
section
/-! DEFINITION. The word types of the LD-2418 and their plainest arithmetic (00_scope.md, Conventions). -/

namespace Sys2Proof

/-- A memory word: 32 bits; byte 0 is the least significant byte (00_scope.md, Addresses). -/
abbrev Word := BitVec 32

/-- One byte of memory. -/
abbrev Byte := BitVec 8

/-- A byte address of the host bus: 24 bits (00_scope.md, Addresses). -/
abbrev Addr := BitVec 24

/-- One conversion of CELL by the 10-bit converter, 0 to 1023 (R23). -/
abbrev Sample := BitVec 10

/-- The byte enables of a host write: bit i says that byte i of the word is to be written (R155). -/
abbrev ByteEnables := BitVec 4

/-- A frame signature register: 16 bits (R56). -/
abbrev Sig := BitVec 16

/-- The six conversions that one tach event may take: the slot events of an interval that are still
due fall at the tach event that ends it, at most k of them, and k is at most 6 (R22, R23). -/
abbrev Cells := Vector Sample 6

end Sys2Proof
end

