-- ==== Sys2Proof/Syntax.lean ====
section
/-! DEFINITION. The commands of the LD-2418: one constructor per row of spec/opcode_table.json. A
command is one whole, indivisible step of the part (95_what_each_step_holds.md). Its operands are
what reaches the part from outside at that step: a converter reading, an input level, a host cycle.
The table gives the rows no fields; the operands are the DESIGN CHOICE of log entries 7 and 8.

Where a command ends the job by a cause of the desk or the panel, its operand `late` chooses an order of R132: with
an attempt in progress the cause is taken, and its requests, the cut among them, are on their way for the rest of
the moment, so that an attempt end of the same moment keeps its own outcome (R93, R114, R116). For a carriage-fault
a free value chooses that order (log entry 25). -/

namespace Sys2Proof

/-- The commands, in the order of the table. -/
inductive Instr where
  /-- RESET (R168): assertion of RESET or a supply-monitor trip. -/
  | reset
  /-- RESET_RELEASE (R170): the release of reset. -/
  | resetRelease
  /-- INDEX_PULSE (R1). -/
  | indexPulse
  /-- TACH_EVENT (R1). `cells` are the conversions of CELL that fall due at this event (R22, R23);
  `scanFirst` says whether the Scan Unit takes an INDEX event before the Line Unit does (R61). -/
  | tachEvent (cells : Cells) (scanFirst : Bool)
  /-- SLIP_DETECTED (R15). -/
  | slipDetected
  /-- REGULATION_SAMPLE (R11). -/
  | regulationSample
  /-- BAND_ENTRY (R12). -/
  | bandEntry
  /-- BAND_LOST (R12). -/
  | bandLost
  /-- PARK_REST_EXPIRY (R6). -/
  | parkRestExpiry
  /-- RAMP_TICK (R8). -/
  | rampTick
  /-- SPINUP_TIMEOUT (R10). -/
  | spinupTimeout
  /-- STALL_TIMEOUT (R14). -/
  | stallTimeout
  /-- ILIM_TRIP (R13). -/
  | ilimTrip
  /-- OVERCURRENT_DETECTED (R16). -/
  | overcurrentDetected
  /-- FAULT_WAIT_EXPIRY (R18). -/
  | faultWaitExpiry
  /-- DRUM_CLEAR (R19). -/
  | drumClear
  /-- COUNTER_CLEAR (R180). -/
  | counterClear
  /-- CLOCK_SET (R141). -/
  | clockSet
  /-- HOMING_STEP (R25). -/
  | homingStep
  /-- HOMING_FAULT (R25). -/
  | homingFault
  /-- POSITION_STEP (R26). -/
  | positionStep
  /-- ARRIVAL (R26). -/
  | arrival
  /-- LIMIT_ASSERTED (R29). -/
  | limitAsserted
  /-- HOME_ASSERTED (R27). -/
  | homeAsserted
  /-- TRACK_STEP (R28). -/
  | trackStep
  /-- WARM_UP_EXPIRY (R31). -/
  | warmUpExpiry
  /-- REFERENCE_SAMPLE (R23): `cell` is the conversion of CELL. -/
  | referenceSample (cell : Sample)
  /-- SLOT_EVENT (R22): `cell` is the conversion of CELL, unused where none is made. -/
  | slotEvent (cell : Sample)
  /-- SCAN_WORD_WRITTEN (R36). -/
  | scanWordWritten
  /-- PREFETCH_WORD_ARRIVED (R66). -/
  | prefetchWordArrived
  /-- CARRIER_TOGGLE (R54). -/
  | carrierToggle
  /-- SEIZE_WAIT_EXPIRY (R79). -/
  | seizeWaitExpiry
  /-- DIAL_BREAK_END (R81). -/
  | dialBreakEnd
  /-- DIAL_MAKE_END (R81). -/
  | dialMakeEnd
  /-- LOOP_CHANGE (R82): `present` is the level that LOOP changes to. -/
  | loopChange (present : Bool)
  /-- LOOP_LOSS (R82). -/
  | loopLoss
  /-- TONE_WINDOW_END (R83): `crossings` is the count of LINE_IN crossings in the window. -/
  | toneWindowEnd (crossings : Nat)
  /-- TONE_RECOGNISED (R84). -/
  | toneRecognised
  /-- ANSWER_TIMEOUT (R85). -/
  | answerTimeout
  /-- START_TONE_EXPIRY (R86). -/
  | startToneExpiry
  /-- READY_WAIT_EXPIRY (R87). -/
  | readyWaitExpiry
  /-- PHASING_END (R89). -/
  | phasingEnd
  /-- STOP_TONE_EXPIRY (R95). -/
  | stopToneExpiry
  /-- RELEASE_GUARD_EXPIRY (R96). -/
  | releaseGuardExpiry
  /-- START_ENTRY (R100). -/
  | startEntry
  /-- ABORT_ENTRY (R116). `ahead` is how many of the Job Controller's
  operations of this moment the Mailbox Unit's FREE enters the control requester's list ahead of (R165). -/
  | abortEntry (late : Bool) (ahead : Nat)
  /-- FREE_ENTRY (R184). -/
  | freeEntry
  /-- BAD_ACTION_ENTRY (R184). -/
  | badActionEntry
  /-- TCB_MEMBER_READ (R101). -/
  | tcbMemberRead
  /-- CLAMP_OPEN (R111). `bandLostFirst` says whether the Line Unit takes the BAND_LOST that the
  brake-park signals before it takes the cut request of the same moment (R93, R111). -/
  | clampOpen (bandLostFirst late : Bool)
  /-- CLAMP_CLOSE (R108). -/
  | clampClose
  /-- STOP_KEY (R112). -/
  | stopKey (late : Bool)
  /-- JOB_RESULTS_WRITTEN (R119). -/
  | jobResultsWritten
  /-- ABORTED_RESULTS_WRITTEN (R115). -/
  | abortedResultsWritten
  /-- PARK_DELAY_EXPIRY (R120). -/
  | parkDelayExpiry
  /-- DIRECTORY_READ_DONE (R129). -/
  | directoryReadDone
  /-- HISTORY_READ_DONE (R138). -/
  | historyReadDone
  /-- CLOCK_TICK (R140). -/
  | clockTick
  /-- SLIP_LOG_WORD_WRITTEN (R144). -/
  | slipLogWordWritten
  /-- SLIP_CHARACTER_END (R148): `busy` is the level of SLIP_BUSY at that moment. Where no character ends, an
  active level is noted alone: SLIP_BUSY has become active (log entry 7). -/
  | slipCharacterEnd (busy : Bool)
  /-- SLIP_BUSY_RELEASE (R148). -/
  | slipBusyRelease
  /-- PAPER_OUT (R150). -/
  | paperOut
  /-- PAPER_PRESENT (R151). -/
  | paperPresent
  /-- PAPER_RETURN_EXPIRY (R151). -/
  | paperReturnExpiry
  /-- HOST_READ (R154): a read of the word that holds byte `addr`. -/
  | hostRead (addr : Addr)
  /-- HOST_READ_DATA (R164). -/
  | hostReadData
  /-- HOST_WRITE (R155): a write of `data` to the word that holds byte `addr`, bytes `be`. -/
  | hostWrite (addr : Addr) (data : Word) (be : ByteEnables)
  /-- HOST_WRITE_DRAIN (R156). -/
  | hostWriteDrain
  /-- CONTROL_WORD_DONE (R165). -/
  | controlWordDone
  /-- SEND_ACTION_WRITE (R182). -/
  | sendActionWrite
  /-- TAKE_START (R183). -/
  | takeStart
  /-- RETURN_FREE_WRITE (R186). `ahead` is how many of the postings of this moment a Directory read of this
  moment enters the control requester's list ahead of (R165). -/
  | returnFreeWrite (ahead : Nat)
  /-- RETURN_POSTING_DONE (R185). -/
  | returnPostingDone
  /-- LAYOUT_GENERATION_WRITE (R170). -/
  | layoutGenerationWrite
  /-- LAYOUT_BLOCK_READ (R171). -/
  | layoutBlockRead
  /-- LOAD_PROFILE_WORD (R172). -/
  | loadProfileWord
  /-- PROFILE_CAPTURE (R176). -/
  | profileCapture
  /-- PWM_PERIOD_END (R16). -/
  | pwmPeriodEnd
deriving DecidableEq, Repr

end Sys2Proof
end

