-- ==== Sys2Proof/Decode.lean ====
section
/-! DEFINITION. The reading of a word as a command. spec/opcode_table.json gives no row any bits
("fields" is empty in every row and no row has "fixed"), so no word spells a command. -/

namespace Sys2Proof

/-- The command that the low `nbits` bits of `w` spell by the table: none, since the table gives no
row any bits (00_scope.md, the reader's counts: n_rows_with_fixed 0, n_rows_with_fields 0). -/
def decodeTableWord (_nbits _w : Nat) : Option Instr := none

end Sys2Proof
end

