-- ==== Sys2Proof/Config.lean ====
section
/-! DEFINITION. What an implementation fixes and the manual leaves open: the free values, and the one
byte that memory which nothing has written reads as. -/

namespace Sys2Proof.Config

/-- FREE VALUE (DESIGN CHOICE, log entry 9): the measured speed, in tenths of an rpm, of a regulation sample whose
period is 0 µs. R3 gives 75,000,000 / Pm rounded half up, which says nothing for Pm = 0. -/
opaque speedOfZeroPeriod : Nat

/-- FREE VALUE (DESIGN CHOICE, log entry 25): whether the requests of a carriage-fault taken at a count of the crystal,
with an attempt in progress, are on their way after the step that takes it. If not, they reach their units in that
step (R93, R114). The rules allow both orders of a cause and an attempt's end at one moment (R93, R132). -/
opaque faultRequestsLate : Nat → Bool

/-- DESIGN CHOICE (log entry 4): what a byte of the static RAM that nothing has written reads as.
The manual gives the RAM no contents after power-on. -/
def unwrittenByte : BitVec 8 := 0

end Sys2Proof.Config
end

