-- ==== Sys2Proof/Machine/State.lean ====
section
/-! DEFINITION. Everything the LD-2418 holds, as plain data, block by block in the manual's own order,
and the state right after reset. Numbers that the manual counts are Nat (the saturating counters among
them); memory words, frame signatures, byte enables and converter readings are bit vectors. Times are
stamps of the 1 MHz timebase in µs, but for the carrier generator and the PWM period, which are stamps
of the 4 MHz crystal (DESIGN CHOICE, log entry 1): a timer that is stopped is `none`. -/

namespace Sys2Proof.Machine

/-! ## Code sets (12_memory_formats.md, Code values) -/

/-- A drum speed: 60, 90 or 120 rpm (R4). -/
inductive Speed where
  | rpm60 | rpm90 | rpm120
deriving DecidableEq, Repr

/-- The eight drum states (01_the_drum.md, Drum states). -/
inductive DrumState where
  | stopped | ramping | settling | inBand | bandWarning | faultWait | latched | parking
deriving DecidableEq, Repr

/-- The ramp modes (R7). -/
inductive RampMode where
  | linear | staircase
deriving DecidableEq, Repr

/-- The park modes (R5). -/
inductive ParkMode where
  | coast | brake
deriving DecidableEq, Repr

/-- The drum fault policies (R17). -/
inductive Policy where
  | off | report | retry | latchCoast | latchBrake
deriving DecidableEq, Repr

/-- The three kinds of drum fault (R14, R15, R16). -/
inductive DrumFault where
  | stall | slip | overcurrent
deriving DecidableEq, Repr

/-- The carriage states (02_carriage_and_scanning.md, The Carriage Drive). -/
inductive CarriageState where
  | unhomed | homing | positioning | atFrame | tracking | fault
deriving DecidableEq, Repr

/-- The scanner states (02_carriage_and_scanning.md, The Scan Unit). -/
inductive ScannerState where
  | idle | warming | ready | scanning | frameDone
deriving DecidableEq, Repr

/-- The states of a Line Ring slot (R60). -/
inductive SlotState where
  | free | filling | filled | sending | sent | held
deriving DecidableEq, Repr

/-- Why a repeat was refused (R68). -/
inductive RepeatRefusal where
  | queueBusy | limitReached | emptyRange | linesGone
deriving DecidableEq, Repr

/-- The line states (05_calls.md, Line states). -/
inductive LineState where
  | onHook | seizeWait | dialing | answerWait | startTone | readyWait | phasing | picture
  | separator | stopTone | releaseGuard
deriving DecidableEq, Repr

/-- The modes of the carrier generator (R53). -/
inductive CarrierMode where
  | still | tone | pulse
deriving DecidableEq, Repr

/-- A control tone of the receiver (R83). -/
inductive Tone where
  | ready | notReady | repeatLines | halt
deriving DecidableEq, Repr

/-- A symbol of a dial string (R81). A digit is 0 to 9. -/
inductive DialSymbol where
  | digit (n : Nat)
  | pause
deriving DecidableEq, Repr

/-- What the Line Unit is timing while DIALING (R80, R81): a break or a make. -/
inductive DialPhase where
  | brk | mk
deriving DecidableEq, Repr

/-- A cause that ends a job (R111 to R116). -/
inductive Cause where
  | aborted | operatorStop | mediaRemoved | carriageFault
deriving DecidableEq, Repr

/-- The outcome of an attempt (R94). -/
inductive AttemptOutcome where
  | sent | noAnswer | notReady | lineLost | drumFault | halted | carriageFault
  | aborted | operatorStop | mediaRemoved
deriving DecidableEq, Repr

/-- The detail of an outcome (R94); `none` is the manual's "empty". -/
inductive Detail where
  | none | bandLost | stall | slip | overcurrent | drumNotReady | noIndex
  | carriageNotReady | scannerNotReady | carriageEvent
deriving DecidableEq, Repr

/-- The final outcome of a destination (R124). -/
inductive FinalOutcome where
  | sent | halted | gaveUp | notSent
deriving DecidableEq, Repr

/-- The signature check of a frame (R71). -/
inductive SigCheck where
  | notCompared | isMatch | mismatch
deriving DecidableEq, Repr

/-- The states of the Job Controller (06, The current job). -/
inductive JobState where
  | idle | mountWait | attempting | retryWait | finishing
deriving DecidableEq, Repr

/-- The mount states (R107, R108). -/
inductive Mount where
  | fresh | opened | stale
deriving DecidableEq, Repr

/-- The progress states of a destination (R124). -/
inductive Progress where
  | untried | attempting | retryWait | final
deriving DecidableEq, Repr

/-- The reason of a refused chain or entry (R100 to R104, R184). -/
inductive RefusalReason where
  | badAddress | frameOutOfRange | badSpeed | badSlots | badPitch | badReferences
  | badDestination | ringTooSmall | chainTooLong | chainMismatch | duplicate | busy | badAction
deriving DecidableEq, Repr

/-- The status of a completion (R104, R115, R116, R118). -/
inductive CompletionStatus where
  | doneAll | donePartial | failed | refused | notFound | ended (cause : Cause)
deriving DecidableEq, Repr

/-- The states of a Return slot (11_mailboxes.md, The Return Mailbox). -/
inductive ReturnState where
  | free | posting | full | fullQuiet
deriving DecidableEq, Repr

/-- The printer states (08_receipt_slips_and_the_desk_clock.md, The printer). -/
inductive PrinterState where
  | idle | printing | paperOut
deriving DecidableEq, Repr

/-- The print flag of a composed slip (R143). -/
inductive PrintFlag where
  | printPending | notPrinted
deriving DecidableEq, Repr

/-- Why a host read is held (R160, R161). -/
inductive HoldCause where
  | pendingWrite | fillingSlot
deriving DecidableEq, Repr

/-- Why a host write is guarded (R157). -/
inductive DropReason where
  | statusPage | preview | ring | history | tcb | toneBank
deriving DecidableEq, Repr

/-- The result of a layout load (R173). -/
inductive LoadResult where
  | accepted | refusedInvalid | refusedBusy
deriving DecidableEq, Repr

/-- The reason of a refused load (R171, R173). -/
inductive LoadReason where
  | badVersion | badCount | misaligned | outsideTop | overlap | busy
deriving DecidableEq, Repr

/-- The kinds of a refused capture (R176). -/
inductive CaptureRefusal where
  | partialBytes | parity | range
deriving DecidableEq, Repr

/-! ## The Profile Shadow (R177) -/

/-- The drum values of the profile, words 0 to 25. -/
structure DrumProfile where
  ff60 : Nat
  ff90 : Nat
  ff120 : Nat
  kp : Nat
  ki : Nat
  dutyMax : Nat
  band : Nat
  lossLimit : Nat
  rampMode : RampMode
  slew : Nat
  stair0 : Nat
  stair1 : Nat
  stair2 : Nat
  hold : Nat
  parkMode : ParkMode
  parkDelay : Nat
  spinupS : Nat
  stallPolicy : Policy
  slipPolicy : Policy
  overcurrentPolicy : Policy
  retryTime : Nat
  retryLimit : Nat
  stallMs : Nat
  ratio : Nat
  deglitch : Nat
  ocCount : Nat
deriving DecidableEq, Repr

/-- The line profile, words 32 to 46: what the attempt snapshot copies (R78). -/
structure LineProfile where
  seizeWait : Nat
  breakMs : Nat
  makeMs : Nat
  answerTimeout : Nat
  windows : Nat
  startToneTime : Nat
  readyWait : Nat
  stopToneTime : Nat
  releaseGuard : Nat
  loopLoss : Nat
  repeatLimit : Nat
  fBlack : Nat
  fWhite : Nat
  fStart : Nat
  fStop : Nat
deriving DecidableEq, Repr

/-- The Profile Shadow: one value for each captured word (R177). -/
structure Profile where
  drum : DrumProfile
  line : LineProfile
  lampWarmUp : Nat
  bank0 : List Nat
  bank1 : List Nat
  header : List Nat
deriving DecidableEq, Repr

/-- The straight curve, 64 entries: entry L is floor((2·255·L + 63) / 126) (R47, R48). -/
def straightCurve : List Nat := (List.range 64).map fun l => (2 * 255 * l + 63) / 126

/-- "WIREPHOTO RECEIPT" and seven spaces, as character codes (R145, R177). -/
def defaultHeader : List Nat :=
  [87, 73, 82, 69, 80, 72, 79, 84, 79, 32, 82, 69, 67, 69, 73, 80, 84, 32, 32, 32, 32, 32, 32, 32]

/-- The reset values of the drum words (R177). -/
def DrumProfile.default : DrumProfile where
  ff60 := 300
  ff90 := 450
  ff120 := 600
  kp := 64
  ki := 8
  dutyMax := 1000
  band := 40
  lossLimit := 3
  rampMode := .linear
  slew := 20
  stair0 := 300
  stair1 := 600
  stair2 := 900
  hold := 4
  parkMode := .coast
  parkDelay := 60
  spinupS := 20
  stallPolicy := .latchBrake
  slipPolicy := .retry
  overcurrentPolicy := .latchCoast
  retryTime := 20
  retryLimit := 3
  stallMs := 250
  ratio := 4
  deglitch := 2
  ocCount := 16

/-- The reset values of the line words (R177). -/
def LineProfile.default : LineProfile where
  seizeWait := 2000
  breakMs := 60
  makeMs := 40
  answerTimeout := 45
  windows := 3
  startToneTime := 3
  readyWait := 30
  stopToneTime := 5
  releaseGuard := 1500
  loopLoss := 400
  repeatLimit := 8
  fBlack := 1300
  fWhite := 2100
  fStart := 1700
  fStop := 1100

/-- The shadow that reset loads (R177). -/
def Profile.default : Profile where
  drum := .default
  line := .default
  lampWarmUp := 30
  bank0 := straightCurve
  bank1 := straightCurve
  header := defaultHeader

/-! ## The Drum Regulator (01_the_drum.md) -/

/-- The motor drive's PWM period in progress (R13, R16). -/
structure Pwm where
  /-- The duty in force in this period: the one set at or before its start (R13). -/
  duty : Nat
  /-- The crystal count at which the period began. -/
  start : Nat
  /-- ILIM has tripped in this period (R13). -/
  tripped : Bool
deriving DecidableEq, Repr

/-- The state of the Drum Regulator (R21 names it all). -/
structure Drum where
  /-- Turn measurement (R1). -/
  indexArmed : Bool
  interval : Option Nat
  synced : Bool
  /-- The length of the interval last ended, and of the one before it, µs (R1). -/
  lenLast : Nat
  lenPrev : Nat
  /-- When the last tach event came, or none since reset (DEDUCED, log entry 11). -/
  lastTach : Option Nat
  turnErrors : Nat
  /-- The start time of the open regulation sample, or none open (R3). -/
  sampleStart : Option Nat
  sampleCount : Nat
  /-- The period of a sample that a tach event closed and no REGULATION_SAMPLE has yet taken (R3,
  DESIGN CHOICE, log entry 2). -/
  closedSample : Option Nat
  measured : Nat
  state : DrumState
  duty : Nat
  brake : Bool
  target : Option Speed
  spinRequest : Option Speed
  ref : Nat
  integral : Int
  inBandCount : Nat
  outOfBandRun : Nat
  rampMode : RampMode
  /-- The spin-up and stall timers: when they started (R10, R14). -/
  spinUp : Option Nat
  stallTimer : Option Nat
  /-- The ramp tick, wait and rest timers: when they run out (R8, R18, R6). -/
  rampTick : Option Nat
  wait : Option Nat
  rest : Option Nat
  slipRun : Nat
  ocRun : Nat
  retryCount : Nat
  flagStall : Bool
  flagSlip : Bool
  flagOvercurrent : Bool
  stallEvents : Nat
  slipEvents : Nat
  overcurrentEvents : Nat
  /-- A BAND_LOST that a SPIN or PARK has signalled and the Line Unit has not yet taken (R4, R5). -/
  bandLostSignal : Bool
  /-- Detections made and not yet taken as fault events (DESIGN CHOICE, log entry 2): the slip run has reached
  DEGLITCH, the overcurrent run OC_COUNT, the out-of-band run LOSS_LIMIT (R15, R16, R12); the stall or the
  spin-up timer had run out when another fault of the same moment stopped it (R17). -/
  slipDue : Bool
  overcurrentDue : Bool
  lossDue : Bool
  stallDue : Bool
  spinUpDue : Bool
  pwm : Pwm
deriving DecidableEq, Repr

/-- The Drum Regulator after reset (R1, R3, R13, R21). -/
def Drum.reset : Drum where
  indexArmed := false
  interval := none
  synced := false
  lenLast := 0
  lenPrev := 0
  lastTach := none
  turnErrors := 0
  sampleStart := none
  sampleCount := 0
  closedSample := none
  measured := 0
  state := .stopped
  duty := 0
  brake := false
  target := none
  spinRequest := none
  ref := 0
  integral := 0
  inBandCount := 0
  outOfBandRun := 0
  rampMode := .linear
  spinUp := none
  stallTimer := none
  rampTick := none
  wait := none
  rest := none
  slipRun := 0
  ocRun := 0
  retryCount := 0
  flagStall := false
  flagSlip := false
  flagOvercurrent := false
  stallEvents := 0
  slipEvents := 0
  overcurrentEvents := 0
  bandLostSignal := false
  slipDue := false
  overcurrentDue := false
  lossDue := false
  stallDue := false
  spinUpDue := false
  pwm := { duty := 0, start := 0, tripped := false }

/-! ## The Carriage Drive (02_carriage_and_scanning.md) -/

/-- The state of the Carriage Drive (R30 names it), with the levels of its two switches. -/
structure Carriage where
  state : CarriageState
  position : Nat
  homed : Bool
  target : Option Nat
  pitch : Option Nat
  /-- The steps still due in the advance in progress (R28). -/
  stepsDue : Nat
  /-- The steps issued in the homing in progress (R25). -/
  homingSteps : Nat
  /-- When the next step, switch check or final wait of the move falls (R25, R26, R28). -/
  nextStep : Option Nat
  /-- DIR: set away from HOME (R25, R26, R28). -/
  dirAway : Bool
  /-- The HOME and LIMIT switches (DEDUCED, log entry 6). -/
  home : Bool
  limit : Bool
  /-- Events given and not yet taken: arrival, limit-truncation, carriage-fault. -/
  arrivalEvent : Bool
  truncationEvent : Bool
  faultEvent : Bool
deriving DecidableEq, Repr

/-- The Carriage Drive after reset (R30), its switches inactive (DESIGN CHOICE, log entry 5). -/
def Carriage.reset : Carriage where
  state := .unhomed
  position := 0
  homed := false
  target := none
  pitch := none
  stepsDue := 0
  homingSteps := 0
  nextStep := none
  dirAway := false
  home := false
  limit := false
  arrivalEvent := false
  truncationEvent := false
  faultEvent := false

/-! ## The Scan Unit (02_carriage_and_scanning.md, 03_the_tone_path.md) -/

/-- One frame of the attempt's frame list (R31). -/
structure Frame where
  start : Nat
  count : Nat
  pitch : Nat
  k : Nat
  bank : Nat
  bypassTone : Bool
  testWedge : Bool
  black : Nat
  white : Nat
deriving DecidableEq, Repr

/-- One word on its way to memory: its address, its byte enables and its bytes. -/
structure Access where
  addr : Nat
  be : ByteEnables
  data : Word
deriving DecidableEq, Repr

/-- One entry of the scan FIFO (R36). -/
structure FifoEntry where
  /-- The word's number within the level area. -/
  word : Nat
  access : Access
  closed : Bool
deriving DecidableEq, Repr

/-- The line in progress (R34, R35). -/
structure LineInProgress where
  slot : Nat
  line : Nat
  /-- The position count: how many of the line's slot events have fallen (R35). -/
  positions : Nat
  /-- Sampling of the line is over (R35, R41). -/
  sampled : Bool
  /-- The header words that have reached memory, 0 to 4 (R37). -/
  headerWritten : Nat
deriving DecidableEq, Repr

/-- The header register (R34, R35, R37). -/
structure Header where
  frame : Nat
  line : Nat
  black : Nat
  white : Nat
  heldRefs : Bool
  overrun : Bool
  size : Nat
deriving DecidableEq, Repr

/-- The state of the Scan Unit (R43 names it). -/
structure Scan where
  state : ScannerState
  lamp : Bool
  warm : Option Nat
  frames : List Frame
  current : Nat
  nextLine : Nat
  line : Option LineInProgress
  /-- The last accepted pair of the attempt: black, white (R44). -/
  lastPair : Option (Nat × Nat)
  /-- The pair used for the turn's line, once formed (R44, R45). -/
  pair : Option (Nat × Nat)
  /-- The turn's black and white reference samples so far (R23). -/
  blackRefs : List Nat
  whiteRefs : List Nat
  /-- The reference sample of the interval in progress has been taken (R23). -/
  refTaken : Bool
  /-- The scan FIFO, oldest entry first (R36). -/
  fifo : List FifoEntry
  header : Header
  sig : Sig
  arrivalNoted : Bool
  /-- The lines of the current frame that have reached line-complete (R38). -/
  linesDone : Nat
  /-- A limit-truncation ends the frame at the line-complete of the line in progress (R38). -/
  truncating : Bool
  stalls : Nat
  overruns : Nat
  holds : Nat
deriving DecidableEq, Repr

/-- An empty header register (R43). -/
def Header.empty : Header where
  frame := 0
  line := 0
  black := 0
  white := 0
  heldRefs := false
  overrun := false
  size := 0

/-- The Scan Unit after reset (R43). -/
def Scan.reset : Scan where
  state := .idle
  lamp := false
  warm := none
  frames := []
  current := 0
  nextLine := 0
  line := none
  lastPair := none
  pair := none
  blackRefs := []
  whiteRefs := []
  refTaken := false
  fifo := []
  header := .empty
  sig := 1
  arrivalNoted := false
  linesDone := 0
  truncating := false
  stalls := 0
  overruns := 0
  holds := 0

/-! ## The Line Ring (04_the_line_ring.md) -/

/-- One entry of the Slot Table (R60). A FREE slot holds frame 0, line 0. -/
structure RingSlot where
  state : SlotState
  frame : Nat
  line : Nat
deriving DecidableEq, Repr

/-- What the frame-done record holds of a frame whose FRAME_DONE has come (R62), with the scan
signature handed on at it (R40). -/
structure FrameDone where
  frame : Nat
  linesScanned : Nat
  sig : Sig
deriving DecidableEq, Repr

/-- The state of the Line Ring and of the Line Unit's sending side (R77 names it). -/
structure Ring where
  slots : List RingSlot
  writeIndex : Nat
  /-- The send position: frame and next line (R63). -/
  sendFrame : Nat
  sendLine : Nat
  /-- The slot being read, and whether the reading is a first send (R63). -/
  picked : Option Nat
  firstSend : Bool
  /-- The SENDING slot is marked for a repeat (R69). -/
  marked : Bool
  repeatQueue : List Nat
  frameDone : List FrameDone
  latch : Option Nat
  /-- The send prefetch buffer, oldest word first, and its fetch pointer (R66). -/
  buffer : List (Nat × Word)
  fetch : Nat
  gaps : Nat
  starves : Nat
  grants : Nat
  refusals : Nat
  lastRefusal : Option RepeatRefusal
deriving DecidableEq, Repr

/-- The Line Ring after reset (R60, R77). -/
def Ring.reset : Ring where
  slots := []
  writeIndex := 0
  sendFrame := 0
  sendLine := 0
  picked := none
  firstSend := false
  marked := false
  repeatQueue := []
  frameDone := []
  latch := none
  buffer := []
  fetch := 0
  gaps := 0
  starves := 0
  grants := 0
  refusals := 0
  lastRefusal := none

/-! ## The Line Unit (05_calls.md, 03_the_tone_path.md) -/

/-- The carrier generator (03, The carrier generator; R55 gives its reset). -/
structure Carrier where
  mode : CarrierMode
  level : Bool
  half : Nat
  /-- The crystal count at which the half-cycle in progress began: the generator's own count is the
  crystal's distance from it (DESIGN CHOICE, log entry 1). -/
  since : Nat
  pending : Option Nat
deriving DecidableEq, Repr

/-- The tone monitor (R83, R84). A band of `none` is NONE. -/
structure Monitor where
  windowEnd : Option Nat
  band : Option Tone
  count : Nat
  recognised : Bool
deriving DecidableEq, Repr

/-- What a CALL carries (R78). -/
structure CallInfo where
  dial : List DialSymbol
  frames : List Frame
  k : Nat
  phasing : Nat
  delay : Nat
  window : Nat
deriving DecidableEq, Repr

/-- The state of the Line Unit (R99 names it). -/
structure Line where
  state : LineState
  /-- The seize relay is closed; during a dial break LINE is inactive all the same (R80). -/
  relay : Bool
  sendLamp : Bool
  /-- An attempt is in progress in the Line Unit: from the CALL to the attempt end (R78, R94). -/
  active : Bool
  snapshot : Option LineProfile
  fBlack : Nat
  fWhite : Nat
  pairDefaulted : Bool
  hBlack : Nat
  hWhite : Nat
  hStart : Nat
  hStop : Nat
  call : Option CallInfo
  dialCursor : Nat
  dialPhase : Option DialPhase
  /-- The breaks of the symbol in hand still to be sent after the one in progress (R81). -/
  breaksLeft : Nat
  dialTimer : Option Nat
  seizeTimer : Option Nat
  answerTimer : Option Nat
  startToneTimer : Option Nat
  readyTimer : Option Nat
  stopToneTimer : Option Nat
  guardTimer : Option Nat
  /-- LOOP, the loop current sense; the loop-loss timer's start; LOOP as last presented (R82, R98). -/
  loop : Bool
  loopTimer : Option Nat
  loopShown : Bool
  monitor : Monitor
  /-- The model's own: the tone recognised at a window's end and not yet taken by the Line Unit (R84; DESIGN
  CHOICE, log entry 2). -/
  toneDue : Option Tone
  lastTone : Option (Tone × LineState)
  carrier : Carrier
  /-- The phasing turn or the separator turn count (R89, R92). -/
  turnCount : Nat
  /-- The slot events of the interval in progress that have fallen (R22). -/
  slotsFallen : Nat
  /-- The level given at the position before, in this turn; 255 at its start (R67). -/
  lastLevel : Nat
  sendSig : Sig
  grantsUsed : Nat
  lastOutcome : Option AttemptOutcome
  lastDetail : Detail
deriving DecidableEq, Repr

/-- The carrier generator after reset (R55). -/
def Carrier.reset : Carrier where
  mode := .still
  level := false
  half := 0
  since := 0
  pending := none

/-- The tone monitor stopped, its run cleared (R84, R99). -/
def Monitor.stopped : Monitor where
  windowEnd := none
  band := none
  count := 0
  recognised := false

/-- The Line Unit after reset (R59, R99). -/
def Line.reset : Line where
  state := .onHook
  relay := false
  sendLamp := false
  active := false
  snapshot := none
  fBlack := 0
  fWhite := 0
  pairDefaulted := false
  hBlack := 0
  hWhite := 0
  hStart := 0
  hStop := 0
  call := none
  dialCursor := 0
  dialPhase := none
  breaksLeft := 0
  dialTimer := none
  seizeTimer := none
  answerTimer := none
  startToneTimer := none
  readyTimer := none
  stopToneTimer := none
  guardTimer := none
  loop := false
  loopTimer := none
  loopShown := false
  monitor := .stopped
  toneDue := none
  lastTone := none
  carrier := .reset
  turnCount := 0
  slotsFallen := 0
  lastLevel := 255
  sendSig := 1
  grantsUsed := 0
  lastOutcome := none
  lastDetail := .none

/-! ## The Attempt Record (R71, R78, R94, R125) -/

/-- A time of day with the clock's set flag (R125, R140). -/
structure TimeOfDay where
  hours : Nat
  minutes : Nat
  seconds : Nat
  isSet : Bool
deriving DecidableEq, Repr

/-- The record's entry for one frame (R71). -/
structure FrameEntry where
  firstSent : Nat
  short : Nat
  sig : Sig
  check : SigCheck
  /-- The frame's sending ended at a frame end (R64, R92). -/
  ended : Bool
deriving DecidableEq, Repr

/-- The Attempt Record. -/
structure AttemptRecord where
  destSlot : Nat
  dirIndex : Nat
  name : List Nat
  attemptNo : Nat
  startTime : TimeOfDay
  startUptime : Nat
  frameCount : Nat
  captions : List Nat
  frames : List FrameEntry
  repeatsServed : Nat
  repeatsRefused : Nat
  starves : Nat
  gaps : Nat
  answered : Bool
  outcome : Option AttemptOutcome
  detail : Detail
  endingState : LineState
  endUptime : Nat
deriving DecidableEq, Repr

/-- The time of day after reset (R140). -/
def TimeOfDay.zero : TimeOfDay where
  hours := 0
  minutes := 0
  seconds := 0
  isSet := false

/-- The empty record of reset (R122). -/
def AttemptRecord.empty : AttemptRecord where
  destSlot := 0
  dirIndex := 0
  name := []
  attemptNo := 0
  startTime := .zero
  startUptime := 0
  frameCount := 0
  captions := []
  frames := []
  repeatsServed := 0
  repeatsRefused := 0
  starves := 0
  gaps := 0
  answered := false
  outcome := none
  detail := .none
  endingState := .onHook
  endUptime := 0

/-! ## The Job Controller (06, 07) -/

/-- What a job record holds of one member (R105). -/
structure Member where
  addr : Nat
  caption : Nat
  start : Nat
  count : Nat
  pitch : Nat
  bank : Nat
  bypassTone : Bool
  testWedge : Bool
  black : Nat
  white : Nat
deriving DecidableEq, Repr

/-- A job record (R105). -/
structure Job where
  members : List Member
  speed : Speed
  k : Nat
  phasing : Nat
  delay : Nat
  window : Nat
  retryLimit : Nat
  retryInterval : Nat
  urgent : Bool
  destinations : List Nat
deriving DecidableEq, Repr

/-- One entry of the Destination Progress table (R124). -/
structure Dest where
  dirIndex : Nat
  progress : Progress
  attempts : Nat
  lastOutcome : Option AttemptOutcome
  lastDetail : Detail
  frames : List FrameEntry
  served : Nat
  refused : Nat
  final : Option FinalOutcome
  /-- The cause attached to a NOT_SENT destination (R137). -/
  cause : Option Cause
deriving DecidableEq, Repr

/-- The model's own: an end cause taken whose requests are on their way, so that an attempt end of the same moment
may still be taken before them (R114, R132). `freeAhead`: an ABORT's take waits for the end, and its FREE enters
the control requester's list ahead of so many of the Job Controller's operations (R165, R184). -/
structure LateEnd where
  freeAhead : Option Nat
deriving DecidableEq, Repr

/-- The state of the Job Controller (R122, R139 name it). -/
structure Jobs where
  state : JobState
  queue : List Job
  current : Option Job
  endCause : Option Cause
  mount : Mount
  /-- CLAMP shows the clamp closed. -/
  clampClosed : Bool
  mountLamp : Bool
  progress : List Dest
  /-- The Retry List: destination slot and due uptime, head first (R134). -/
  retryList : List (Nat × Nat)
  scanSigs : List Sig
  lineAtRest : Bool
  /-- The destination slot of the attempt start in flight (R129). -/
  startInFlight : Option Nat
  attemptInProgress : Bool
  /-- The Directory entry read at the attempt start had NO_RETRY set (R123, R133). -/
  noRetry : Bool
  parkTimer : Option Nat
  /-- Current destination slot and attempt number, as shown (R139). -/
  currentDest : Option (Nat × Nat)
  /-- The model's own: the end cause has been taken and its requests, the cut among them, are on their way (R114,
  R132; DEDUCED, log entry 25). -/
  requestsDue : Option LateEnd
  refusals : Nat
  lastRefusal : Option RefusalReason
  directoryFaults : Nat
deriving DecidableEq, Repr

/-- The Job Controller after reset (R108, R122, R139), the clamp closed (DESIGN CHOICE, log entry 5). -/
def Jobs.reset : Jobs where
  state := .idle
  queue := []
  current := none
  endCause := none
  mount := .fresh
  clampClosed := true
  mountLamp := false
  progress := []
  retryList := []
  scanSigs := []
  lineAtRest := true
  startInFlight := none
  attemptInProgress := false
  noRetry := false
  parkTimer := none
  currentDest := none
  requestsDue := none
  refusals := 0
  lastRefusal := none
  directoryFaults := 0

/-! ## The Slip Unit and the Desk Clock (08) -/

/-- A composed slip: a copy of the Attempt Record with its number, header text and print flag
(08, Taking an Attempt Record). -/
structure Slip where
  record : AttemptRecord
  seq : Nat
  header : List Nat
  flag : PrintFlag
deriving DecidableEq, Repr

/-- A record of the log write list: the words of its Slip Log write still to reach memory (R144). -/
structure LogRecord where
  seq : Nat
  todo : List Access
deriving DecidableEq, Repr

/-- A character on SLIP_TXD (R147). -/
structure TxChar where
  code : BitVec 7
  start : Nat
  /-- Paper ran out while it was being sent: it finishes its frame and counts for nothing (R150). -/
  orphan : Bool
deriving DecidableEq, Repr

/-- The state of the Slip Unit (R153 names it), with the levels of its two inputs. -/
structure SlipUnit where
  nextSeq : Nat
  queue : List Slip
  logList : List LogRecord
  logIndex : Nat
  printer : PrinterState
  /-- The print cursor: line and character of the head slip next to go out, whether the head slip
  has begun, and whether this printing starts with the REPRINT line (R148, R151). -/
  cursorLine : Nat
  cursorChar : Nat
  begun : Bool
  reprinting : Bool
  txd : Option TxChar
  /-- SLIP_BUSY and SLIP_PAPER. -/
  busy : Bool
  paper : Bool
  paperTimer : Option Nat
  lastComposed : Nat
  lastPrinted : Nat
  lastLogged : Nat
  unprinted : Nat
  reprints : Nat
  lost : Nat
deriving DecidableEq, Repr

/-- The Slip Unit after reset (R153), paper loaded and the printer not busy (DESIGN CHOICE, log entry 5). -/
def SlipUnit.reset : SlipUnit where
  nextSeq := 1
  queue := []
  logList := []
  logIndex := 0
  printer := .idle
  cursorLine := 0
  cursorChar := 0
  begun := false
  reprinting := false
  txd := none
  busy := false
  paper := true
  paperTimer := none
  lastComposed := 0
  lastPrinted := 0
  lastLogged := 0
  unprinted := 0
  reprints := 0
  lost := 0

/-- The Desk Clock (R140, R141). -/
structure Clock where
  time : TimeOfDay
  uptime : Nat
  /-- When the next second tick falls; none while RESET is asserted. -/
  nextTick : Option Nat
deriving DecidableEq, Repr

/-- The Desk Clock after reset (R140). -/
def Clock.reset : Clock where
  time := .zero
  uptime := 0
  nextTick := none

/-! ## Layout and Profile (10) -/

/-- A full layout, as a load read it from the Layout Block (R169). -/
structure Layout where
  generation : Word
  sendBase : Nat
  sendCount : Nat
  returnBase : Nat
  returnCount : Nat
  ringBase : Nat
  ringCount : Nat
  profileBase : Nat
  logBase : Nat
  logCount : Nat
  statusBase : Nat
  directoryBase : Nat
  directoryCount : Nat
  previewBase : Nat
  memoryTop : Nat
deriving DecidableEq, Repr

/-- The load in progress (R171, R172). -/
inductive Load where
  | block
  | profile (candidate : Layout)
deriving DecidableEq, Repr

/-- The state of Layout and Profile but for the shadow (R181 names it). The layout state is LOADING
while `load` is some, else ACTIVE when a layout is in force and NONE when none is (R169). -/
structure LayoutUnit where
  inForce : Option Layout
  load : Option Load
  reload : Bool
  generationRead : Word
  lastResult : Option LoadResult
  lastReason : Option LoadReason
  refusals : Nat
  partials : Nat
  parities : Nat
  ranges : Nat
  lastRefusedWord : Option Nat
  lastRefusalKind : Option CaptureRefusal
deriving DecidableEq, Repr

/-- Layout and Profile after reset (R169, R181). -/
def LayoutUnit.reset : LayoutUnit where
  inForce := none
  load := none
  reload := false
  generationRead := 0
  lastResult := none
  lastReason := none
  refusals := 0
  partials := 0
  parities := 0
  ranges := 0
  lastRefusedWord := none
  lastRefusalKind := none

/-! ## The Mailbox Unit (11) -/

/-- A completion handed to the Return side (R185). -/
structure Completion where
  addr : Nat
  status : CompletionStatus
  reason : Option RefusalReason
  ok : Nat
  failed : Nat
  quiet : Bool
  chainEnd : Bool
deriving DecidableEq, Repr

/-- The head's values that a chain fetch keeps for its later members (R102, R103). -/
structure ChainHead where
  speed : Speed
  k : Nat
  phasing : Nat
  delay : Nat
  window : Nat
  retryLimit : Nat
  retryInterval : Nat
  urgent : Bool
  destinations : List Nat
deriving DecidableEq, Repr

/-- What the take in progress is doing (R183, R184). -/
inductive TakePhase where
  /-- Reading the two words of the Send entry. -/
  | reading
  /-- Fetching the chain: the head's values once read, the members read so far, and the address of
  the member being read (R100). -/
  | fetching (head : Option ChainHead) (members : List Member) (addr : Nat)
  /-- Waiting for the Job Controller to hand on the completions of the queued job whose ABORT this
  is (R115). -/
  | aborting
deriving DecidableEq, Repr

/-- The take in progress (R183). -/
structure Take where
  entryAddr : Nat
  /-- A load ended ACCEPTED during the take, so its end does not move the take index (R189). -/
  stale : Bool
  phase : TakePhase
deriving DecidableEq, Repr

/-- The state of the Mailbox Unit (R189 names it). -/
structure Mailbox where
  takeIndex : Nat
  /-- The Noted Set: the numbers of the noted entries (R182). -/
  noted : List Nat
  take : Option Take
  slots : List ReturnState
  postIndex : Nat
  backlog : List Completion
  attn : Bool
  resetSeen : Bool
deriving DecidableEq, Repr

/-- The Mailbox Unit after reset (R189). -/
def Mailbox.reset : Mailbox where
  takeIndex := 0
  noted := []
  take := none
  slots := []
  postIndex := 0
  backlog := []
  attn := false
  resetSeen := true

/-! ## The Memory Gate (09) -/

/-- A host write (R155); `addr` is its word's address. -/
structure HostWrite where
  addr : Nat
  data : Word
  be : ByteEnables
deriving DecidableEq, Repr

/-- The host read the bus carries: the word the host named, the word the read will touch (R162), and
why it is held, if it is (R154). -/
structure HostRead where
  addr : Nat
  target : Nat
  held : Option HoldCause
deriving DecidableEq, Repr

/-- One entry of the Guard List (R157). `bank` says which tone bank a TONE_BANK entry covers. -/
structure Guard where
  base : Nat
  length : Nat
  reason : DropReason
  bank : Nat
deriving DecidableEq, Repr

/-- A watched write handed to the Mailbox Unit (R156): the Send entry, or the Return slot and the byte
written to its action byte. -/
inductive MailboxWrite where
  | send (entry : Nat)
  | ret (slot : Nat) (action : Byte)
deriving DecidableEq, Repr

/-- A watched write handed to Layout and Profile (R156): a write to the generation word, or to a word of
the Profile Area. -/
inductive LayoutWrite where
  | generation
  | profile (word : Nat) (data : Word) (be : ByteEnables)
deriving DecidableEq, Repr

/-- The operations of the control requester (R165). -/
inductive OpKind where
  /-- The two words of a Send entry (R183): its number under the layout of the take. -/
  | sendRead (entry : Nat)
  /-- The 32 words of a chain member (R100). -/
  | memberRead
  /-- FREE to a Send entry's action byte (R184). -/
  | freeWrite
  /-- The four words of a posting, into a slot of the present table or (none) of an old one (R185,
  R189). -/
  | posting (slot : Option Nat) (quiet : Bool)
  /-- The 12 words of a Directory entry; an abandoned start's words are discarded (R123, R130). -/
  | directoryRead (live : Bool)
  /-- The history words, read and written back, with the outcome to record (R138). -/
  | historyRead (sent : Bool) (outcome : Nat) (time : TimeOfDay) (caption : Nat)
  | historyWrite
  /-- The results area of a member: of one that is not the last of its chain, and of the last one, of the
  current job or of a job aborted from the queue (R117, R115). -/
  | memberResults
  | results
  | abortedResults (job : Job)
  /-- The Layout Block, and the candidate's Profile Area (R171, R172). -/
  | blockRead
  | profileRead
deriving DecidableEq, Repr

/-- The issuers of the control requester's operations (R165). -/
inductive Issuer where
  | mailboxUnit | jobController | layoutAndProfile
deriving DecidableEq, Repr

/-- One word of an operation still to be carried out (R165). -/
inductive OpWord where
  | rd (addr : Nat)
  | wr (access : Access)
deriving DecidableEq, Repr

/-- An operation of the control requester: the words still to be carried out, and the words read so
far, in order (R165). -/
structure Op where
  kind : OpKind
  todo : List OpWord
  got : List Word
deriving DecidableEq, Repr

/-- The word in progress on the memory port (R163). A scan word whose line has been dropped, or a
prefetch read whose slot has been left, still completes (R32, R66): it is then not `live`. -/
inductive PortWord where
  | scanEntry (access : Access) (live : Bool)
  | scanHeader (access : Access) (live : Bool)
  | prefetch (addr word : Nat) (live : Bool)
  | hostRead
  | hostWrite
  | control
  | slipLog
deriving DecidableEq, Repr

/-- The state of the Memory Gate (09, the Gate's table). -/
structure Gate where
  /-- The posted-write buffer, head first. -/
  buffer : List HostWrite
  waiting : Option HostWrite
  guards : List (Option Guard)
  read : Option HostRead
  /-- The data last returned to the host (R154, DESIGN CHOICE, log entry 21). -/
  readData : Word
  port : Option PortWord
  /-- A mark for each of the 64 Status Page words (R166). -/
  marks : List Bool
  dropped : Nat
  droppedAddr : Nat
  droppedReason : Option DropReason
  /-- The control requester's operations, oldest first (R165). -/
  ops : List Op
  /-- Watched writes handed on and not yet acted on, oldest first (R156, DESIGN CHOICE, log entry 12). -/
  toMailbox : List MailboxWrite
  toLayout : List LayoutWrite
deriving DecidableEq, Repr

/-- The Memory Gate after reset (R168). -/
def Gate.reset : Gate where
  buffer := []
  waiting := none
  guards := List.replicate 12 none
  read := none
  readData := 0
  port := none
  marks := List.replicate 64 false
  dropped := 0
  droppedAddr := 0
  droppedReason := none
  ops := []
  toMailbox := []
  toLayout := []

/-! ## The static RAM -/

/-- The memory behind the part: the bytes that differ from what unwritten memory reads as, by strictly
rising address (00_scope.md: 24-bit byte addresses). -/
abbrev Memory := List Host.Cell

/-- The canonical form: addresses strictly rising, and no entry equal to what an unlisted address reads
as. -/
def Memory.wf : Memory → Bool
  | [] => true
  | [c] => c.2 != Config.unwrittenByte
  | c :: d :: m => c.2 != Config.unwrittenByte && decide (c.1 < d.1) && Memory.wf (d :: m)

/-! ## The whole machine -/

/-- No command ends in a fault: the manual gives every event that can reach the part an effect, and a
host cycle reaches every address of the 24-bit space (R154, R155). The type has no constructor. -/
inductive Fault where
deriving DecidableEq, Repr

/-- A refusal. -/
inductive Refusal where
  /-- Raised by exec's arm of a command that has no meaning yet. Safe: the machine stops. -/
  | notModelled (mnemonic : String)
deriving DecidableEq, Repr

/-- The state of the LD-2418 and of the memory it sits in front of, with the queue of commands that
are waiting. -/
structure State where
  /-- Counts of the 4 MHz crystal (DESIGN CHOICE, log entry 1). -/
  crystal : Nat
  /-- RESET is asserted (R168, DEDUCED, log entry 3). -/
  inReset : Bool
  drum : Drum
  carriage : Carriage
  scan : Scan
  ring : Ring
  line : Line
  record : AttemptRecord
  jobs : Jobs
  slips : SlipUnit
  clock : Clock
  profile : Profile
  layout : LayoutUnit
  mailbox : Mailbox
  gate : Gate
  mem : Memory
  /-- The commands that are waiting, first in, first out. -/
  pending : List Instr
deriving DecidableEq, Repr

/-- The machine right after reset: every block in its reset state, RESET still asserted, memory as a
RAM that nothing has written (R168, DESIGN CHOICE, log entries 3, 4 and 5). -/
def State.reset : State where
  crystal := 0
  inReset := true
  drum := .reset
  carriage := .reset
  scan := .reset
  ring := .reset
  line := .reset
  record := .empty
  jobs := .reset
  slips := .reset
  clock := .reset
  profile := .default
  layout := .reset
  mailbox := .reset
  gate := .reset
  mem := []
  pending := []

/-! ## One update per block -/

def State.withDrum (s : State) (d : Drum) : State := { s with drum := d }
def State.withCarriage (s : State) (c : Carriage) : State := { s with carriage := c }
def State.withScan (s : State) (c : Scan) : State := { s with scan := c }
def State.withRing (s : State) (r : Ring) : State := { s with ring := r }
def State.withLine (s : State) (l : Line) : State := { s with line := l }
def State.withRecord (s : State) (r : AttemptRecord) : State := { s with record := r }
def State.withJobs (s : State) (j : Jobs) : State := { s with jobs := j }
def State.withSlips (s : State) (u : SlipUnit) : State := { s with slips := u }
def State.withClock (s : State) (c : Clock) : State := { s with clock := c }
def State.withProfile (s : State) (p : Profile) : State := { s with profile := p }
def State.withLayout (s : State) (l : LayoutUnit) : State := { s with layout := l }
def State.withMailbox (s : State) (m : Mailbox) : State := { s with mailbox := m }
def State.withGate (s : State) (g : Gate) : State := { s with gate := g }
def State.withMem (s : State) (m : Memory) : State := { s with mem := m }
def State.withPending (s : State) (q : List Instr) : State := { s with pending := q }

end Sys2Proof.Machine
end

