-- ==== Sys2Proof/Machine/Ops.lean ====
section
/-! DEFINITION. The named operations over counters, times, lists and memory that every block uses. -/

namespace Sys2Proof.Machine

/-! ## Counters and lists -/

/-- Adds `n` to a counter of the part: it saturates at 65,535 (00_scope.md, Counters). -/
def satAdd (c n : Nat) : Nat := min (c + n) 65535

/-- Adds 1 to a counter of the part. -/
def satInc (c : Nat) : Nat := satAdd c 1

/-- `l` with `f` applied to entry `i`; `l` itself when there is none. -/
def updateAt {α : Type} (f : α → α) : List α → Nat → List α
  | [], _ => []
  | x :: l, 0 => f x :: l
  | x :: l, i + 1 => x :: updateAt f l i

/-- The entry after entry `i` of a ring of `n`, the last followed by entry 0. -/
def ringNext (i n : Nat) : Nat := if i + 1 < n then i + 1 else 0

/-- The entry before entry `i` of a ring of `n`, entry 0 preceded by the last. -/
def ringPrev (i n : Nat) : Nat := if i = 0 then n - 1 else i - 1

/-- a / b rounded half up, for naturals. -/
def roundDiv (a b : Nat) : Nat := (2 * a + b) / (2 * b)

/-! ## Time (DESIGN CHOICE, log entry 1) -/

/-- The 1 MHz timebase derived from the 4 MHz crystal, in µs (00_scope.md, Signals). -/
def State.now (s : State) : Nat := s.crystal / 4

/-- A timer that runs out at the stamp it holds has run out by `t`. -/
def expired (timer : Option Nat) (t : Nat) : Bool :=
  match timer with
  | some due => decide (due ≤ t)
  | none => false

/-- A timer that holds its start has run for `length` by `t`. -/
def hasRun (timer : Option Nat) (length t : Nat) : Bool :=
  match timer with
  | some start => decide (start + length ≤ t)
  | none => false

/-! ## Memory -/

/-- The byte at an address. -/
def Memory.byte : Memory → Nat → Byte
  | [], _ => Config.unwrittenByte
  | c :: m, a => if c.1 = a then c.2 else Memory.byte m a

/-- Writes one byte, keeping the canonical form. -/
def Memory.setByte : Memory → Nat → Byte → Memory
  | [], a, b => if b = Config.unwrittenByte then [] else [(a, b)]
  | c :: m, a, b =>
    if a < c.1 then (if b = Config.unwrittenByte then c :: m else (a, b) :: c :: m)
    else if a = c.1 then (if b = Config.unwrittenByte then m else (a, b) :: m)
    else c :: Memory.setByte m a b

/-- The word at an address: byte 0 is its least significant byte (00_scope.md, Addresses). -/
def Memory.word (m : Memory) (a : Nat) : Word :=
  m.byte (a + 3) ++ m.byte (a + 2) ++ m.byte (a + 1) ++ m.byte a

/-- Byte i of a word. -/
def byteOf (w : Word) (i : Nat) : Byte := w.extractLsb' (8 * i) 8

/-- Writes byte i of an access when its byte enable is set. -/
def Memory.writeLane (m : Memory) (x : Access) (i : Nat) : Memory :=
  if x.be.getLsbD i then m.setByte (x.addr + i) (byteOf x.data i) else m

/-- One word's write: the bytes its byte enables name; the others keep their contents (R36, R155). -/
def Memory.write (m : Memory) (x : Access) : Memory :=
  (((m.writeLane x 0).writeLane x 1).writeLane x 2).writeLane x 3

/-- The byte addresses an access stores to. -/
def Access.touches (x : Access) (a : Nat) : Bool :=
  (x.be.getLsbD 0 && a == x.addr) || (x.be.getLsbD 1 && a == x.addr + 1)
    || (x.be.getLsbD 2 && a == x.addr + 2) || (x.be.getLsbD 3 && a == x.addr + 3)

/-- A whole word's write. -/
def wholeWord (addr : Nat) (data : Word) : Access := { addr, be := 15, data }

/-- The writes of consecutive words from an address, in address order. -/
def wordsFrom (addr : Nat) : List Word → List Access
  | [] => []
  | w :: ws => wholeWord addr w :: wordsFrom (addr + 4) ws

/-- The addresses of `n` consecutive words, in address order. -/
def addrsFrom (addr n : Nat) : List Nat := (List.range n).map fun i => addr + 4 * i

/-- The word that holds a byte address (R162: rounded down to its word). -/
def wordAddr (a : Nat) : Nat := a - a % 4

/-- The byte address lies in the window of `size` bytes at `base`. -/
def inWindow (base size a : Nat) : Bool := decide (base ≤ a) && decide (a < base + size)

/-! ## Fields of words (12_memory_formats.md) -/

/-- The unsigned number in `n` bits of a word from bit `lo` up. -/
def field (w : Word) (lo n : Nat) : Nat := (w.toNat / 2 ^ lo) % 2 ^ n

/-- One bit of a word. -/
def flagBit (w : Word) (i : Nat) : Bool := field w i 1 == 1

/-- A Bool as the value of one bit. -/
def bitOf (b : Bool) : Nat := if b then 1 else 0

/-- A word of one field, written saturated (R192). -/
def fromField (n : Nat) : Word := BitVec.ofNat 32 (min n 4294967295)

/-- A word of four bytes, byte 0 first, each field written saturated (R192). -/
def fromBytes (b0 b1 b2 b3 : Nat) : Word :=
  BitVec.ofNat 32 (min b0 255 + 256 * min b1 255 + 65536 * min b2 255 + 16777216 * min b3 255)

/-- A word of two halves, the low half first, each written saturated (R192). -/
def fromHalves (lo hi : Nat) : Word :=
  BitVec.ofNat 32 (min lo 65535 + 65536 * min hi 65535)

/-- A word of two bytes and a high half, each written saturated (R192). -/
def fromBytesHalf (b0 b1 hi : Nat) : Word :=
  BitVec.ofNat 32 (min b0 255 + 256 * min b1 255 + 65536 * min hi 65535)

/-- A word of a low half and two bytes, each written saturated (R192). -/
def fromHalfBytes (lo b2 b3 : Nat) : Word :=
  BitVec.ofNat 32 (min lo 65535 + 65536 * min b2 255 + 16777216 * min b3 255)

/-- The count of ones in a word is even (R176). -/
def evenParity (w : Word) : Bool :=
  (List.range 32).foldl (fun p i => p != w.getLsbD i) false == false

end Sys2Proof.Machine
end

