-- ==== Sys2Proof/Machine/Carriage.lean ====
section
/-! DEFINITION. The operations of the Carriage Drive on its own state (02_carriage_and_scanning.md, The
Carriage Drive). `t` is the timebase in µs. Events that the Carriage Drive gives stand in its state until
the block they go to takes them. -/

namespace Sys2Proof.Machine

/-- The spacing of homing and positioning steps, µs (R25, R26). -/
def moveSpacing : Nat := 2500

/-- The spacing of tracking steps, µs (R28). -/
def trackSpacing : Nat := 2000

/-- The steps after which homing fails, HOME never found asserted (R25). -/
def homingLimit : Nat := 4200

/-- A move ends in a switch fault: no further step, and a carriage-fault event (R25, R27). -/
def Carriage.toFault (c : Carriage) : Carriage :=
  { c with state := .fault, nextStep := none, stepsDue := 0, faultEvent := true }

/-- The carriage comes to rest at a known position (R26, R28, R29). -/
def Carriage.toRest (c : Carriage) : Carriage :=
  { c with state := .atFrame, nextStep := none, stepsDue := 0 }

/-- Issues one step and moves the position. HOME is asserted only while the carriage stands at position
0 and LIMIT only at the far end, so a step away clears HOME and a step toward HOME clears LIMIT
(DEDUCED, log entry 6). -/
def Carriage.step (away : Bool) (c : Carriage) : Carriage :=
  if away then { c with position := c.position + 1, dirAway := true, home := false }
  else { c with position := c.position - 1, dirAway := false, limit := false }

/-- The direction of the next positioning step: away from HOME (R26). -/
def Carriage.aimAway (c : Carriage) : Bool := decide (c.position < c.target.getD c.position)

/-- The target of the move is reached (R26). -/
def Carriage.atTarget (c : Carriage) : Bool := c.target.getD c.position == c.position

/-- A positioning step due at `due`: the switches are checked and the step issued, the next 2,500 µs
later (R26, R27). -/
def Carriage.moveStep (due : Nat) (c : Carriage) : Carriage :=
  if c.aimAway && c.limit then c.toFault
  else if c.home && decide (0 < c.position) then c.toFault
  else { c.step c.aimAway with nextStep := some (due + moveSpacing) }

/-- The move has ended at the target: AT_FRAME, with an arrival event (R26). -/
def Carriage.arrive (c : Carriage) : Carriage := { c.toRest with arrivalEvent := true }

/-- Entry to POSITIONING: away from the target, DIR is set toward it and the first step falls at once (R26). -/
def Carriage.enterPositioning (t : Nat) (c : Carriage) : Carriage :=
  let c := { c with state := .positioning, stepsDue := 0, nextStep := none }
  if c.atTarget then c.arrive else { c with dirAway := c.aimAway }.moveStep t

/-- The end of homing (R25). -/
def Carriage.endHoming (t : Nat) (c : Carriage) : Carriage :=
  { c with homed := true, position := 0 }.enterPositioning t

/-- One homing step due at `due`: HOME is checked before it; the position does not change (R25). -/
def Carriage.homeStep (due : Nat) (c : Carriage) : Carriage :=
  if c.home then c.endHoming due
  else
    { c with
      homingSteps := c.homingSteps + 1, dirAway := false, limit := false,
      nextStep := some (due + moveSpacing) }

/-- Entry to HOMING (R25). -/
def Carriage.enterHoming (t : Nat) (c : Carriage) : Carriage :=
  { c with state := .homing, homed := false, position := 0, homingSteps := 0, stepsDue := 0 }.homeStep t

/-- A POSITION request (R24). -/
def Carriage.requestPosition (t target : Nat) (c : Carriage) : Carriage :=
  let c := { c with target := some target }
  match c.state with
  | .unhomed | .fault => c.enterHoming t
  | .homing => c
  | .positioning => if c.atTarget then c else { c with dirAway := c.aimAway }
  | .atFrame | .tracking => c.enterPositioning t

/-- Track-begin (R28). -/
def Carriage.trackBegin (pitch : Nat) (c : Carriage) : Carriage :=
  match c.state with
  | .atFrame => { c with state := .tracking, pitch := some pitch, stepsDue := 0, nextStep := none }
  | _ => c

/-- Track-end (R28). -/
def Carriage.trackEnd (c : Carriage) : Carriage :=
  match c.state with
  | .tracking => c.toRest
  | _ => c

/-- LIMIT stops tracking: the steps due are dropped, with a limit-truncation event (R29). -/
def Carriage.truncate (c : Carriage) : Carriage := { c.toRest with truncationEvent := true }

/-- A tracking step due at `due` (R28, R29). -/
def Carriage.followStep (due : Nat) (c : Carriage) : Carriage :=
  if c.limit then c.truncate
  else
    let left := c.stepsDue - 1
    { c.step true with
      stepsDue := left, nextStep := if left = 0 then none else some (due + trackSpacing) }

/-- An advance request: pitch steps away from HOME, the first at the request; while an earlier advance
has steps due it adds its steps to them (R28). -/
def Carriage.advance (t : Nat) (c : Carriage) : Carriage :=
  match c.state with
  | .tracking =>
    let pitch := c.pitch.getD 0
    if 0 < c.stepsDue then { c with dirAway := true, stepsDue := c.stepsDue + pitch }
    else if pitch = 0 then c
    else { c with dirAway := true, stepsDue := pitch }.followStep t
  | _ => c

/-- LIMIT becomes asserted (R27, R29). -/
def Carriage.limitOn (c : Carriage) : Carriage :=
  let c := { c with limit := true }
  match c.state with
  | .positioning => if c.dirAway then c.toFault else c
  | .tracking => c.truncate
  | _ => c

/-- HOME becomes asserted (R27). -/
def Carriage.homeOn (c : Carriage) : Carriage :=
  let c := { c with home := true }
  match c.state with
  | .positioning => if 0 < c.position then c.toFault else c
  | _ => c

end Sys2Proof.Machine
end

