-- ==== Sys2Proof/Machine/Drum.lean ====
section
/-! DEFINITION. The operations of the Drum Regulator on its own state (01_the_drum.md). `p` is the
drum part of the Profile Shadow, `t` the timebase in µs. -/

namespace Sys2Proof.Machine

/-! ## Speeds -/

/-- A speed in rpm. -/
def Speed.rpm : Speed → Nat
  | .rpm60 => 60
  | .rpm90 => 90
  | .rpm120 => 120

/-- The reference speed of a speed, in tenths of an rpm (R4). -/
def Speed.ref (v : Speed) : Nat := 10 * v.rpm

/-- The target period P*, 7,500,000 / rpm rounded half up (01, Regulation samples). -/
def Speed.period (v : Speed) : Nat := roundDiv 7500000 v.rpm

/-- The target's reference speed; 0 while there is none. -/
def Drum.targetRef (d : Drum) : Nat := (d.target.map Speed.ref).getD 0

/-- The drum is regulating: RAMPING, SETTLING, IN_BAND or BAND_WARNING (R17). -/
def DrumState.regulating : DrumState → Bool
  | .ramping | .settling | .inBand | .bandWarning => true
  | _ => false

/-- The drum is in a closed-loop state (R11). -/
def DrumState.closedLoop : DrumState → Bool
  | .settling | .inBand | .bandWarning => true
  | _ => false

/-- The drum is ready for phasing and picture (01, Drum states). -/
def DrumState.ready : DrumState → Bool
  | .inBand | .bandWarning => true
  | _ => false

/-! ## Duty and feed-forward -/

/-- The feed-forward duty at a reference speed, evaluated with floor (R7). -/
def feedForward (p : DrumProfile) (ref : Nat) : Nat :=
  if ref ≤ 600 then p.ff60 * ref / 600
  else if ref ≤ 900 then
    ((p.ff60 : Int) + ((p.ff90 : Int) - p.ff60) * ((ref : Int) - 600) / 300).toNat
  else ((p.ff90 : Int) + ((p.ff120 : Int) - p.ff90) * ((ref : Int) - 900) / 300).toNat

/-- The open-loop duty: min(FF(ref), DUTY_MAX) (R7). -/
def rampDuty (p : DrumProfile) (ref : Nat) : Nat := min (feedForward p ref) p.dutyMax

/-- Sets the duty. The stall timer starts when the duty rises from 0 and stops while it is 0; with the
STALL policy OFF it does not count (R14, DEDUCED, log entry 16). -/
def Drum.setDuty (p : DrumProfile) (t v : Nat) (d : Drum) : Drum :=
  { d with
    duty := v
    stallTimer :=
      if v = 0 then none
      else if d.duty = 0 then (if p.stallPolicy = .off then none else some t)
      else d.stallTimer }

/-! ## Ramping -/

/-- The spin-up timer started afresh (R10); with the STALL policy OFF it does not count. -/
def freshSpinUp (p : DrumProfile) (t : Nat) : Option Nat :=
  if p.stallPolicy = .off then none else some t

/-- Entry to SETTLING from RAMPING (R8, R11). -/
def Drum.enterSettling (p : DrumProfile) (t : Nat) (d : Drum) : Drum :=
  ({ d with state := .settling, integral := 0, inBandCount := 0, rampTick := none }).setDuty p t
    (rampDuty p d.targetRef)

/-- The step that STAIRCASE chooses from a reference speed (R9). -/
def stairStep (p : DrumProfile) (ref target : Nat) : Nat :=
  let stairs := [p.stair0, p.stair1, p.stair2].filter (· ≠ 0)
  if ref < target then
    (stairs.filter fun v => decide (ref < v) && decide (v < target)).foldl min target
  else
    (stairs.filter fun v => decide (v < ref) && decide (target < v)).foldl max target

/-- Takes up a new ref in STAIRCASE: duty follows, and the target enters SETTLING (R7, R9). -/
def Drum.takeStair (p : DrumProfile) (t : Nat) (d : Drum) : Drum :=
  let ref := stairStep p d.ref d.targetRef
  let d := ({ d with ref := ref }).setDuty p t (rampDuty p ref)
  if ref = d.targetRef then d.enterSettling p t else d

/-- Entry to RAMPING toward the target in force, from the present ref (R7). In LINEAR the ref keeps its
value and the duty is set for it (DEDUCED, log entry 15). -/
def Drum.enterRamping (p : DrumProfile) (t : Nat) (d : Drum) : Drum :=
  let d :=
    { d with
      state := .ramping, spinUp := freshSpinUp p t, inBandCount := 0, outOfBandRun := 0, slipRun := 0,
      rampMode := p.rampMode, rampTick := none, wait := none, rest := none, lossDue := false }
  match p.rampMode with
  | .linear => ({ d with rampTick := some (t + 100000) }).setDuty p t (rampDuty p d.ref)
  | .staircase => d.takeStair p t

/-- One ramp tick (R8). -/
def Drum.rampStep (p : DrumProfile) (t : Nat) (d : Drum) : Drum :=
  let target := d.targetRef
  let ref := if d.ref < target then min target (d.ref + p.slew) else max target (d.ref - p.slew)
  let d := ({ d with ref := ref, rampTick := d.rampTick.map (· + 100000) }).setDuty p t (rampDuty p ref)
  if ref = target then d.enterSettling p t else d

/-! ## Requests from the Job Controller -/

/-- A SPIN request (R4). -/
def Drum.spin (p : DrumProfile) (t : Nat) (v : Speed) (d : Drum) : Drum :=
  let d := { d with spinRequest := some v }
  match d.state with
  | .stopped | .parking =>
    ({ d with brake := false, target := some v, ref := 0 }).enterRamping p t
  | .ramping | .settling | .inBand | .bandWarning =>
    if d.target = some v then d
    else
      ({ d with target := some v, bandLostSignal := d.bandLostSignal || d.state.ready }).enterRamping p t
  | .faultWait => { d with target := some v }
  | .latched => d

/-- A PARK request (R5). -/
def Drum.park (p : DrumProfile) (t : Nat) (mode : ParkMode) (d : Drum) : Drum :=
  let d := { d with spinRequest := none }
  match d.state with
  | .ramping | .settling | .inBand | .bandWarning | .faultWait =>
    ({ d with
        brake := decide (mode = ParkMode.brake), ref := 0, integral := 0, spinUp := none, wait := none,
        rampTick := none, rest := some (t + 1000000), state := .parking,
        bandLostSignal := d.bandLostSignal || d.state.ready }).setDuty p t 0
  | .parking | .latched => { d with brake := d.brake || decide (mode = ParkMode.brake) }
  | .stopped => d

/-- Entry to STOPPED: BRAKE inactive, no sample open, measured speed 0 (R3, R6, R10, R13). -/
def Drum.enterStopped (d : Drum) : Drum :=
  { d with
    state := .stopped, brake := false, rest := none, spinUp := none,
    sampleStart := none, sampleCount := 0, closedSample := none, measured := 0 }

/-! ## The closed loop -/

/-- Limits an integer to lo … hi. -/
def clampInt (lo hi x : Int) : Int := max lo (min x hi)

/-- The sample is in band: |E| ≤ BAND (R11). -/
def inBandSample (p : DrumProfile) (e : Int) : Bool := decide (e.natAbs ≤ p.band)

/-- Band tracking of one closed-loop sample (R12). Reaching 8 in-band samples in SETTLING, and reaching
LOSS_LIMIT as captured at the sample, are acted on by BAND_ENTRY and BAND_LOST (DEDUCED, log entry 2). -/
def Drum.trackBand (d : Drum) (inBand : Bool) : Drum :=
  match d.state, inBand with
  | .settling, true => { d with inBandCount := d.inBandCount + 1 }
  | .settling, false => { d with inBandCount := 0 }
  | .inBand, false => { d with state := .bandWarning, outOfBandRun := 1 }
  | .bandWarning, true => { d with state := .inBand, outOfBandRun := 0 }
  | .bandWarning, false => { d with outOfBandRun := d.outOfBandRun + 1 }
  | _, _ => d

/-- A sample takes the out-of-band run to LOSS_LIMIT (R12). -/
def Drum.losesBand (p : DrumProfile) (inBand : Bool) (d : Drum) : Bool :=
  decide (d.state = .bandWarning ∧ inBand = false ∧ p.lossLimit ≤ d.outOfBandRun + 1)

/-- One run of the closed loop over a sample of period `pm` (R11). -/
def Drum.closedLoop (p : DrumProfile) (t pm : Nat) (d : Drum) : Drum :=
  let e : Int := (pm : Int) - ((d.target.map Speed.period).getD 0 : Nat)
  let i := clampInt (-65535) 65535 (d.integral + e)
  let q := ((p.kp : Int) * e + (p.ki : Int) * i).tdiv 1024
  let duty := (clampInt 0 p.dutyMax ((feedForward p d.targetRef : Int) + q)).toNat
  { (({ d with integral := i }).setDuty p t duty).trackBand (inBandSample p e) with
    lossDue := d.losesBand p (inBandSample p e) }

/-- The period of a stair step, 75,000,000 / step rounded half up (R9). -/
def stairPeriod (step : Nat) : Nat := roundDiv 75000000 step

/-- A sample qualifies for the held step (R9). -/
def stairQualifies (p : DrumProfile) (pm step : Nat) : Bool :=
  decide (100 * ((pm : Int) - stairPeriod step).natAbs ≤ p.hold * stairPeriod step)

/-- The STAIRCASE check of a closed sample (R9). -/
def Drum.stairSample (p : DrumProfile) (t pm : Nat) (d : Drum) : Drum :=
  if stairQualifies p pm d.ref then d.takeStair p t else d.setDuty p t (rampDuty p d.ref)

/-- The measured speed of a period, in tenths of an rpm (R3); a free value for a period of 0 (DESIGN CHOICE,
log entry 9). -/
def speedOf (pm : Nat) : Nat :=
  if pm = 0 then Config.speedOfZeroPeriod else (150000000 + pm) / (2 * pm)

/-- What a closed regulation sample does (R3, R9, R11). -/
def Drum.takeSample (p : DrumProfile) (t pm : Nat) (d : Drum) : Drum :=
  let d := { d with closedSample := none, measured := speedOf pm }
  match d.state with
  | .settling | .inBand | .bandWarning => d.closedLoop p t pm
  | .ramping => match d.rampMode with
    | .staircase => d.stairSample p t pm
    | .linear => d
  | _ => d

/-- Entry to IN_BAND from SETTLING (R10, R12, R18). -/
def Drum.enterInBand (d : Drum) : Drum :=
  { d with state := .inBand, inBandCount := 0, retryCount := 0, spinUp := none }

/-- The loss of the band (R10, R12). -/
def Drum.loseBand (p : DrumProfile) (t : Nat) (d : Drum) : Drum :=
  { d with
    state := .settling, outOfBandRun := 0, inBandCount := 0, spinUp := freshSpinUp p t,
    bandLostSignal := true, lossDue := false }

/-! ## Faults -/

/-- The policy of a fault kind in the shadow (R17). -/
def DrumProfile.policy (p : DrumProfile) : DrumFault → Policy
  | .stall => p.stallPolicy
  | .slip => p.slipPolicy
  | .overcurrent => p.overcurrentPolicy

/-- The spin-up timer has run SPINUP_S (R10): the value captured by the moment it is judged, so that a capture counts
for a running timer at once (DEDUCED, log entry 44: R178 names the next sample or ramp tick). -/
def Drum.spinUpOver (p : DrumProfile) (t : Nat) (d : Drum) : Bool := hasRun d.spinUp (1000000 * p.spinupS) t

/-- The stall timer has run STALL_MS (R14). -/
def Drum.stallOver (p : DrumProfile) (t : Nat) (d : Drum) : Bool := hasRun d.stallTimer (1000 * p.stallMs) t

/-- Entry to LATCHED or FAULT_WAIT stops the timers and clears the runs (R17). A timer that has run out by then
has made its detection, which is still to be taken: of two faults detected at the same moment, the second is
counted too (R17). -/
def Drum.haltDrive (p : DrumProfile) (t : Nat) (brake : Bool) (d : Drum) : Drum :=
  ({ d with
      stallDue := d.stallDue || d.stallOver p t, spinUpDue := d.spinUpDue || d.spinUpOver p t
      brake := brake, spinUp := none, rampTick := none, slipRun := 0, ocRun := 0 }).setDuty p t 0

/-- Entry to LATCHED (R17). -/
def Drum.latch (p : DrumProfile) (t : Nat) (brake : Bool) (d : Drum) : Drum :=
  { d.haltDrive p t brake with state := .latched, spinRequest := none }

/-- The RETRY policy (R18). -/
def Drum.retry (p : DrumProfile) (t : Nat) (d : Drum) : Drum :=
  if d.retryCount < p.retryLimit then
    { d.haltDrive p t false with
      state := .faultWait, retryCount := d.retryCount + 1, wait := some (t + 100000 * p.retryTime) }
  else d.latch p t false

/-- Applies a policy in a regulating state (R17). -/
def Drum.applyPolicy (p : DrumProfile) (t : Nat) (policy : Policy) (d : Drum) : Drum :=
  if d.state.regulating then
    match policy with
    | .latchCoast => d.latch p t false
    | .latchBrake => d.latch p t true
    | .retry => d.retry p t
    | .report | .off => d
  else d

/-- Counts and flags a fault event (R17). -/
def Drum.countFault (kind : DrumFault) (d : Drum) : Drum :=
  match kind with
  | .stall => { d with stallEvents := satInc d.stallEvents, flagStall := true }
  | .slip => { d with slipEvents := satInc d.slipEvents, flagSlip := true }
  | .overcurrent => { d with overcurrentEvents := satInc d.overcurrentEvents, flagOvercurrent := true }

/-- A fault event in the Regulator: counted, flagged, and its policy applied (R17). -/
def Drum.faultEvent (p : DrumProfile) (t : Nat) (kind : DrumFault) (d : Drum) : Drum :=
  (d.countFault kind).applyPolicy p t (p.policy kind)

/-- The stall timer after a STALL detection: with policy REPORT it starts again from zero while the duty is
above 0 (R14). -/
def Drum.restartStall (p : DrumProfile) (t : Nat) (d : Drum) : Drum :=
  { d with stallTimer := if p.stallPolicy = .report ∧ 0 < d.duty then some t else d.stallTimer }

/-- The stall timer's detection is taken: the timer has stopped, but for REPORT (R14). -/
def Drum.takeStall (p : DrumProfile) (t : Nat) (d : Drum) : Drum :=
  ({ d with stallTimer := none, stallDue := false }).restartStall p t

/-- The spin-up timer's detection is taken; the timer does not restart (R10, R14). A stall timer that has run out by
then has made its own detection, which is still to be taken: of two faults detected at the same moment, the second is
counted too, also where REPORT starts the timer again (R17). -/
def Drum.takeSpinUp (p : DrumProfile) (t : Nat) (d : Drum) : Drum :=
  ({ d with spinUp := none, spinUpDue := false, stallDue := d.stallDue || d.stallOver p t }).restartStall p t

/-- The Drum Clear (R19): the flags and the retry count, and in LATCHED the latch, with the recorded
SPIN carried out as one taken in STOPPED. -/
def Drum.clear (p : DrumProfile) (t : Nat) (d : Drum) : Drum :=
  let d := { d with flagStall := false, flagSlip := false, flagOvercurrent := false, retryCount := 0 }
  match d.state with
  | .latched =>
    let d := ({ d with slipRun := 0, ocRun := 0 }).setDuty p t 0 |>.enterStopped
    match d.spinRequest with
    | some v => d.spin p t v
    | none => d
  | _ => d

/-- The Counter Clear (R20). -/
def Drum.clearCounters (d : Drum) : Drum :=
  { d with stallEvents := 0, slipEvents := 0, overcurrentEvents := 0, turnErrors := 0 }

/-! ## The motor drive -/

/-- The length of a PWM period, 50 µs, in crystal counts (R13). -/
def pwmPeriod : Nat := 200

/-- PWM is asserted at crystal count `c`: the on-time lasts duty/1024 of the period and ends at an ILIM
trip; while BRAKE is asserted it stays inactive (R13). -/
def Drum.pwmOn (d : Drum) (c : Nat) : Bool :=
  !d.brake && !d.pwm.tripped && decide ((c - d.pwm.start) * 1024 < d.pwm.duty * pwmPeriod)

/-- The end of a PWM period (R13, R16). With the OVERCURRENT policy OFF the run does not count. -/
def Drum.endPwmPeriod (p : DrumProfile) (d : Drum) : Drum :=
  let counts := d.pwm.tripped ∧ p.overcurrentPolicy ≠ .off
  { d with
    ocRun := if counts then d.ocRun + 1 else 0
    overcurrentDue := d.overcurrentDue || decide (counts ∧ p.ocCount ≤ d.ocRun + 1)
    pwm := { duty := d.duty, start := d.pwm.start + pwmPeriod, tripped := false } }

/-! ## Turn measurement -/

/-- The interval that a tach event begins, and whether a turn error is counted (R1). -/
def Drum.nextInterval (d : Drum) : Option Nat × Bool :=
  if d.indexArmed then (some 0, d.synced && d.interval != some 255)
  else if d.synced then
    match d.interval with
    | some 255 => (some 0, true)
    | some n => (some (n + 1), false)
    | none => (none, false)
  else (none, false)

/-- The tach event that is now taken begins a new turn: it is an INDEX event (R1). -/
def Drum.indexNext (d : Drum) : Bool := d.nextInterval.1 == some 0

/-- The length of the interval that a tach event at `t` ends, saturating at 4,000,000 µs (R1). -/
def Drum.endedLength (d : Drum) (t : Nat) : Option Nat := d.lastTach.map fun u => min 4000000 (t - u)

/-- The interval lengths and numbers at a tach event (R1). The event that begins no interval leaves the
number as it is; the first tach event after reset ends no interval (DEDUCED, log entry 11). -/
def Drum.turnTach (t : Nat) (d : Drum) : Drum :=
  let d := match d.endedLength t with
    | some len => { d with lenPrev := d.lenLast, lenLast := len, lastTach := some t }
    | none => { d with lastTach := some t }
  match d.nextInterval with
  | (some 0, err) =>
    { d with
      interval := some 0, indexArmed := false, synced := true,
      turnErrors := if err then satInc d.turnErrors else d.turnErrors }
  | (some n, _) => { d with interval := some n }
  | (none, _) => d

/-- The regulation sample at a tach event (R3). -/
def Drum.sampleTach (t : Nat) (d : Drum) : Drum :=
  match d.sampleStart with
  | none => { d with sampleStart := some t, sampleCount := 0 }
  | some start =>
    if d.sampleCount + 1 < 32 then { d with sampleCount := d.sampleCount + 1 }
    else
      { d with
        closedSample := some (min 4000000 (t - start)), sampleStart := some t, sampleCount := 0 }

/-- The stall and rest timers start again at a tach event (R6, R14). -/
def Drum.timersTach (t : Nat) (d : Drum) : Drum :=
  { d with
    stallTimer := d.stallTimer.map fun _ => t
    rest := if d.state = .parking then some (t + 1000000) else d.rest }

/-- The slip comparison exceeds: the longer interval is more than RATIO times the shorter (R15). -/
def slipExceeds (p : DrumProfile) (a b : Nat) : Bool := decide (p.ratio * min a b < max a b)

/-- The slip comparison at a tach event (R15). With the SLIP policy OFF the run does not count. -/
def Drum.slipTach (p : DrumProfile) (d : Drum) : Drum :=
  if d.state.closedLoop then
    let counts := p.slipPolicy ≠ .off ∧ slipExceeds p d.lenLast d.lenPrev = true
    { d with
      slipRun := if counts then d.slipRun + 1 else 0
      slipDue := d.slipDue || decide (counts ∧ p.deglitch ≤ d.slipRun + 1) }
  else d

/-- A tach event in the Regulator (R1, R3, R6, R14, R15). -/
def Drum.tach (p : DrumProfile) (t : Nat) (d : Drum) : Drum :=
  (((d.turnTach t).sampleTach t).timersTach t).slipTach p

/-- The policy words of the profile have changed from `old` to `new`: a kind turned OFF stops being
watched, and one turned on is watched from empty runs (01, Faults; DEDUCED, log entry 16). -/
def Drum.watchPolicies (old new : DrumProfile) (t : Nat) (d : Drum) : Drum :=
  let d :=
    if new.stallPolicy = .off then
      { d with stallTimer := none, spinUp := none, stallDue := false, spinUpDue := false }
    else if old.stallPolicy = .off then
      { d with
        stallTimer := if 0 < d.duty then some t else none
        spinUp := if d.state = .ramping ∨ d.state = .settling then some t else none }
    else d
  let d :=
    if new.slipPolicy = .off ∨ old.slipPolicy = .off then { d with slipRun := 0, slipDue := false }
    else d
  if new.overcurrentPolicy = .off ∨ old.overcurrentPolicy = .off then
    { d with ocRun := 0, overcurrentDue := false }
  else d

end Sys2Proof.Machine
end

