-- ==== Sys2Proof/Machine/Ring.lean ====
section
/-! DEFINITION. The operations of the Line Ring and of the send position on their own state
(04_the_line_ring.md). -/

namespace Sys2Proof.Machine

/-- The bytes of one slot: its header and its level area (04, The Line Ring). -/
def slotBytes : Nat := 1456

/-- The address of slot n (04, The Line Ring). -/
def Layout.slotAddr (l : Layout) (n : Nat) : Nat := l.ringBase + slotBytes * n

/-- A FREE slot. -/
def RingSlot.empty : RingSlot := { state := .free, frame := 0, line := 0 }

/-- The Slot Table of a layout of `n` slots (R60). -/
def freshSlots (n : Nat) : List RingSlot := List.replicate n RingSlot.empty

/-- The entry of slot n; FREE when there is none. -/
def Ring.slot (r : Ring) (n : Nat) : RingSlot := r.slots.getD n .empty

/-- Puts slot n into a state, keeping its frame and line. -/
def Ring.setState (r : Ring) (n : Nat) (st : SlotState) : Ring :=
  { r with slots := updateAt (fun e => { e with state := st }) r.slots n }

/-- The number of the first slot for which `f` holds. -/
def Ring.findSlot (r : Ring) (f : RingSlot → Bool) : Option Nat := r.slots.findIdx? f

/-- The new ring of an accepted layout: all slots FREE, the indices, the repeat queue and the latch reset
(R60, R75); the counters stay. -/
def Ring.takeLayout (slotCount : Nat) (r : Ring) : Ring :=
  { r with
    slots := freshSlots slotCount, writeIndex := 0, sendFrame := 0, sendLine := 0, picked := none,
    firstSend := false, marked := false, repeatQueue := [], latch := none, buffer := [], fetch := 0 }

/-! ## The scanner's side -/

/-- A slot that the scanner may claim (R61). -/
def SlotState.claimable : SlotState → Bool
  | .free | .sent => true
  | _ => false

/-- The claim of the slot at the write index for a line of a frame: the slot, when it succeeds (R61). -/
def Ring.claim (frame line : Nat) (r : Ring) : Option (Nat × Ring) :=
  if r.writeIndex < r.slots.length ∧ (r.slot r.writeIndex).state.claimable then
    some (r.writeIndex,
      { r with
        slots := updateAt (fun _ => { state := .filling, frame, line }) r.slots r.writeIndex
        writeIndex := ringNext r.writeIndex r.slots.length })
  else none

/-- A line-complete names slot n (R62). -/
def Ring.lineComplete (n : Nat) (r : Ring) : Ring :=
  if (r.slot n).state = .filling then r.setState n .filled else r

/-- A give-back names the FILLING slot n (R62). -/
def Ring.giveBack (n : Nat) (r : Ring) : Ring :=
  { r with
    slots := updateAt (fun _ => .empty) r.slots n
    writeIndex := ringPrev r.writeIndex r.slots.length }

/-- The slot of a line that a scan-stop drops becomes FREE, if the attempt's end has not freed it already (R32,
R74). -/
def Ring.dropLine (n : Nat) (r : Ring) : Ring :=
  if (r.slot n).state = .filling then { r with slots := updateAt (fun _ => .empty) r.slots n } else r

/-- What the frame-done record shows for a frame (R62). -/
def Ring.doneOf (r : Ring) (frame : Nat) : Option FrameDone := r.frameDone.find? (·.frame == frame)

/-- A FRAME_DONE is noted (R62). -/
def Ring.noteDone (e : FrameDone) (r : Ring) : Ring := { r with frameDone := r.frameDone ++ [e] }

/-! ## The sender's side -/

/-- The cases of the pick at a PICTURE turn's INDEX (R64). -/
inductive Pick where
  | again (slot : Nat)
  | first (slot : Nat)
  | frameEnd (done : FrameDone)
  | gap
deriving DecidableEq, Repr

/-- The FILLED slot that holds a line of a frame (R64). -/
def Ring.filledSlot (r : Ring) (frame line : Nat) : Option Nat :=
  r.findSlot fun e => e.state == .filled && e.frame == frame && e.line == line

/-- Which case of the pick applies (R64). -/
def Ring.pickCase (r : Ring) : Pick :=
  match r.repeatQueue with
  | n :: _ => .again n
  | [] =>
    match r.filledSlot r.sendFrame r.sendLine with
    | some n => .first n
    | none =>
      match r.doneOf r.sendFrame with
      | some d => .frameEnd d
      | none => .gap

/-- Slot n becomes SENDING and the prefetch is set to its first word (R64, R66). -/
def Ring.startSend (n : Nat) (first : Bool) (r : Ring) : Ring :=
  { r.setState n .sending with
    picked := some n, firstSend := first, marked := false,
    repeatQueue := if first then r.repeatQueue else r.repeatQueue.tail
    buffer := [], fetch := 0 }

/-- The answer of the ring about the next frame of a chain (R65). -/
inductive NextFrame where
  | ready
  | empty (done : FrameDone)
  | notYet
deriving DecidableEq, Repr

/-- What the ring answers about frame f at a separator turn's INDEX (R65). -/
def Ring.askNext (r : Ring) (f : Nat) : NextFrame :=
  match r.filledSlot f 0 with
  | some _ => .ready
  | none =>
    match r.doneOf f with
    | some d => if d.linesScanned = 0 then .empty d else .notYet
    | none => .notYet

/-- The slot SENDING in the turn just ended leaves SENDING; a first send moves the send position
(R63). -/
def Ring.closeSend (r : Ring) : Ring :=
  match r.picked with
  | none => r
  | some n =>
    { r.setState n (if r.marked then .held else .sent) with
      picked := none, firstSend := false, marked := false
      sendLine := if r.firstSend then r.sendLine + 1 else r.sendLine }

/-- The prefetch buffer is emptied at an INDEX event (R66). -/
def Ring.emptyBuffer (r : Ring) : Ring := { r with buffer := [], fetch := 0 }

/-- The send position moves to line 0 of the next frame (R64, R92). -/
def Ring.nextSendFrame (r : Ring) : Ring := { r with sendFrame := r.sendFrame + 1, sendLine := 0 }

/-- The attempt end frees the ring; the latch stays (R74). -/
def Ring.release (r : Ring) : Ring :=
  { r with
    slots := freshSlots r.slots.length, writeIndex := 0, sendFrame := 0, sendLine := 0, picked := none,
    firstSend := false, marked := false, repeatQueue := [], frameDone := [], buffer := [], fetch := 0 }

/-! ## Repeats -/

/-- The lines of the current frame whose first send has begun, `firstSent` of them complete (R68). -/
def Ring.sendsBegun (r : Ring) (firstSent : Nat) : Nat :=
  firstSent + bitOf (r.picked.isSome && r.firstSend)

/-- The slot that holds a line of the current frame for a repeat: SENT, or now SENDING (R68). -/
def Ring.repeatSlot (r : Ring) (line : Nat) : Option Nat :=
  r.findSlot fun e =>
    (e.state == .sent || e.state == .sending) && e.frame == r.sendFrame && e.line == line

/-- The values of a list of options, when every one is there. -/
def allSome {α : Type} : List (Option α) → Option (List α)
  | [] => some []
  | none :: _ => none
  | some x :: l => (allSome l).map (x :: ·)

/-- The slots of the last `n` lines below `top`, in increasing line order, when every one is held. -/
def Ring.repeatRange (r : Ring) (top n : Nat) : Option (List Nat) :=
  allSome ((List.range n).map fun i => r.repeatSlot (top - n + i))

/-- The decision on a REPEAT: the slots granted, or the reason of the refusal (R68). -/
def Ring.decideRepeat (r : Ring) (firstSent window used limit : Nat) :
    RepeatRefusal ⊕ List Nat :=
  let begun := r.sendsBegun firstSent
  let n := min window begun
  if r.repeatQueue ≠ [] then .inl .queueBusy
  else if limit ≤ used then .inl .limitReached
  else if n = 0 then .inl .emptyRange
  else
    match r.repeatRange begun n with
    | some slots => .inr slots
    | none => .inl .linesGone

/-- A granted slot: SENT becomes HELD; the SENDING slot stays so, marked (R69). -/
def Ring.holdSlot (r : Ring) (n : Nat) : Ring :=
  if (r.slot n).state = .sent then r.setState n .held else { r with marked := true }

/-- The grant of a repeat (R69). -/
def Ring.grant (slots : List Nat) (r : Ring) : Ring :=
  { slots.foldl Ring.holdSlot r with repeatQueue := slots, grants := satInc r.grants }

/-- The refusal of a repeat (R68). -/
def Ring.refuse (why : RepeatRefusal) (r : Ring) : Ring :=
  { r with refusals := satInc r.refusals, lastRefusal := some why }

/-! ## The prefetch buffer -/

/-- Words below `n` are discarded (R67). -/
def Ring.discardBelow (n : Nat) (r : Ring) : Ring :=
  { r with buffer := r.buffer.filter fun e => decide (n ≤ e.1) }

/-- The level of position j, when its word is in the buffer (R67). -/
def Ring.bufferedLevel (r : Ring) (j : Nat) : Option Nat :=
  (r.buffer.find? (·.1 == j / 4)).map fun e => (byteOf e.2 (j % 4)).toNat

/-! ## The preview latch -/

/-- A slot whose line the preview may show (R75). -/
def SlotState.complete : SlotState → Bool
  | .filled | .sending | .sent | .held => true
  | _ => false

/-- The better of two slots for the preview: the one with the higher line number. -/
def betterSlot (best : Option (Nat × Nat)) (n line : Nat) : Option (Nat × Nat) :=
  match best with
  | some (m, l) => if l < line then some (n, line) else some (m, l)
  | none => some (n, line)

/-- The slot that holds the highest-numbered complete line of a frame (R75). -/
def Ring.previewSlot (r : Ring) (frame : Nat) : Option Nat :=
  ((List.range r.slots.length).foldl
    (fun best n =>
      let e := r.slot n
      if e.state.complete && e.frame == frame then betterSlot best n e.line else best)
    none).map (·.1)

/-- The Counter Clear (R77). -/
def Ring.clearCounters (r : Ring) : Ring :=
  { r with gaps := 0, starves := 0, grants := 0, refusals := 0, lastRefusal := none }

end Sys2Proof.Machine
end

