-- ==== Sys2Proof/Machine/Operands.lean ====
section
/-! DEFINITION. The records that the part reads from memory, field by field (12_memory_formats.md), and
the checks their rules make on them: the TCB (R101 to R103), the Directory entry (R123), the Layout Block
(R171) and the Profile Area words (R176, R177, R179). -/

namespace Sys2Proof.Machine

/-- Word i of the words read. -/
def wordAt (ws : List Word) (i : Nat) : Word := ws.getD i 0

/-! ## Transmission control blocks -/

/-- A speed code (R101). -/
def speedOfCode (n : Nat) : Option Speed :=
  if n = 60 then some .rpm60 else if n = 90 then some .rpm90
  else if n = 120 then some .rpm120 else none

/-- The fields of a TCB as they stand in its words (12, Transmission control block). -/
structure Tcb where
  link : Nat
  caption : Nat
  start : Nat
  count : Nat
  pitch : Nat
  k : Nat
  speedCode : Nat
  bank : Nat
  urgent : Bool
  bypassTone : Bool
  testWedge : Bool
  phasing : Nat
  delay : Nat
  window : Nat
  retryLimit : Nat
  destCount : Nat
  black : Nat
  white : Nat
  retryInterval : Nat
  destList : List Nat
deriving DecidableEq, Repr

/-- Reads a TCB from its 32 words. -/
def readTcb (ws : List Word) : Tcb where
  link := (wordAt ws 0).toNat
  caption := (wordAt ws 1).toNat
  start := field (wordAt ws 2) 0 16
  count := field (wordAt ws 2) 16 16
  pitch := field (wordAt ws 3) 0 8
  k := field (wordAt ws 3) 8 8
  speedCode := field (wordAt ws 3) 16 8
  bank := field (wordAt ws 3) 24 1
  urgent := flagBit (wordAt ws 3) 25
  bypassTone := flagBit (wordAt ws 3) 26
  testWedge := flagBit (wordAt ws 3) 27
  phasing := field (wordAt ws 4) 0 8
  delay := field (wordAt ws 4) 8 8
  window := field (wordAt ws 4) 16 8
  retryLimit := field (wordAt ws 4) 24 4
  destCount := field (wordAt ws 4) 28 4
  black := field (wordAt ws 5) 0 10
  white := field (wordAt ws 5) 10 10
  retryInterval := field (wordAt ws 5) 20 12
  destList := (List.range 8).map fun i => field (wordAt ws (6 + i / 4)) (8 * (i % 4)) 8

/-- The destinations a TCB lists: the first destination-count entries (R102). -/
def Tcb.destinations (t : Tcb) : List Nat := t.destList.take t.destCount

/-- The field checks of a member, in order (R101): none when all pass. -/
def Tcb.fieldCheck (t : Tcb) : Option RefusalReason :=
  if speedOfCode t.speedCode = none then some .badSpeed
  else if ¬ (2 ≤ t.k ∧ t.k ≤ 6) then some .badSlots
  else if ¬ (1 ≤ t.pitch ∧ t.pitch ≤ 8) then some .badPitch
  else if ¬ (1 ≤ t.count ∧ t.count ≤ 2048 ∧ t.start ≤ 4095 ∧ t.start + t.count * t.pitch ≤ 4096) then
    some .frameOutOfRange
  else if ¬ (t.black ≤ 1023 ∧ t.white ≤ 1023 ∧ t.black + 64 ≤ t.white) then some .badReferences
  else none

/-- The destination check of the head (R102). -/
def Tcb.headCheck (t : Tcb) (directoryCount : Nat) : Option RefusalReason :=
  if 1 ≤ t.destCount ∧ t.destCount ≤ 8 ∧ t.destinations.all (fun d => decide (d < directoryCount)) then none
  else some .badDestination

/-- The comparison of a later member with the head (R102). -/
def Tcb.matchCheck (t : Tcb) (h : ChainHead) : Option RefusalReason :=
  if speedOfCode t.speedCode = some h.speed ∧ t.k = h.k ∧ t.destCount = h.destinations.length
      ∧ t.destinations = h.destinations then none
  else some .chainMismatch

/-- Raises or lowers a value into lo … hi. -/
def clampNat (lo hi n : Nat) : Nat := max lo (min n hi)

/-- The head's job values, clamped (R103). -/
def Tcb.head (t : Tcb) (speed : Speed) : ChainHead :=
  let delay := clampNat 1 8 t.delay
  { speed, k := t.k, delay
    window := min t.window 8
    phasing := max (clampNat 2 60 t.phasing) delay
    retryInterval := clampNat 30 900 t.retryInterval
    retryLimit := min t.retryLimit 7
    urgent := t.urgent
    destinations := t.destinations }

/-- What the job record keeps of a member; the caption number is lowered to 99,999,999 (R103, R105). -/
def Tcb.member (t : Tcb) (addr : Nat) : Member where
  addr := addr
  caption := min t.caption 99999999
  start := t.start
  count := t.count
  pitch := t.pitch
  bank := t.bank
  bypassTone := t.bypassTone
  testWedge := t.testWedge
  black := t.black
  white := t.white

/-- The bytes of a TCB. -/
def tcbBytes : Nat := 128

/-- Two runs of 128 bytes share a byte. -/
def tcbOverlap (a b : Nat) : Bool := decide (a < b + tcbBytes) && decide (b < a + tcbBytes)

/-- A member's address passes the address check (R100): a multiple of 16, wholly below the memory top,
and overlapping no earlier member but one at the very same address. -/
def memberAddressOk (memoryTop : Nat) (earlier : List Member) (a : Nat) : Bool :=
  a % 16 == 0 && decide (a + tcbBytes ≤ memoryTop)
    && earlier.all fun m => m.addr == a || !tcbOverlap m.addr a

/-- The frame list of a job (R105). -/
def Job.frames (j : Job) : List Frame :=
  j.members.map fun m =>
    { start := m.start, count := m.count, pitch := m.pitch, k := j.k, bank := m.bank,
      bypassTone := m.bypassTone, testWedge := m.testWedge, black := m.black, white := m.white }

/-- The address is that of a member of the job. -/
def Job.has (j : Job) (addr : Nat) : Bool := j.members.any (·.addr == addr)

/-! ## Directory entries -/

/-- A symbol code as it is dialed (R123). -/
def dialSymbol (n : Nat) : DialSymbol := if n < 10 then .digit n else .pause

/-- A symbol code that needs no correction (R123). -/
def symbolOk (n : Nat) : Bool := decide (n ≤ 10)

/-- Byte i of a record. -/
def recordByte (ws : List Word) (i : Nat) : Nat := field (wordAt ws (i / 4)) (8 * (i % 4)) 8

/-- What an attempt start uses of a Directory entry (R123). -/
structure DirEntry where
  dial : List DialSymbol
  corrected : Bool
  name : List Nat
  noRetry : Bool
deriving DecidableEq, Repr

/-- Reads a Directory entry, correcting the two faults of its dial string (R123). -/
def readDirEntry (ws : List Word) : DirEntry :=
  let count := recordByte ws 0
  let n := if count = 0 then 1 else min count 20
  let codes := (List.range n).map fun i => recordByte ws (1 + i)
  { dial := codes.map dialSymbol
    corrected := decide (count = 0) || decide (20 < count) || codes.any (fun c => !symbolOk c)
    name := (List.range 12).map fun i => recordByte ws (24 + i)
    noRetry := flagBit (wordAt ws 9) 0 }

/-! ## The Layout Block -/

/-- The address of the Layout Block and the size of its window (10, The Layout Block). -/
def layoutBlock : Nat := 0x400
def layoutBlockBytes : Nat := 64

/-- The address of word 1 of the Layout Block, the generation (R156). -/
def generationAddr : Nat := 0x404

/-- Reads the layout that the 16 words of a Layout Block give. -/
def readLayout (ws : List Word) : Layout where
  generation := wordAt ws 1
  sendBase := (wordAt ws 2).toNat
  sendCount := (wordAt ws 3).toNat
  returnBase := (wordAt ws 4).toNat
  returnCount := (wordAt ws 5).toNat
  ringBase := (wordAt ws 6).toNat
  ringCount := (wordAt ws 7).toNat
  profileBase := (wordAt ws 8).toNat
  logBase := (wordAt ws 9).toNat
  logCount := (wordAt ws 10).toNat
  statusBase := (wordAt ws 11).toNat
  directoryBase := (wordAt ws 12).toNat
  directoryCount := (wordAt ws 13).toNat
  previewBase := (wordAt ws 14).toNat
  memoryTop := (wordAt ws 15).toNat

/-- The eight windows of a layout: base and size (10, The Layout Block). -/
def Layout.windows (l : Layout) : List (Nat × Nat) :=
  [(l.sendBase, 8 * l.sendCount), (l.returnBase, 16 * l.returnCount),
   (l.ringBase, slotBytes * l.ringCount), (l.profileBase, 1024), (l.logBase, 128 * l.logCount),
   (l.statusBase, 256), (l.directoryBase, 64 * l.directoryCount), (l.previewBase, slotBytes)]

/-- Every count lies in its range (R171). -/
def Layout.countsOk (l : Layout) : Bool :=
  decide (4 ≤ l.sendCount ∧ l.sendCount ≤ 64 ∧ 4 ≤ l.returnCount ∧ l.returnCount ≤ 64
    ∧ 4 ≤ l.ringCount ∧ l.ringCount ≤ 32 ∧ 8 ≤ l.logCount ∧ l.logCount ≤ 256
    ∧ 1 ≤ l.directoryCount ∧ l.directoryCount ≤ 32)

/-- Every base and the memory top are multiples of 16 (R171). -/
def Layout.aligned (l : Layout) : Bool :=
  l.memoryTop % 16 == 0 && l.windows.all fun w => w.1 % 16 == 0

/-- The memory top is at most 1000000h and every window lies wholly below it (R171). -/
def Layout.belowTop (l : Layout) : Bool :=
  decide (l.memoryTop ≤ 0x1000000) && l.windows.all fun w => decide (w.1 + w.2 ≤ l.memoryTop)

/-- Two windows share no byte. -/
def disjoint (a b : Nat × Nat) : Bool := decide (a.1 + a.2 ≤ b.1) || decide (b.1 + b.2 ≤ a.1)

/-- No two windows of the list share a byte. -/
def allDisjoint : List (Nat × Nat) → Bool
  | [] => true
  | w :: ws => ws.all (disjoint w) && allDisjoint ws

/-- The checks of a Layout Block, in order (R171): none when all pass. -/
def blockCheck (ws : List Word) : Option LoadReason :=
  let l := readLayout ws
  if wordAt ws 0 ≠ 1 then some .badVersion
  else if !l.countsOk then some .badCount
  else if !l.aligned then some .misaligned
  else if !l.belowTop then some .outsideTop
  else if !allDisjoint ((layoutBlock, layoutBlockBytes) :: l.windows) then some .overlap
  else none

/-! ## Profile Area words -/

/-- The words that a load reads (R172). -/
def profileLoadWords : Nat := 134

/-- A fault policy code (12, Code values). -/
def policyOfCode : Nat → Option Policy
  | 0 => some .off
  | 1 => some .report
  | 2 => some .retry
  | 3 => some .latchCoast
  | 4 => some .latchBrake
  | _ => none

/-- A value in lo … hi. -/
def inRange (lo hi v : Nat) : Option Nat := if lo ≤ v ∧ v ≤ hi then some v else none

/-- A stair speed: 0, or 100 to 1190 (R177). -/
def stairValue (v : Nat) : Option Nat := if v = 0 then some 0 else inRange 100 1190 v

/-- A value of a list. -/
def oneOf (vs : List Nat) (v : Nat) : Option Nat := if vs.contains v then some v else none

/-- The capture of drum word `w`, 0 to 25, with value `v`; none outside its range (R177). -/
def DrumProfile.capture (p : DrumProfile) (w v : Nat) : Option DrumProfile :=
  match w with
  | 0 => (inRange 0 1023 v).map fun x => { p with ff60 := x }
  | 1 => (inRange 0 1023 v).map fun x => { p with ff90 := x }
  | 2 => (inRange 0 1023 v).map fun x => { p with ff120 := x }
  | 3 => (inRange 0 1023 v).map fun x => { p with kp := x }
  | 4 => (inRange 0 1023 v).map fun x => { p with ki := x }
  | 5 => (inRange 0 1023 v).map fun x => { p with dutyMax := x }
  | 6 => (inRange 1 5000 v).map fun x => { p with band := x }
  | 7 => (inRange 2 9 v).map fun x => { p with lossLimit := x }
  | 8 => (inRange 0 1 v).map fun x => { p with rampMode := if x = 0 then .linear else .staircase }
  | 9 => (inRange 1 200 v).map fun x => { p with slew := x }
  | 10 => (stairValue v).map fun x => { p with stair0 := x }
  | 11 => (stairValue v).map fun x => { p with stair1 := x }
  | 12 => (stairValue v).map fun x => { p with stair2 := x }
  | 13 => (oneOf [2, 4, 6] v).map fun x => { p with hold := x }
  | 14 => (inRange 0 1 v).map fun x => { p with parkMode := if x = 0 then .coast else .brake }
  | 15 => (inRange 0 600 v).map fun x => { p with parkDelay := x }
  | 16 => (inRange 5 60 v).map fun x => { p with spinupS := x }
  | 17 => (policyOfCode v).map fun x => { p with stallPolicy := x }
  | 18 => (policyOfCode v).map fun x => { p with slipPolicy := x }
  | 19 => (policyOfCode v).map fun x => { p with overcurrentPolicy := x }
  | 20 => (inRange 5 100 v).map fun x => { p with retryTime := x }
  | 21 => (inRange 1 7 v).map fun x => { p with retryLimit := x }
  | 22 => (inRange 100 1000 v).map fun x => { p with stallMs := x }
  | 23 => (oneOf [2, 4, 6, 8] v).map fun x => { p with ratio := x }
  | 24 => (inRange 1 8 v).map fun x => { p with deglitch := x }
  | 25 => (inRange 4 64 v).map fun x => { p with ocCount := x }
  | _ => none

/-- The capture of line word 32 + `i`, i from 0 to 14, with value `v` (R177). -/
def LineProfile.capture (p : LineProfile) (i v : Nat) : Option LineProfile :=
  match i with
  | 0 => (inRange 500 10000 v).map fun x => { p with seizeWait := x }
  | 1 => (inRange 20 200 v).map fun x => { p with breakMs := x }
  | 2 => (inRange 20 200 v).map fun x => { p with makeMs := x }
  | 3 => (inRange 5 120 v).map fun x => { p with answerTimeout := x }
  | 4 => (inRange 2 8 v).map fun x => { p with windows := x }
  | 5 => (inRange 1 10 v).map fun x => { p with startToneTime := x }
  | 6 => (inRange 5 120 v).map fun x => { p with readyWait := x }
  | 7 => (inRange 1 10 v).map fun x => { p with stopToneTime := x }
  | 8 => (inRange 500 10000 v).map fun x => { p with releaseGuard := x }
  | 9 => (inRange 100 2000 v).map fun x => { p with loopLoss := x }
  | 10 => (inRange 0 15 v).map fun x => { p with repeatLimit := x }
  | 11 => (inRange 400 3000 v).map fun x => { p with fBlack := x }
  | 12 => (inRange 400 3000 v).map fun x => { p with fWhite := x }
  | 13 => (inRange 400 3000 v).map fun x => { p with fStart := x }
  | 14 => (inRange 400 3000 v).map fun x => { p with fStop := x }
  | _ => none

/-- The two entries of a tone bank word put at 2i and 2i + 1 of a bank; none when one is above 255
(R177). -/
def bankCapture (bank : List Nat) (i : Nat) (data : Word) : Option (List Nat) :=
  let a := field data 0 16
  let b := field data 16 15
  if a ≤ 255 ∧ b ≤ 255 then some ((bank.set (2 * i) a).set (2 * i + 1) b) else none

/-- The four characters of a slip header word put at 4i … 4i + 3; none when one is outside 32 to 126
(R177). -/
def headerCapture (header : List Nat) (i : Nat) (data : Word) : Option (List Nat) :=
  let cs := [field data 0 8, field data 8 8, field data 16 8, field data 24 7]
  if cs.all (fun c => decide (32 ≤ c) && decide (c ≤ 126)) then
    some ((((header.set (4 * i) (cs.getD 0 0)).set (4 * i + 1) (cs.getD 1 0)).set (4 * i + 2)
      (cs.getD 2 0)).set (4 * i + 3) (cs.getD 3 0))
  else none

/-- Profile word `w` holds a value that is captured (R177). -/
def isValueWord (w : Nat) : Bool :=
  decide (w ≤ 25) || (decide (32 ≤ w) && decide (w ≤ 47)) || (decide (64 ≤ w) && decide (w ≤ 133))

/-- The capture of value word `w`: the shadow after it, or none when a field is out of range (R176,
R177). The value field is bits 0 to 30. -/
def Profile.capture (p : Profile) (w : Nat) (data : Word) : Option Profile :=
  let v := field data 0 31
  if w ≤ 25 then (p.drum.capture w v).map fun d => { p with drum := d }
  else if w < 32 then none
  else if w < 47 then (p.line.capture (w - 32) v).map fun l => { p with line := l }
  else if w = 47 then (inRange 0 100 v).map fun x => { p with lampWarmUp := x }
  else if w < 64 then none
  else if w < 96 then (bankCapture p.bank0 (w - 64) data).map fun b => { p with bank0 := b }
  else if w < 128 then (bankCapture p.bank1 (w - 96) data).map fun b => { p with bank1 := b }
  else if w < 134 then (headerCapture p.header (w - 128) data).map fun h => { p with header := h }
  else none

/-- The byte-enable and parity checks of a capture (R176). -/
def captureForm (be : ByteEnables) (data : Word) : Option CaptureRefusal :=
  if be ≠ 15 then some .partialBytes else if !evenParity data then some .parity else none

/-- The Clock Set word's time, when every field is in range (R141, R179). -/
def clockSetTime (data : Word) : Option TimeOfDay :=
  let s := field data 0 8
  let m := field data 8 8
  let h := field data 16 8
  if h ≤ 23 ∧ m ≤ 59 ∧ s ≤ 59 then some { hours := h, minutes := m, seconds := s, isSet := true } else none

/-- The action word numbers (R179). -/
def clockSetWord : Nat := 136
def drumClearWord : Nat := 137
def counterClearWord : Nat := 138

end Sys2Proof.Machine
end

