-- ==== Sys2Proof/Machine/Tone.lean ====
section
/-! DEFINITION. The arithmetic of the tone path (03_the_tone_path.md): reference pairs, level indices,
line levels, half-periods, the carrier generator and the frame signature. -/

namespace Sys2Proof.Machine

/-! ## Stage 1: the reference pair -/

/-- The value of one patch: floor(sum / 4) of its four samples (R44). -/
def patchValue (samples : List Nat) : Nat := samples.sum / 4

/-- The measured pair is accepted: its span is at least 64 (R44). -/
def pairAccepted (black white : Nat) : Bool := decide (black + 64 ≤ white)

/-! ## Stages 2 and 3: level index and level -/

/-- The level index of a sample against a pair (R46). -/
def levelIndex (sample black white : Nat) : Nat :=
  let span := white - black
  let d := min (sample - black) span
  (2 * 63 * d + span) / (2 * span)

/-- The fixed straight curve (R48). -/
def straightLevel (l : Nat) : Nat := (2 * 255 * l + 63) / 126

/-- The level of position j in a TEST_WEDGE frame of S positions (R49). -/
def wedgeLevel (j size : Nat) : Nat := 256 * j / size

/-- The tone bank a frame names (R47). -/
def Profile.bank (p : Profile) (b : Nat) : List Nat := if b = 0 then p.bank0 else p.bank1

/-- The line level of position j (R46 to R49): the wedge, else the straight curve, else the bank. -/
def lineLevel (p : Profile) (f : Frame) (pair : Nat × Nat) (j sample : Nat) : Nat :=
  if f.testWedge then wedgeLevel j (240 * f.k)
  else
    let l := levelIndex sample pair.1 pair.2
    if f.bypassTone then straightLevel l else (p.bank f.bank).getD l 0

/-! ## The frequency pair and the half-periods -/

/-- The attempt's frequency pair and PAIR_DEFAULTED (R50). -/
def frequencyPair (fBlack fWhite : Nat) : Nat × Nat × Bool :=
  if fBlack + 200 ≤ fWhite then (fBlack, fWhite, false) else (1300, 2100, true)

/-- The half-period of a fixed tone (R52). -/
def fixedHalf (f : Nat) : Nat := (4000000 + f) / (2 * f)

/-- The half-period of a picture level (R51). -/
def pictureHalf (fBlack fWhite level : Nat) : Nat :=
  let dn := 255 * fBlack + (fWhite - fBlack) * level
  (1020000000 + dn) / (2 * dn)

/-! ## The carrier generator -/

/-- A tone request (R53): `relay` says that the LINE relay is closed, `c` is the crystal count. -/
def Carrier.toneRequest (g : Carrier) (relay : Bool) (c h : Nat) : Carrier :=
  match g.mode with
  | .still =>
    if relay then { g with mode := .tone, half := h, pending := none, level := true, since := c } else g
  | .tone => { g with pending := some h }
  | .pulse => g

/-- A stop request, which the opening of the relay also is (R55). -/
def Carrier.stop (g : Carrier) : Carrier :=
  match g.mode with
  | .still => g
  | _ => { g with mode := .still, level := false, pending := none }

/-- A pulse request (R55). -/
def Carrier.pulseRequest (g : Carrier) : Carrier :=
  match g.mode with
  | .still => { g with mode := .pulse, level := false }
  | _ => g

/-- The count of crystal cycles since the last toggle has reached Hc in TONE (R54). -/
def Carrier.toggleDue (g : Carrier) (c : Nat) : Bool :=
  (g.mode == .tone) && decide (g.since + g.half ≤ c)

/-- The toggle: the level changes, the count starts again, a pending half-period is taken (R54). -/
def Carrier.toggle (g : Carrier) : Carrier :=
  { g with
    level := !g.level
    since := g.since + g.half
    half := g.pending.getD g.half
    pending := none }

/-! ## Signatures -/

/-- One bit fed to a signature register (R56). -/
def sigBit (r : Sig) (b : Bool) : Sig :=
  if r.msb != b then (r <<< 1) ^^^ 0x1021#16 else r <<< 1

/-- One level fed to a signature register, most significant bit first (R56). -/
def sigFeed (r : Sig) (level : Nat) : Sig :=
  [7, 6, 5, 4, 3, 2, 1, 0].foldl (fun r i => sigBit r (level.testBit i)) r

end Sys2Proof.Machine
end

