-- ==== Sys2Proof/Machine/Scan.lean ====
section
/-! DEFINITION. The operations of the Scan Unit (02_carriage_and_scanning.md, The Scan Unit;
03_the_tone_path.md, Stage 1). Those that reach the Line Ring, the Carriage Drive or the Job Controller
are operations on the State. -/

namespace Sys2Proof.Machine

/-! ## The Scan Unit's own state -/

/-- The frame being scanned or last scanned. -/
def Scan.frame (c : Scan) : Option Frame := c.frames[c.current]?

/-- The levels of a line of a frame: S = 240·k. -/
def Frame.size (f : Frame) : Nat := 240 * f.k

/-- Lamp-on (R31): `warmUp` is the profile's lamp warm-up in tenths of a second. -/
def Scan.lampOn (warmUp t : Nat) (frames : List Frame) (c : Scan) : Scan :=
  let c := { c with frames := frames, lastPair := none }
  match c.state with
  | .idle =>
    if warmUp = 0 then { c with state := .ready, lamp := true, warm := none }
    else { c with state := .warming, lamp := true, warm := some (t + 100000 * warmUp) }
  | _ => c

/-- The warm timer has run out (R31). -/
def Scan.warmed (c : Scan) : Scan := { c with state := .ready, warm := none }

/-- The line in progress is dropped: the FIFO is emptied and the header is not written (R32). -/
def Scan.dropLine (c : Scan) : Scan :=
  { c with line := none, fifo := [], pair := none, blackRefs := [], whiteRefs := [], truncating := false }

/-- The Scan Unit's part of lamp-off after the scan-stop (R32). -/
def Scan.lampOff (c : Scan) : Scan := { c with lamp := false, warm := none, state := .idle }

/-- A line in progress is being sampled: the turn is a scanned turn (R35). -/
def Scan.sampling (c : Scan) : Bool :=
  (c.state == .scanning) && (c.line.map fun l => !l.sampled).getD false

/-! ### References -/

/-- Interval n is one in which a reference sample is taken (R23). -/
def refInterval (n : Nat) : Bool :=
  (decide (2 ≤ n) && decide (n ≤ 5)) || (decide (8 ≤ n) && decide (n ≤ 11))

/-- The reference sample of interval n (R23). -/
def Scan.takeRef (n : Nat) (cell : Sample) (c : Scan) : Scan :=
  if c.sampling && refInterval n && !c.refTaken then
    if n ≤ 5 then { c with blackRefs := c.blackRefs ++ [cell.toNat], refTaken := true }
    else { c with whiteRefs := c.whiteRefs ++ [cell.toNat], refTaken := true }
  else c

/-- The default pair of the frame being scanned (R45). -/
def Scan.defaultPair (c : Scan) : Nat × Nat := (c.frame.map fun f => (f.black, f.white)).getD (0, 0)

/-- The turn holds a pair: the last accepted, else the frame's default pair (R45). -/
def Scan.holdPair (c : Scan) : Scan :=
  let p := c.lastPair.getD c.defaultPair
  { c with
    pair := some p, holds := satInc c.holds
    header := { c.header with black := p.1, white := p.2, heldRefs := true } }

/-- The turn's measured pair is accepted (R44). -/
def Scan.acceptPair (b w : Nat) (c : Scan) : Scan :=
  { c with
    pair := some (b, w), lastPair := some (b, w)
    header := { c.header with black := b, white := w } }

/-- The reference moment (R44, R45): the measured pair is accepted, or a pair is held. -/
def Scan.refMoment (c : Scan) : Scan :=
  if c.sampling then
    let b := patchValue c.blackRefs
    let w := patchValue c.whiteRefs
    if pairAccepted b w then c.acceptPair b w else c.holdPair
  else c

/-! ### The scan FIFO -/

/-- Every entry closed. -/
def closeAll (q : List FifoEntry) : List FifoEntry := q.map fun e => { e with closed := true }

/-- A byte put at lane i of a word. -/
def laneWord (i y : Nat) : Word := BitVec.ofNat 32 (y % 256) <<< (8 * i)

/-- The byte enable of lane i. -/
def laneEnable (i : Nat) : ByteEnables := (1#4) <<< i

/-- Byte i joins an entry (R36); the fourth byte closes it. -/
def FifoEntry.join (i y : Nat) (e : FifoEntry) : FifoEntry :=
  { e with
    access := { e.access with be := e.access.be ||| laneEnable i, data := e.access.data ||| laneWord i y }
    closed := i == 3 }

/-- A new entry for a word of the level area at `base`, with byte i enabled (R36). -/
def newEntry (base word i y : Nat) : FifoEntry where
  word := word
  access := { addr := base + 4 * word, be := laneEnable i, data := laneWord i y }
  closed := i == 3

/-- Byte i joins the last entry of the queue. -/
def joinLast (i y : Nat) : List FifoEntry → List FifoEntry
  | [] => []
  | [e] => [e.join i y]
  | e :: q => e :: joinLast i y q

/-- The newest entry is open and is that of `word`. -/
def openFor (q : List FifoEntry) (word : Nat) : Bool :=
  match q.getLast? with
  | some e => !e.closed && e.word == word
  | none => false

/-- The level of position j is placed, or lost (R36): `base` is the slot's level area. -/
def Scan.placeLevel (base j y : Nat) (c : Scan) : Scan :=
  if openFor c.fifo (j / 4) then { c with fifo := joinLast (j % 4) y c.fifo }
  else if c.fifo.length < 16 then
    { c with fifo := closeAll c.fifo ++ [newEntry base (j / 4) (j % 4) y] }
  else { c with header := { c.header with overrun := true }, overruns := satInc c.overruns }

/-- Sampling of the line is over (R35, R36): the open entry closes and the next line increases. -/
def Scan.endSampling (c : Scan) : Scan :=
  { c with
    line := c.line.map fun l => { l with sampled := true }
    fifo := closeAll c.fifo
    nextLine := c.nextLine + 1 }

/-- Position j of the line in progress is sampled from `cell` (R35). -/
def Scan.sample (p : Profile) (base j : Nat) (cell : Sample) (f : Frame) (c : Scan) : Scan :=
  let y := lineLevel p f (c.pair.getD c.defaultPair) j cell.toNat
  let c := { c with sig := sigFeed c.sig y }.placeLevel base j y
  let c := { c with line := c.line.map fun l => { l with positions := j + 1 } }
  if j + 1 = f.size then c.endSampling else c

/-- An INDEX ends the sampling of a line that has not had all its slot events (R41). -/
def Scan.endShort (size positions : Nat) (c : Scan) : Scan :=
  ({ c with
      header := { c.header with overrun := true }
      overruns := satAdd c.overruns (size - positions) }).endSampling

/-- A turn cut short at an INDEX (R41); one cut before its reference moment holds a pair there (R45). -/
def Scan.cutShort (c : Scan) : Scan :=
  match c.line, c.frame with
  | some l, some f =>
    if l.sampled then c
    else (if c.pair = none then c.holdPair else c).endShort f.size l.positions
  | _, _ => c

/-! ### The scan writer -/

/-- Word i of the header register (R37; 12, Line Ring slot header). -/
def Header.word (h : Header) (i : Nat) : Word :=
  match i with
  | 0 => fromBytesHalf h.frame 0 h.line
  | 1 => fromHalves h.black h.white
  | 2 => BitVec.ofNat 32 (bitOf h.heldRefs + 2 * bitOf h.overrun)
  | _ => fromHalves h.size 0

/-- The word that the scan writer asks the port for, if any (R36, R37); `slotBase` gives a slot's
address. -/
def Scan.nextWord (slotBase : Nat → Nat) (c : Scan) : Option PortWord :=
  match c.fifo with
  | e :: _ => if e.closed then some (.scanEntry e.access true) else none
  | [] =>
    match c.line with
    | some l =>
      if l.sampled && decide (l.headerWritten < 4) then
        some (.scanHeader
          (wholeWord (slotBase l.slot + 4 * l.headerWritten) (c.header.word l.headerWritten)) true)
      else none
    | none => none

/-- The closed entries that wait in the FIFO (R163). -/
def Scan.closedEntries (c : Scan) : Nat := (c.fifo.filter (·.closed)).length

/-- A header word of the line in progress has reached memory (R37). -/
def Scan.headerStep (c : Scan) : Scan :=
  { c with line := c.line.map fun l => { l with headerWritten := l.headerWritten + 1 } }

/-- All four header words have reached memory: line-complete is due (R37). -/
def Scan.headerDone (c : Scan) : Bool := (c.line.map fun l => decide (4 ≤ l.headerWritten)).getD false

/-! ## Scanning and the other blocks -/

/-- The word of a dropped line that is in progress on the port completes and counts for nothing (R32). -/
def PortWord.dropScan : PortWord → PortWord
  | .scanEntry x _ => .scanEntry x false
  | .scanHeader x _ => .scanHeader x false
  | w => w

/-- The scan words on the port belong to no line any more. -/
def Gate.dropScan (g : Gate) : Gate := { g with port := g.port.map PortWord.dropScan }

/-- The address of slot n under the layout in force. -/
def State.slotAddr (s : State) (n : Nat) : Nat := (s.layout.inForce.map (·.slotAddr n)).getD 0

/-- The level area of slot n. -/
def State.levelAddr (s : State) (n : Nat) : Nat := s.slotAddr n + 16

/-- A signature replaces a frame's entry of the scan signature table (R126). -/
def Jobs.keepSig (frame : Nat) (sig : Sig) (j : Jobs) : Jobs :=
  { j with scanSigs := j.scanSigs.set frame sig }

/-- The Line Ring as the line in progress, if any, is dropped (R32). -/
def State.ringDropped (s : State) : Ring :=
  match s.scan.line with
  | some l => s.ring.dropLine l.slot
  | none => s.ring

/-- Scan-stop (R32, R40). -/
def State.scanStop (s : State) : State :=
  match s.scan.state with
  | .scanning =>
    { s with
      scan := { s.scan.dropLine with state := .ready }
      jobs := s.jobs.keepSig s.scan.current s.scan.sig
      carriage := s.carriage.trackEnd
      ring := s.ringDropped
      gate := s.gate.dropScan }
  | .frameDone =>
    { s with
      scan := { s.scan.dropLine with state := .ready }
      carriage := s.carriage.trackEnd
      ring := s.ringDropped
      gate := s.gate.dropScan }
  | _ => s

/-- Lamp-off: it first acts as a scan-stop (R32). -/
def State.lampOff (s : State) : State :=
  let s := s.scanStop
  s.withScan s.scan.lampOff

/-- The next line of a frame is begun in a claimed slot (R34). -/
def Scan.beginLine (slot : Nat) (f : Frame) (c : Scan) : Scan :=
  { c with
    line := some { slot, line := c.nextLine, positions := 0, sampled := false, headerWritten := 0 }
    header := { Header.empty with frame := c.current, line := c.nextLine, size := f.size }
    pair := none, blackRefs := [], whiteRefs := [], refTaken := false }

/-- A stall turn (R34). -/
def Scan.stall (c : Scan) : Scan := { c with stalls := satInc c.stalls }

/-- An INDEX in SCANNING: a scanning turn, while the next line is below the line count (R34). The INDEX that cuts
short the frame's last line finds no next line and counts no stall (R41; DEDUCED, log entry 35). -/
def State.scanTurn (s : State) : State :=
  match s.scan.frame with
  | none => s
  | some f =>
    if f.count ≤ s.scan.nextLine then s
    else if s.scan.line.isSome then s.withScan s.scan.stall
    else
      match s.ring.claim s.scan.current s.scan.nextLine with
      | none => s.withScan s.scan.stall
      | some (slot, ring) =>
        { s with
          ring := ring
          scan := s.scan.beginLine slot f
          carriage := if 0 < s.scan.nextLine then s.carriage.advance s.now else s.carriage }

/-- Scanning of frame f begins (R33, R39). -/
def Scan.beginFrame (f : Nat) (c : Scan) : Scan :=
  { c with
    state := .scanning, current := f, nextLine := 0, sig := 1, arrivalNoted := false, linesDone := 0,
    truncating := false }

/-- Frame f begins, with track-begin at its pitch, and the INDEX is its first scanning turn (R33, R39). -/
def State.beginFrame (f : Nat) (s : State) : State :=
  let pitch := (s.scan.frames[f]?.map (·.pitch)).getD 0
  ({ s with scan := s.scan.beginFrame f, carriage := s.carriage.trackBegin pitch }).scanTurn

/-- Scan-start (R33). -/
def State.scanStart (s : State) : State :=
  if s.scan.state = .ready ∧ s.carriage.state = .atFrame then s.beginFrame 0 else s

/-- The Scan Unit at an INDEX event (R34, R39, R41). -/
def State.scanIndex (s : State) : State :=
  match s.scan.state with
  | .scanning => (s.withScan s.scan.cutShort).scanTurn
  | .frameDone =>
    if s.scan.arrivalNoted ∧ s.carriage.state = .atFrame ∧ s.scan.current + 1 < s.scan.frames.length then
      s.beginFrame (s.scan.current + 1)
    else s
  | _ => s

/-- The Job Controller takes FRAME_DONE for frame f (R131). -/
def State.orderNextFrame (f : Nat) (s : State) : State :=
  match s.jobs.current.bind fun j => j.frames[f + 1]? with
  | some next =>
    if s.jobs.attemptInProgress then s.withCarriage (s.carriage.requestPosition s.now next.start) else s
  | none => s

/-- The end of the current frame: FRAME_DONE goes to the Line Ring, the Line Unit and the Job Controller
(R38, R40, R62, R126, R131). A FRAME_DONE given between an attempt end and the next CALL is not noted (R62). -/
def State.endFrame (s : State) : State :=
  let f := s.scan.current
  ({ s with
      scan := { s.scan with state := .frameDone, arrivalNoted := false, truncating := false }
      carriage := s.carriage.trackEnd
      ring :=
        if s.line.active then s.ring.noteDone { frame := f, linesScanned := s.scan.linesDone, sig := s.scan.sig }
        else s.ring
      jobs := s.jobs.keepSig f s.scan.sig }).orderNextFrame f

/-- Line-complete (R37): the slot is FILLED, and the last line, or a truncation, ends the frame (R38). -/
def State.lineComplete (s : State) : State :=
  match s.scan.line with
  | none => s
  | some l =>
    let last := s.scan.truncating || ((s.scan.frame.map fun f => l.line + 1 == f.count).getD false)
    let s :=
      { s with
        ring := s.ring.lineComplete l.slot
        scan := { s.scan with line := none, linesDone := s.scan.linesDone + 1 } }
    if last then s.endFrame else s

/-- A limit-truncation taken by the Scan Unit (R38). -/
def State.truncateFrame (s : State) : State :=
  match s.scan.state with
  | .scanning =>
    match s.scan.line with
    | none => s.endFrame
    | some l =>
      if l.positions = 0 then
        ({ s with
            ring := s.ring.giveBack l.slot
            scan := { s.scan.dropLine with nextLine := l.line }
            gate := s.gate.dropScan }).endFrame
      else s.withScan { s.scan with truncating := true }
  | _ => s

/-- The Scan Unit takes a limit-truncation event that the Carriage Drive has given (R29, R38). -/
def State.takeTruncation (s : State) : State :=
  if s.carriage.truncationEvent then
    (s.withCarriage { s.carriage with truncationEvent := false }).truncateFrame
  else s

/-- The Scan Unit takes an arrival event that the Carriage Drive has given (R26, R39). -/
def State.takeArrival (s : State) : State :=
  if s.carriage.arrivalEvent then
    let next := s.scan.frames[s.scan.current + 1]?
    let noted := s.scan.state == .frameDone && (next.map (·.start)) == some s.carriage.position
    { s with
      carriage := { s.carriage with arrivalEvent := false }
      scan := { s.scan with arrivalNoted := s.scan.arrivalNoted || noted } }
  else s

/-- The scanner's part of slot event j (R35); outside a scanned turn it is ignored. -/
def State.scanSlot (j : Nat) (cell : Sample) (s : State) : State :=
  match s.scan.line, s.scan.frame with
  | some l, some f =>
    if s.scan.sampling then s.withScan (s.scan.sample s.profile (s.levelAddr l.slot) j cell f) else s
  | _, _ => s

end Sys2Proof.Machine
end

