-- ==== Sys2Proof/Machine/Flags.lean ====
section
/-! DEFINITION. The code values by which the part writes its states, outcomes and reasons into memory
(12_memory_formats.md, Code values). A set whose list begins with none shows none as 0 (R192). -/

namespace Sys2Proof.Machine

/-- The code of a value that may be none: none is 0. -/
def codeOr {α : Type} (f : α → Nat) : Option α → Nat
  | some x => f x
  | none => 0

/-- A drum speed is coded by its rpm. -/
def Speed.code : Speed → Nat
  | .rpm60 => 60
  | .rpm90 => 90
  | .rpm120 => 120

def DrumState.code : DrumState → Nat
  | .stopped => 0
  | .ramping => 1
  | .settling => 2
  | .inBand => 3
  | .bandWarning => 4
  | .faultWait => 5
  | .latched => 6
  | .parking => 7

def CarriageState.code : CarriageState → Nat
  | .unhomed => 0
  | .homing => 1
  | .positioning => 2
  | .atFrame => 3
  | .tracking => 4
  | .fault => 5

def ScannerState.code : ScannerState → Nat
  | .idle => 0
  | .warming => 1
  | .ready => 2
  | .scanning => 3
  | .frameDone => 4

def LineState.code : LineState → Nat
  | .onHook => 0
  | .seizeWait => 1
  | .dialing => 2
  | .answerWait => 3
  | .startTone => 4
  | .readyWait => 5
  | .phasing => 6
  | .picture => 7
  | .separator => 8
  | .stopTone => 9
  | .releaseGuard => 10

def JobState.code : JobState → Nat
  | .idle => 0
  | .mountWait => 1
  | .attempting => 2
  | .retryWait => 3
  | .finishing => 4

def Mount.code : Mount → Nat
  | .fresh => 0
  | .opened => 1
  | .stale => 2

def PrinterState.code : PrinterState → Nat
  | .idle => 0
  | .printing => 1
  | .paperOut => 2

def PrintFlag.code : PrintFlag → Nat
  | .printPending => 1
  | .notPrinted => 2

def Tone.code : Tone → Nat
  | .ready => 1
  | .notReady => 2
  | .repeatLines => 3
  | .halt => 4

def AttemptOutcome.code : AttemptOutcome → Nat
  | .sent => 1
  | .noAnswer => 2
  | .notReady => 3
  | .lineLost => 4
  | .drumFault => 5
  | .halted => 6
  | .carriageFault => 7
  | .aborted => 8
  | .operatorStop => 9
  | .mediaRemoved => 10

def FinalOutcome.code : FinalOutcome → Nat
  | .sent => 1
  | .halted => 6
  | .gaveUp => 11
  | .notSent => 12

def Cause.code : Cause → Nat
  | .carriageFault => 7
  | .aborted => 8
  | .operatorStop => 9
  | .mediaRemoved => 10

def Detail.code : Detail → Nat
  | .none => 0
  | .bandLost => 1
  | .stall => 2
  | .slip => 3
  | .overcurrent => 4
  | .drumNotReady => 5
  | .noIndex => 6
  | .carriageNotReady => 7
  | .scannerNotReady => 8
  | .carriageEvent => 9

def SigCheck.code : SigCheck → Nat
  | .notCompared => 0
  | .isMatch => 1
  | .mismatch => 2

def CompletionStatus.code : CompletionStatus → Nat
  | .doneAll => 1
  | .donePartial => 2
  | .failed => 3
  | .refused => 4
  | .notFound => 5
  | .ended c => c.code

def RefusalReason.code : RefusalReason → Nat
  | .badAddress => 1
  | .frameOutOfRange => 2
  | .badSpeed => 3
  | .badSlots => 4
  | .badPitch => 5
  | .badReferences => 6
  | .badDestination => 7
  | .ringTooSmall => 8
  | .chainTooLong => 9
  | .chainMismatch => 10
  | .duplicate => 11
  | .busy => 12
  | .badAction => 13

def LoadResult.code : LoadResult → Nat
  | .accepted => 1
  | .refusedInvalid => 2
  | .refusedBusy => 3

def LoadReason.code : LoadReason → Nat
  | .badVersion => 1
  | .badCount => 2
  | .misaligned => 3
  | .outsideTop => 4
  | .overlap => 5
  | .busy => 6

def CaptureRefusal.code : CaptureRefusal → Nat
  | .partialBytes => 1
  | .parity => 2
  | .range => 3

def RepeatRefusal.code : RepeatRefusal → Nat
  | .queueBusy => 1
  | .limitReached => 2
  | .emptyRange => 3
  | .linesGone => 4

def DropReason.code : DropReason → Nat
  | .statusPage => 1
  | .preview => 2
  | .ring => 3
  | .history => 4
  | .tcb => 5
  | .toneBank => 6

/-- The action codes of a Send entry: FREE, START, ABORT. -/
def actionFree : Nat := 0
def actionStart : Nat := 1
def actionAbort : Nat := 2

/-- The action codes of a Return entry: FREE, FULL, FULL_QUIET. -/
def returnFree : Nat := 0
def returnFull : Nat := 1
def returnFullQuiet : Nat := 2

/-- The attempt outcome that a cut request's cause gives (R93). -/
def Cause.outcome : Cause → AttemptOutcome
  | .aborted => .aborted
  | .operatorStop => .operatorStop
  | .mediaRemoved => .mediaRemoved
  | .carriageFault => .carriageFault

/-- The detail of an attempt that a cut request ends: CARRIAGE_EVENT for CARRIAGE_FAULT (R94). -/
def Cause.detail : Cause → Detail
  | .carriageFault => .carriageEvent
  | _ => .none

/-- The detail of an attempt that a drum fault ends (R88). -/
def DrumFault.detail : DrumFault → Detail
  | .stall => .stall
  | .slip => .slip
  | .overcurrent => .overcurrent

/-- An outcome after which the destination may be retried (R94). -/
def AttemptOutcome.retryable : AttemptOutcome → Bool
  | .noAnswer | .notReady | .lineLost | .drumFault => true
  | _ => false

end Sys2Proof.Machine
end

