-- ==== Sys2Proof/Machine/Slip.lean ====
section
/-! DEFINITION. The operations of the Desk Clock and of the Slip Unit on their own state, and the text and
the log record of a slip (08_receipt_slips_and_the_desk_clock.md). `t` is the timebase in µs. -/

namespace Sys2Proof.Machine

/-! ## The Desk Clock -/

/-- One second later (R140). -/
def TimeOfDay.advance (c : TimeOfDay) : TimeOfDay :=
  if c.seconds < 59 then { c with seconds := c.seconds + 1 }
  else if c.minutes < 59 then { c with seconds := 0, minutes := c.minutes + 1 }
  else if c.hours < 23 then { c with seconds := 0, minutes := 0, hours := c.hours + 1 }
  else { c with seconds := 0, minutes := 0, hours := 0 }

/-- The uptime stays at 4,294,967,295 once it reaches it (R140). -/
def nextUptime (u : Nat) : Nat := min (u + 1) 4294967295

/-- A second tick; the next falls 1,000,000 µs later (R140). -/
def Clock.tick (c : Clock) : Clock where
  time := c.time.advance
  uptime := nextUptime c.uptime
  nextTick := c.nextTick.map (· + 1000000)

/-- A captured Clock Set (R141). -/
def Clock.setTime (time : TimeOfDay) (c : Clock) : Clock := { c with time := time }

/-! ## The slip text (R145, R146) -/

/-- The codes of a text. -/
def text (s : String) : List Nat := s.toList.map Char.toNat

/-- The code of a decimal or hexadecimal digit. -/
def digitCode (d : Nat) : Nat := if d < 10 then 48 + d else 55 + d

/-- The last `width` digits of a number to a base, most significant first. -/
def digits (base width n : Nat) : List Nat :=
  (List.range width).map fun i => digitCode (n / base ^ (width - 1 - i) % base)

/-- A line filled to exactly 24 characters with spaces. -/
def fill24 (cs : List Nat) : List Nat := (cs ++ List.replicate 24 32).take 24

/-- A name code character as printed: "?" outside 32 to 126. -/
def printable (c : Nat) : Nat := if 32 ≤ c ∧ c ≤ 126 then c else 63

/-- The words of the outcome line (R146). -/
def outcomeText (o : Option AttemptOutcome) (d : Detail) : String :=
  match o with
  | none => ""
  | some .sent => "SENT COMPLETE"
  | some .noAnswer => "NO ANSWER"
  | some .notReady => "NOT READY AT RECEIVER"
  | some .lineLost => "LINE LOST"
  | some .halted => "HALTED BY RECEIVER"
  | some .aborted => "ABORTED BY DESK"
  | some .operatorStop => "STOPPED BY OPERATOR"
  | some .mediaRemoved => "PRINT REMOVED"
  | some .drumFault =>
    match d with
    | .bandLost => "DRUM FAULT BAND LOST"
    | .stall => "DRUM FAULT STALL"
    | .slip => "DRUM FAULT SLIP"
    | .overcurrent => "DRUM FAULT OVERCURRENT"
    | .drumNotReady => "DRUM FAULT NOT READY"
    | .noIndex => "DRUM FAULT NO INDEX"
    | _ => "DRUM FAULT"
  | some .carriageFault =>
    match d with
    | .carriageNotReady => "CARRIAGE FAULT NOT READY"
    | .scannerNotReady => "CARRIAGE FAULT SCANNER"
    | .carriageEvent => "CARRIAGE FAULT EVENT"
    | _ => "CARRIAGE FAULT"

/-- hh:mm:ss. -/
def TimeOfDay.text (c : TimeOfDay) : List Nat :=
  digits 10 2 c.hours ++ [58] ++ digits 10 2 c.minutes ++ [58] ++ digits 10 2 c.seconds

/-- Line 2 of a slip. -/
def Slip.seqLine (p : Slip) : List Nat :=
  text "SEQ " ++ digits 10 5 p.seq ++ [32] ++ p.record.startTime.text
    ++ (if p.record.startTime.isSet then [] else text " UNSET")

/-- Line 3 of a slip. -/
def Slip.toLine (p : Slip) : List Nat :=
  text "TO " ++ p.record.name.map printable ++ text " TRY " ++ digits 10 1 p.record.attemptNo

/-- The line of one frame. -/
def frameLine (caption : Nat) (e : FrameEntry) : List Nat :=
  [67] ++ digits 10 8 caption ++ text " L" ++ digits 10 4 e.firstSent ++ text " S"
    ++ digits 16 4 e.sig.toNat ++ (if e.check = .mismatch then [33] else [])

/-- The duration as printed: minutes and seconds, at most 999:59. -/
def durationText (seconds : Nat) : List Nat :=
  let s := min seconds 59999
  digits 10 3 (s / 60) ++ [58] ++ digits 10 2 (s % 60)

/-- The duration line. -/
def Slip.durLine (p : Slip) : List Nat :=
  text "DUR " ++ durationText (p.record.endUptime - p.record.startUptime) ++ text " RPT "
    ++ digits 10 2 (min p.record.repeatsServed 99) ++ [47] ++ digits 10 2 (min p.record.repeatsRefused 99)

/-- The printed lines of a slip, in order (R145). -/
def Slip.lines (p : Slip) : List (List Nat) :=
  ([p.header, p.seqLine, p.toLine] ++ (p.record.captions.zip p.record.frames).map (fun x => frameLine x.1 x.2)
    ++ [p.durLine, text (outcomeText p.record.outcome p.record.detail)]).map fill24

/-- What goes out for a slip: each printed line with carriage return and line feed, the REPRINT line
first when it is a reprint, then the three feed lines (R147, R151). -/
def Slip.output (reprinting : Bool) (p : Slip) : List (List Nat) :=
  let ls := (if reprinting then [fill24 (text "REPRINT")] else []) ++ p.lines
  ls.map (· ++ [13, 10]) ++ List.replicate 3 [10]

/-! ## SLIP_TXD (R147) -/

/-- The length of one bit and of one character on SLIP_TXD, µs. -/
def txBit : Nat := 1000
def txFrame : Nat := 10 * txBit

/-- The parity bit: it makes the count of ones in the code bits and itself even. -/
def txParity (code : BitVec 7) : Bool :=
  (List.range 7).foldl (fun p i => p != code.getLsbD i) false

/-- The ten bits of a character in the order sent. The start bit is the level opposite to the stop level
(PRESUMED, log entry 14). -/
def txBits (code : BitVec 7) : List Bool :=
  [false] ++ (List.range 7).map (fun i => code.getLsbD i) ++ [txParity code, true]

/-- The level of SLIP_TXD: the stop level between characters. -/
def SlipUnit.txdLevel (t : Nat) (u : SlipUnit) : Bool :=
  match u.txd with
  | some ch => (txBits ch.code).getD ((t - ch.start) / txBit) true
  | none => true

/-! ## The printer (R148 to R151) -/

/-- The head slip's character at the print cursor. -/
def SlipUnit.cursorCode (u : SlipUnit) : Option Nat :=
  u.queue.head?.bind fun p => ((p.output u.reprinting)[u.cursorLine]?).bind fun l => l[u.cursorChar]?

/-- Begins the character at the cursor, in PRINTING, unless SLIP_BUSY holds it (R148). -/
def SlipUnit.startChar (t : Nat) (u : SlipUnit) : SlipUnit :=
  if u.printer = .printing ∧ u.txd = none ∧ u.busy = false then
    match u.cursorCode with
    | some c => { u with txd := some { code := BitVec.ofNat 7 c, start := t, orphan := false }, begun := true }
    | none => u
  else u

/-- With the printer IDLE and a slip queued, the head slip begins printing (R148). -/
def SlipUnit.beginPrint (t : Nat) (u : SlipUnit) : SlipUnit :=
  if u.printer = .idle ∧ u.queue ≠ [] then
    ({ u with
        printer := .printing, cursorLine := 0, cursorChar := 0, begun := false, reprinting := false }).startChar t
  else u

/-- The last feed line has gone out (R149). -/
def SlipUnit.slipDone (t : Nat) (u : SlipUnit) : SlipUnit :=
  ({ u with
      printer := .idle, queue := u.queue.tail, begun := false, reprinting := false, cursorLine := 0,
      cursorChar := 0
      lastPrinted := (u.queue.head?.map Slip.seq).getD u.lastPrinted }).beginPrint t

/-- The cursor moves past the character that has gone out; past the last, the slip is done (R148, R149). -/
def SlipUnit.advanceCursor (t : Nat) (u : SlipUnit) : SlipUnit :=
  let out := (u.queue.head?.map (·.output u.reprinting)).getD []
  let line := out.getD u.cursorLine []
  if u.cursorChar + 1 < line.length then { u with cursorChar := u.cursorChar + 1 }.startChar t
  else if u.cursorLine + 1 < out.length then
    { u with cursorLine := u.cursorLine + 1, cursorChar := 0 }.startChar t
  else u.slipDone t

/-- The character on SLIP_TXD has ended; `busy` is the level of SLIP_BUSY (R148). A character that paper
ran out under counts for nothing (R150). -/
def SlipUnit.charEnd (t : Nat) (busy : Bool) (u : SlipUnit) : SlipUnit :=
  match u.txd with
  | none => u
  | some ch =>
    let u := { u with txd := none, busy := busy }
    if ch.orphan then u.startChar t
    else if u.printer = .printing then u.advanceCursor t
    else u

/-- SLIP_BUSY becomes inactive, so that a character that waits begins (R148). -/
def SlipUnit.busyRelease (t : Nat) (u : SlipUnit) : SlipUnit := { u with busy := false }.startChar t

/-- SLIP_BUSY is found active, or as it was (R148). -/
def SlipUnit.noteBusy (busy : Bool) (u : SlipUnit) : SlipUnit := { u with busy := u.busy || busy }

/-- SLIP_PAPER has become inactive (R150, R151). -/
def SlipUnit.enterPaperOut (u : SlipUnit) : SlipUnit :=
  { u with
    printer := .paperOut, paperTimer := none
    txd := u.txd.map fun ch => { ch with orphan := true } }

/-- The paper return timer has run (R151). -/
def SlipUnit.paperReturned (t : Nat) (u : SlipUnit) : SlipUnit :=
  let u := { u with paperTimer := none }
  if u.queue = [] then { u with printer := .idle }
  else
    ({ u with
        printer := .printing, cursorLine := 0, cursorChar := 0, reprinting := u.begun
        reprints := if u.begun then satInc u.reprints else u.reprints }).startChar t

/-! ## The Slip Log record (R144; 12, Slip Log record) -/

/-- Frame f of a list within the frame count, by a function of it; 0 beyond it (R191). -/
def frameField {α : Type} (g : α → Nat) (l : List α) (f : Nat) : Nat := (l[f]?.map g).getD 0

/-- Two send signatures in one word. -/
def sigWord (fs : List FrameEntry) (i : Nat) : Word :=
  fromHalves (frameField (·.sig.toNat) fs (2 * i)) (frameField (·.sig.toNat) fs (2 * i + 1))

/-- Word 8 + f of a record. -/
def captionWord (r : AttemptRecord) (f : Nat) : Word :=
  BitVec.ofNat 32 (frameField (fun c => c % 2 ^ 27) r.captions f
    + 2 ^ 28 * frameField (·.check.code) r.frames f)

/-- Word 16 + f of a record: each count in its 12 bits, written saturated (R192). -/
def linesWord (r : AttemptRecord) (f : Nat) : Word :=
  BitVec.ofNat 32 (frameField (fun e => min e.firstSent 4095) r.frames f
    + 65536 * frameField (fun e => min e.short 4095) r.frames f)

/-- Word i of a name code: characters 4i to 4i + 3. -/
def nameWord (name : List Nat) (i : Nat) : Word :=
  fromBytes (name.getD (4 * i) 0) (name.getD (4 * i + 1) 0) (name.getD (4 * i + 2) 0) (name.getD (4 * i + 3) 0)

/-- The 32 words of a slip's log record. -/
def Slip.logWords (p : Slip) : List Word :=
  let r := p.record
  [ fromHalfBytes p.seq p.flag.code r.frameCount
  , fromBytes r.dirIndex r.destSlot r.attemptNo (bitOf r.answered)
  , nameWord r.name 0, nameWord r.name 1, nameWord r.name 2
  , fromBytes r.startTime.seconds r.startTime.minutes r.startTime.hours (bitOf r.startTime.isSet)
  , BitVec.ofNat 32 r.startUptime
  , BitVec.ofNat 32 r.endUptime ]
  ++ (List.range 8).map (captionWord r)
  ++ (List.range 8).map (linesWord r)
  ++ (List.range 4).map (sigWord r.frames)
  ++ [ fromBytes (codeOr AttemptOutcome.code r.outcome) r.detail.code r.endingState.code 0
     , fromHalves r.repeatsServed r.repeatsRefused
     , fromHalves r.starves r.gaps
     , 0 ]

/-! ## Taking an Attempt Record (R142 to R144) -/

/-- The sequence number after one: 65,535 is followed by 1 (R142). -/
def nextSeqOf (n : Nat) : Nat := if n < 65535 then n + 1 else 1

/-- The slip of a record, with its print flag by the room in the Slip Queue (R142, R143). -/
def SlipUnit.slipOf (header : List Nat) (r : AttemptRecord) (u : SlipUnit) : Slip where
  record := r
  seq := u.nextSeq
  header := header
  flag := if u.queue.length < 8 then .printPending else .notPrinted

/-- The slip's record joins the log write list (R144). -/
def SlipUnit.logSlip (base count : Nat) (p : Slip) (u : SlipUnit) : SlipUnit :=
  { u with
    logList := u.logList ++ [⟨p.seq, wordsFrom (base + 128 * u.logIndex) p.logWords⟩]
    logIndex := ringNext u.logIndex count }

/-- The slip joins the Slip Queue, or is only logged (R143). -/
def SlipUnit.place (t : Nat) (p : Slip) (u : SlipUnit) : SlipUnit :=
  if p.flag = .printPending then { u with queue := u.queue ++ [p] }.beginPrint t
  else { u with unprinted := satInc u.unprinted }

/-- Composition (R142 to R144): `log` is the base and count of the Slip Log of the layout in force. -/
def SlipUnit.compose (t : Nat) (log : Option (Nat × Nat)) (header : List Nat) (r : AttemptRecord)
    (u : SlipUnit) : SlipUnit :=
  if 8 ≤ u.logList.length then { u with lost := satInc u.lost }
  else
    let p := u.slipOf header r
    let u := { u with nextSeq := nextSeqOf u.nextSeq, lastComposed := u.nextSeq }
    (match log with
      | some (base, count) => u.logSlip base count p
      | none => u).place t p

/-- The word at the head of the log write list, which the Slip Log writer asks for (R144). -/
def SlipUnit.nextLogWord (u : SlipUnit) : Option Access := u.logList.head?.bind (·.todo.head?)

/-- A Slip Log word has reached memory; the last completes the record (R144). -/
def SlipUnit.logWordDone (u : SlipUnit) : SlipUnit :=
  match u.logList with
  | [] => u
  | e :: l =>
    match e.todo with
    | _ :: x :: more => { u with logList := { e with todo := x :: more } :: l }
    | _ => { u with logList := l, lastLogged := e.seq }

/-- The Slip Unit's part of a layout accepted (R144): the write index becomes 0. -/
def SlipUnit.takeLayout (u : SlipUnit) : SlipUnit := { u with logIndex := 0 }

/-- The Counter Clear (R152). -/
def SlipUnit.clearCounters (u : SlipUnit) : SlipUnit := { u with unprinted := 0, reprints := 0, lost := 0 }

end Sys2Proof.Machine
end

