-- ==== Sys2Proof/Machine/StatusPage.lean ====
section
/-! DEFINITION. The 64 words of the Status Page as the blocks' values give them (12_memory_formats.md,
Status Page; R192 for the values shown as none). -/

namespace Sys2Proof.Machine

/-- The layout state code: NONE, LOADING or ACTIVE (R169). -/
def LayoutUnit.stateCode (l : LayoutUnit) : Nat :=
  if l.load.isSome then 1 else if l.inForce.isSome then 2 else 0

/-- A set of Bools as a byte, bit 0 first. -/
def bitsByte (bs : List Bool) : Nat := bs.foldr (fun b n => bitOf b + 2 * n) 0

/-- A time of day as a word (12: byte 0 seconds, byte 1 minutes, byte 2 hours, byte 3 bit 0 set). -/
def TimeOfDay.word (t : TimeOfDay) : Word := fromBytes t.seconds t.minutes t.hours (bitOf t.isSet)

/-- How many slots are in a state. -/
def Mailbox.countSlots (m : Mailbox) (st : ReturnState) : Nat := (m.slots.filter (· == st)).length

/-- The current destination slot byte: FFh for none (R192). -/
def Jobs.shownDest (j : Jobs) : Nat := (j.currentDest.map (·.1)).getD 255

/-- The head address of a job: that of its first member. -/
def Job.headAddr (j : Job) : Nat := (j.members.head?.map (·.addr)).getD 0

/-- How many destinations are FINAL (R139). -/
def Jobs.finalCount (j : Jobs) : Nat := (j.progress.filter (·.progress == .final)).length

/-- Words 0 to 9: the clock, the layout and the Gate. -/
def State.statusLow (s : State) : List Word :=
  [ s.clock.time.word
  , fromField s.clock.uptime
  , fromBytes s.layout.stateCode (codeOr LoadResult.code s.layout.lastResult)
      (codeOr LoadReason.code s.layout.lastReason) (bitOf s.layout.reload)
  , (s.layout.inForce.map (·.generation)).getD 0
  , s.layout.generationRead
  , fromHalves s.layout.refusals s.layout.partials
  , fromHalves s.layout.parities s.layout.ranges
  , fromHalfBytes (s.layout.lastRefusedWord.getD 65535)
      (codeOr CaptureRefusal.code s.layout.lastRefusalKind) 0
  , fromHalfBytes s.gate.dropped (codeOr DropReason.code s.gate.droppedReason) 0
  , fromField s.gate.droppedAddr ]

/-- Words 10 to 19: the drum, the carriage, the scanner and the attempt's counts. -/
def State.statusDrive (s : State) : List Word :=
  [ fromBytes s.drum.state.code (codeOr Speed.code s.drum.target) s.drum.retryCount
      (bitsByte [s.drum.flagStall, s.drum.flagSlip, s.drum.flagOvercurrent, s.drum.brake,
        s.drum.state == .latched && s.drum.spinRequest.isSome])
  , fromHalves s.drum.measured s.drum.duty
  , fromHalves s.drum.stallEvents s.drum.slipEvents
  , fromHalves s.drum.overcurrentEvents s.drum.turnErrors
  , fromBytesHalf s.carriage.state.code (bitOf s.carriage.homed) s.carriage.position
  , fromBytes s.scan.state.code (bitOf s.scan.lamp) s.scan.current (bitOf s.line.pairDefaulted)
  , fromHalves s.scan.nextLine s.scan.holds
  , fromHalves s.scan.stalls s.scan.overruns
  , match s.scan.lastPair with
    | some (b, w) => fromHalves b w
    | none => fromHalves 65535 65535
  , fromHalves s.line.hWhite s.line.hBlack ]

/-- Words 20 to 25: the ring and the line. While no tone has been recognised, the state in which the last tone
came is shown as 0 (DESIGN CHOICE, log entry 41). -/
def State.statusLine (s : State) : List Word :=
  [ fromBytesHalf s.ring.writeIndex s.ring.sendFrame s.ring.sendLine
  , fromBytes s.ring.repeatQueue.length (s.ring.latch.getD 255)
      (codeOr RepeatRefusal.code s.ring.lastRefusal) 0
  , fromHalves s.ring.gaps s.ring.starves
  , fromHalves s.ring.grants s.ring.refusals
  , fromBytes s.line.state.code s.line.dialCursor (bitOf s.line.loopShown) s.line.turnCount
  , fromBytes (codeOr (fun p => Tone.code p.1) s.line.lastTone)
      (codeOr (fun p => LineState.code p.2) s.line.lastTone)
      (codeOr AttemptOutcome.code s.line.lastOutcome) s.line.lastDetail.code ]

/-- Words 26 to 31: the Job Controller. A due time above 4,294,967,295 is shown as that value (R192; DESIGN
CHOICE, log entry 39). -/
def State.statusJobs (s : State) : List Word :=
  [ fromBytes s.jobs.state.code (codeOr Cause.code s.jobs.endCause) s.jobs.queue.length
      (s.jobs.mount.code + 4 * bitOf s.jobs.clampClosed)
  , fromField ((s.jobs.current.map Job.headAddr).getD 0)
  , fromHalfBytes s.jobs.refusals (codeOr RefusalReason.code s.jobs.lastRefusal) 0
  , fromBytes s.jobs.shownDest ((s.jobs.currentDest.map (·.2)).getD 0) s.jobs.finalCount
      s.jobs.progress.length
  , fromBytesHalf s.jobs.retryList.length (bitOf s.jobs.lineAtRest) s.jobs.directoryFaults
  , fromField ((s.jobs.retryList.head?.map (·.2)).getD 0) ]

/-- Words 32 to 37: the slips and the mailboxes. -/
def State.statusMail (s : State) : List Word :=
  [ fromBytes s.slips.printer.code s.slips.queue.length s.slips.logIndex 0
  , fromHalves s.slips.lastComposed s.slips.lastPrinted
  , fromHalves s.slips.unprinted s.slips.reprints
  , fromHalves s.slips.lost s.slips.lastLogged
  , fromBytes s.mailbox.takeIndex (bitOf s.mailbox.take.isSome) s.mailbox.postIndex
      s.mailbox.backlog.length
  , fromBytes (s.mailbox.countSlots .full) (s.mailbox.countSlots .fullQuiet) (bitOf s.mailbox.attn)
      (bitOf s.mailbox.resetSeen) ]

/-- Words 0 to 37 of the Status Page. -/
def State.statusWords (s : State) : List Word :=
  s.statusLow ++ s.statusDrive ++ s.statusLine ++ s.statusJobs ++ s.statusMail

/-- Word w of the Status Page; words 38 to 63 are 0. -/
def State.statusWord (s : State) (w : Nat) : Word := s.statusWords.getD w 0

/-- All 64 words. -/
def State.statusPage (s : State) : List Word := s.statusWords ++ List.replicate 26 0

end Sys2Proof.Machine
end

