-- ==== Sys2Proof/Machine/Gate.lean ====
section
/-! DEFINITION. The Memory Gate (09_the_memory_path.md): guards, the posted-write buffer, read holds, the
watched windows, the memory port and its arbiter, the control requester and the Status Writer. -/

namespace Sys2Proof.Machine

/-! ## Guards (R157 to R159) -/

/-- An entry of the Guard List covers a word for a reason. -/
def Guard.covers (reason : DropReason) (a : Nat) (g : Guard) : Bool :=
  g.reason == reason && inWindow g.base g.length a

/-- The Guard List covers a word for a reason. -/
def Gate.listGuards (g : Gate) (reason : DropReason) (a : Nat) : Bool :=
  g.guards.any fun e => (e.map (Guard.covers reason a)).getD false

/-- The ring window check: while a job is current (R157). -/
def State.ringGuards (s : State) (a : Nat) : Bool :=
  match s.layout.inForce with
  | some l => s.jobs.current.isSome && inWindow l.ringBase (slotBytes * l.ringCount) a
  | none => false

/-- The history window check: bytes 48 to 63 of each Directory entry (R157). -/
def State.historyGuards (s : State) (a : Nat) : Bool :=
  match s.layout.inForce with
  | some l =>
    inWindow l.directoryBase (64 * l.directoryCount) a && decide (48 ≤ (a - l.directoryBase) % 64)
  | none => false

/-- A host write to the word is guarded for a reason. -/
def State.guardedFor (s : State) (a : Nat) (reason : DropReason) : Bool :=
  match reason with
  | .ring => s.ringGuards a
  | .history => s.historyGuards a
  | r => s.gate.listGuards r a

/-- The reasons in the order in which the first that applies is taken (R157). -/
def dropReasons : List DropReason := [.statusPage, .preview, .ring, .history, .tcb, .toneBank]

/-- Why a host write to a word is dropped, if it is guarded (R157). -/
def State.dropReason (s : State) (a : Nat) : Option DropReason := dropReasons.find? (s.guardedFor a)

/-- A write is dropped (R159). -/
def Gate.drop (a : Nat) (reason : DropReason) (g : Gate) : Gate :=
  { g with dropped := satInc g.dropped, droppedAddr := a, droppedReason := some reason }

/-- The acceptance of a host write: dropped, posted, or made the waiting write (R155, R158). -/
def State.acceptWrite (w : HostWrite) (s : State) : State :=
  match s.dropReason w.addr with
  | some reason => s.withGate (s.gate.drop w.addr reason)
  | none =>
    if s.gate.buffer.length < 2 then s.withGate { s.gate with buffer := s.gate.buffer ++ [w] }
    else s.withGate { s.gate with waiting := some w }

/-- The waiting write is accepted at the drain that makes room (R155). -/
def State.acceptWaiting (s : State) : State :=
  match s.gate.waiting with
  | some w => (s.withGate { s.gate with waiting := none }).acceptWrite w
  | none => s

/-- No host cycle is on the bus: it carries one at a time (R154, DEDUCED, log entry 24). -/
def Gate.busFree (g : Gate) : Bool := g.read.isNone && g.waiting.isNone

/-! ## Reads (R154, R160 to R162) -/

/-- The address lies in the Preview Window of the layout in force. -/
def State.inPreview (s : State) (a : Nat) : Bool :=
  match s.layout.inForce with
  | some l => inWindow l.previewBase slotBytes a
  | none => false

/-- The address is in the first word of the Preview Window (R75). -/
def State.previewFirst (s : State) (a : Nat) : Bool :=
  match s.layout.inForce with
  | some l => inWindow l.previewBase 4 a
  | none => false

/-- The word that a read touches: that of the latched slot for the Preview Window (R162). -/
def State.readTarget (s : State) (a : Nat) : Nat :=
  match s.layout.inForce, s.ring.latch with
  | some l, some n =>
    if s.inPreview a then wordAddr (l.slotAddr n + (a - l.previewBase)) else a
  | _, _ => a

/-- The word has a write pending in the posted-write buffer (R160). -/
def Gate.pendingAt (g : Gate) (a : Nat) : Bool := g.buffer.any (·.addr == a)

/-- The word touches a Line Ring slot that is FILLING (R161). -/
def State.fillingAt (s : State) (a : Nat) : Bool :=
  match s.layout.inForce with
  | some l =>
    (List.range s.ring.slots.length).any fun n =>
      (s.ring.slot n).state == .filling && inWindow (l.slotAddr n) slotBytes a
  | none => false

/-- A hold of a cause has its ground at a word. -/
def State.holds (s : State) (a : Nat) : HoldCause → Bool
  | .pendingWrite => s.gate.pendingAt a
  | .fillingSlot => s.fillingAt a

/-- The sorting of a read that touches a word (R154). -/
def State.sortRead (s : State) (a : Nat) : Option HoldCause :=
  if s.gate.pendingAt a then some .pendingWrite
  else if s.fillingAt a then some .fillingSlot
  else none

/-- The read as it is sorted now (R154). -/
def State.sorted (s : State) (r : HostRead) : HostRead :=
  let target := s.readTarget r.addr
  { addr := r.addr, target := target, held := s.sortRead target }

/-- A held read whose hold has ended is sorted again (R160, R161). -/
def State.resortRead (s : State) : State :=
  match s.gate.read with
  | some r =>
    match r.held with
    | some cause =>
      if s.holds r.target cause then s else s.withGate { s.gate with read := some (s.sorted r) }
    | none => s
  | none => s

/-- The preview latch as a first-word read sets it (R75). -/
def State.setLatch (s : State) : State :=
  s.withRing { s.ring with latch := s.ring.previewSlot s.scan.current }

/-- A host read is taken (R154, R162). -/
def State.takeRead (a : Nat) (s : State) : State :=
  let s := if s.previewFirst a then s.setLatch else s
  s.withGate { s.gate with read := some (s.sorted { addr := a, target := a, held := none }) }

/-! ## Watched windows (R156) -/

/-- The watched Send entry at a word whose action byte is written. -/
def Layout.sendWatch (l : Layout) (w : HostWrite) : Option Nat :=
  if inWindow l.sendBase (8 * l.sendCount) w.addr && (w.addr - l.sendBase) % 8 == 4 && w.be.getLsbD 0 then
    some ((w.addr - l.sendBase) / 8)
  else none

/-- The watched Return entry at a word whose action byte is written. -/
def Layout.returnWatch (l : Layout) (w : HostWrite) : Option Nat :=
  if inWindow l.returnBase (16 * l.returnCount) w.addr && (w.addr - l.returnBase) % 16 == 12
      && w.be.getLsbD 0 then
    some ((w.addr - l.returnBase) / 16)
  else none

/-- The watched Profile Area word at a word. -/
def Layout.profileWatch (l : Layout) (w : HostWrite) : Option Nat :=
  if inWindow l.profileBase 1024 w.addr then some ((w.addr - l.profileBase) / 4) else none

/-- What a drained write hands to the Mailbox Unit. -/
def mailboxHandOns (l : Option Layout) (w : HostWrite) : List MailboxWrite :=
  match l with
  | none => []
  | some l =>
    ((l.sendWatch w).map MailboxWrite.send).toList
      ++ ((l.returnWatch w).map fun n => MailboxWrite.ret n (byteOf w.data 0)).toList

/-- What a drained write hands to Layout and Profile. -/
def layoutHandOns (l : Option Layout) (w : HostWrite) : List LayoutWrite :=
  (if w.addr = generationAddr then [.generation] else [])
    ++ ((l.bind fun l => l.profileWatch w).map fun n => LayoutWrite.profile n w.data w.be).toList

/-- The write that a posted host write makes (R155). -/
def HostWrite.access (w : HostWrite) : Access := { addr := w.addr, be := w.be, data := w.data }

/-- The head write drains: it reaches memory, is examined, and makes room (R155, R156). -/
def State.drain (w : HostWrite) (rest : List HostWrite) (s : State) : State :=
  ({ s with
      mem := s.mem.write w.access
      gate :=
        { s.gate with
          port := none, buffer := rest
          toMailbox := s.gate.toMailbox ++ mailboxHandOns s.layout.inForce w
          toLayout := s.gate.toLayout ++ layoutHandOns s.layout.inForce w } }).acceptWaiting

/-! ## The control requester (R165) -/

/-- Issues an operation: it joins the list as the newest. -/
def Gate.issue (op : Op) (g : Gate) : Gate := { g with ops := g.ops ++ [op] }

/-- Issues an operation. -/
def State.issue (kind : OpKind) (todo : List OpWord) (s : State) : State :=
  s.withGate (s.gate.issue { kind, todo, got := [] })

/-- Issues operations, one after another. -/
def State.issueAll (ops : List (OpKind × List OpWord)) (s : State) : State :=
  ops.foldl (fun s op => s.issue op.1 op.2) s

/-- Reads of consecutive words. -/
def reads (addr n : Nat) : List OpWord := (addrsFrom addr n).map .rd

/-- The issuer of an operation (R165). -/
def OpKind.issuer : OpKind → Issuer
  | .sendRead _ | .memberRead | .freeWrite | .posting _ _ => .mailboxUnit
  | .directoryRead _ | .historyRead _ _ _ _ | .historyWrite | .memberResults | .results
  | .abortedResults _ => .jobController
  | .blockRead | .profileRead => .layoutAndProfile

/-- Takes an operation ahead of at most `n` operations of other issuers; the list is newest first. -/
def passOthers (x : Op) : Nat → List Op → List Op
  | n + 1, y :: l => if y.kind.issuer = x.kind.issuer then x :: y :: l else y :: passOthers x n l
  | _, l => x :: l

/-- Operations issued at one moment by different issuers enter the list in either order (R165): the last
one issued enters it ahead of `ahead` of those that another issuer has issued at the same moment, the ones
after the first `base` of the list. -/
def slideLast (base ahead : Nat) (ops : List Op) : List Op :=
  match (ops.drop base).reverse with
  | [] => ops
  | x :: l => ops.take base ++ (passOthers x ahead l).reverse

/-- The same on the State. -/
def State.slideLast (base ahead : Nat) (s : State) : State :=
  s.withGate { s.gate with ops := Machine.slideLast base ahead s.gate.ops }

/-- The operation whose word is in progress on the port. -/
def Gate.controlOp (g : Gate) : Option Op :=
  match g.port, g.ops with
  | some .control, op :: _ => some op
  | _, _ => none

/-- The word in progress is the last of its operation. -/
def Op.atLast (op : Op) : Bool := op.todo.length == 1

/-- The completion of the word in progress has a command of its own: the last word of the operations with
a result, and every word of a load's Profile Area read. -/
def Op.ownResult (op : Op) : Bool :=
  match op.kind with
  | .profileRead => true
  | .freeWrite | .historyWrite | .memberResults => false
  | .sendRead _ | .memberRead | .posting _ _ | .directoryRead _ | .historyRead _ _ _ _ | .results
  | .abortedResults _ | .blockRead => op.atLast

/-- The word in progress completes: a read's word joins those read so far. -/
def Op.wordDone (mem : Memory) (op : Op) : Op :=
  match op.todo with
  | [] => op
  | .rd a :: more => { op with todo := more, got := op.got ++ [mem.word a] }
  | .wr _ :: more => { op with todo := more }

/-- Memory after the word in progress. -/
def Op.memDone (mem : Memory) (op : Op) : Memory :=
  match op.todo with
  | .wr x :: _ => mem.write x
  | _ => mem

/-- An operation put back at the head of the list while it has words to do. -/
def requeue (op : Op) (rest : List Op) : List Op := if op.todo = [] then rest else op :: rest

/-- The control requester's word in progress completes, and the port is free; an operation with no more
words leaves the list. -/
def State.controlStep (s : State) : State :=
  match s.gate.ops with
  | op :: rest =>
    { s with
      mem := op.memDone s.mem
      gate := { s.gate with port := none, ops := requeue (op.wordDone s.mem) rest } }
  | [] => s.withGate { s.gate with port := none }

/-- The words that the operation in progress has read once its word in progress is done. -/
def State.wordsRead (s : State) : List Word :=
  match s.gate.ops with
  | op :: _ => (op.wordDone s.mem).got
  | [] => []

/-! ## The Status Writer (R166) -/

/-- The values that have changed over a step mark their words, while a layout is in force. -/
def State.markChanged (old new : State) : State :=
  if new.layout.inForce.isSome then
    new.withGate
      { new.gate with
        marks := List.zipWith (· || ·) new.gate.marks (List.zipWith (· != ·) old.statusPage new.statusPage) }
  else new

/-- The lowest-numbered marked word of the page's 64. -/
def Gate.lowestMark (g : Gate) : Option Nat := (g.marks.take 64).findIdx? (· == true)

/-- The Status Writer's grant: the lowest marked word is written whole and its mark cleared; the port is
free again (DESIGN CHOICE, log entry 10). -/
def State.writeStatus (l : Layout) (w : Nat) (s : State) : State :=
  { s with
    mem := s.mem.write (wholeWord (l.statusBase + 4 * w) (s.statusWord w))
    gate := { s.gate with marks := s.gate.marks.set w false } }

/-! ## The send prefetch's request (R66) -/

/-- The next position of the turn due to be sent, k slots to an interval. -/
def State.nextPosition (s : State) (k : Nat) : Nat :=
  match s.drum.interval with
  | some n => if n < 16 then 0 else (n - 16) * k + s.line.slotsFallen
  | none => 0

/-- The word that the send prefetch asks the port for, if it asks: its pointer raised to the word of the
next position due. -/
def State.prefetchWord (s : State) : Option PortWord :=
  match s.ring.picked, s.line.call with
  | some n, some call =>
    let word := max s.ring.fetch (s.nextPosition call.k / 4)
    if word < 60 * call.k ∧ s.ring.buffer.length < 16 then
      some (.prefetch (s.levelAddr n + 4 * word) word true)
    else none
  | _, _ => none

/-! ## The arbiter (R163, R164) -/

/-- The scan writer's request. -/
def State.scanRequest (s : State) : Option PortWord := s.scan.nextWord s.slotAddr

/-- The host's request: an unheld read, else the head write of the buffer. -/
def Gate.hostRequest (g : Gate) : Option PortWord :=
  match g.read with
  | some r => if r.held = none then some .hostRead else if g.buffer = [] then none else some .hostWrite
  | none => if g.buffer = [] then none else some .hostWrite

/-- A request that stands only under a condition. -/
def whenAsked (c : Bool) (r : Option PortWord) : Option PortWord := if c then r else none

/-- The requests by rank, 1 to 7 (R163). -/
def State.requests (s : State) : List (Option PortWord) :=
  [ whenAsked (decide (12 ≤ s.scan.closedEntries)) s.scanRequest
  , whenAsked (decide (s.ring.buffer.length ≤ 4)) s.prefetchWord
  , s.gate.hostRequest
  , s.scanRequest
  , s.prefetchWord
  , whenAsked (!s.gate.ops.isEmpty) (some .control)
  , whenAsked s.slips.nextLogWord.isSome (some .slipLog) ]

/-- The word granted the port: that of the first requester that asks (R163). -/
def State.grantee (s : State) : Option PortWord := (s.requests.find? Option.isSome).bind id

/-- The arbiter, when the port is free: a grant, the Status Writer's last of all (R163, R166). No word
begins while RESET is asserted (R168). -/
def State.arbitrate (s : State) : State :=
  if s.inReset || s.gate.port.isSome then s
  else
    match s.grantee with
    | some w => s.withGate { s.gate with port := some w }
    | none =>
      match s.layout.inForce, s.gate.lowestMark with
      | some l, some w => s.writeStatus l w
      | _, _ => s

/-! ## Every step's end -/

/-- What stands at the end of every step: a held read is sorted again, changed values mark their Status
Page words, and a free port is granted. A request that the command itself has begun stands in that grant (R163;
DESIGN CHOICE, log entry 40). -/
def finish (old new : State) : State := (old.markChanged new.resortRead).arbitrate

/-- The outcome of a command that acts only while RESET is not asserted (DEDUCED, log entry 3). -/
def live (f : State → State) (s : State) : Host.Outcome State Fault Refusal :=
  .next (if s.inReset then s else finish s (f s))

end Sys2Proof.Machine
end

