-- ==== Sys2Proof/Machine/Line.lean ====
section
/-! DEFINITION. The Line Unit (05_calls.md) up to, but without, the end of an attempt: seizing, dialing,
the loop watch, the tone monitor, the tone requests, the turns it sends and what it writes into the Attempt
Record. -/

namespace Sys2Proof.Machine

/-! ## States and requests -/

/-- PHASING, PICTURE or SEPARATOR: the drum is watched (R88). -/
def LineState.sending : LineState → Bool
  | .phasing | .picture | .separator => true
  | _ => false

/-- SEIZE_WAIT, DIALING or ANSWER_WAIT: an attempt that no receiver has answered. -/
def LineState.unanswered : LineState → Bool
  | .seizeWait | .dialing | .answerWait => true
  | _ => false

/-- START_TONE, READY_WAIT, PHASING, PICTURE or SEPARATOR. -/
def LineState.answered : LineState → Bool
  | .startTone | .readyWait => true
  | st => st.sending

/-- An attempt is in progress in the Line Unit (R82, R93). -/
def LineState.attempting (st : LineState) : Bool := st.unanswered || st.answered

/-- Applies `f` to the Line Unit. -/
def State.mapLine (f : Line → Line) (s : State) : State := s.withLine (f s.line)

/-- A tone request (R53). -/
def Line.tone (c h : Nat) (l : Line) : Line := { l with carrier := l.carrier.toneRequest l.relay c h }

/-- A tone request at the present crystal count. -/
def State.tone (h : Nat) (s : State) : State := s.mapLine (·.tone s.crystal h)

/-- The snapshot in force; reset's profile before the first CALL. -/
def Line.snap (l : Line) : LineProfile := l.snapshot.getD .default

/-- The frame list of the CALL. -/
def Line.frames (l : Line) : List Frame := (l.call.map (·.frames)).getD []

/-- LINE, the seize relay: open during a dial break (R80). -/
def Line.lineAsserted (l : Line) : Bool := l.relay && l.dialPhase != some .brk

/-! ## The CALL and seizure (R78, R79) -/

/-- The snapshot of a CALL, its pair and the fixed tones' half-periods (R50, R52, R78). -/
def Line.takeSnapshot (p : LineProfile) (l : Line) : Line :=
  let (b, w, defaulted) := frequencyPair p.fBlack p.fWhite
  { l with
    snapshot := some p, fBlack := b, fWhite := w, pairDefaulted := defaulted
    hBlack := fixedHalf b, hWhite := fixedHalf w, hStart := fixedHalf p.fStart, hStop := fixedHalf p.fStop }

/-- Seizure (R79, R82, R83, R84). -/
def Line.seize (t : Nat) (l : Line) : Line :=
  { l with
    state := .seizeWait, relay := true, sendLamp := true, active := true
    seizeTimer := some (t + 1000 * l.snap.seizeWait)
    loopTimer := if l.loop then none else some t
    toneDue := none
    monitor := { Monitor.stopped with windowEnd := some (t + 40000) } }

/-- The Line Unit's part of the Attempt Record at a CALL (R78). -/
def AttemptRecord.open (frames : List Frame) (r : AttemptRecord) : AttemptRecord :=
  { r with
    frames := frames.map fun _ => { firstSent := 0, short := 0, sig := 1, check := .notCompared, ended := false }
    repeatsServed := 0, repeatsRefused := 0, starves := 0, gaps := 0, answered := false
    outcome := none, detail := .none, endingState := .onHook, endUptime := 0 }

/-- A CALL: taken in ON_HOOK, ignored otherwise (R78). -/
def State.call (info : CallInfo) (s : State) : State :=
  if s.line.state = .onHook then
    { s with
      line := (({ s.line with call := some info, grantsUsed := 0 }).takeSnapshot s.profile.line).seize s.now
      record := s.record.open info.frames }
  else s

/-! ## Dialing (R80, R81) -/

/-- The breaks of a digit: 10 for the digit 0. -/
def digitBreaks (d : Nat) : Nat := if d = 0 then 10 else d

/-- A dial break begins at `t`; it stops the loop-loss timer (R81, R82). -/
def Line.beginBreak (t left : Nat) (l : Line) : Line :=
  { l with
    dialPhase := some .brk, breaksLeft := left, dialTimer := some (t + 1000 * l.snap.breakMs)
    loopTimer := none }

/-- A make of `ms` begins at `t`. -/
def Line.beginMake (t ms : Nat) (l : Line) : Line :=
  { l with dialPhase := some .mk, dialTimer := some (t + 1000 * ms) }

/-- The dial string of the CALL. -/
def Line.dial (l : Line) : List DialSymbol := (l.call.map (·.dial)).getD []

/-- The symbol at the dial cursor begins; after the last, ANSWER_WAIT is entered (R80, R81, R85). -/
def Line.beginSymbol (t : Nat) (l : Line) : Line :=
  match l.dial[l.dialCursor]? with
  | some (.digit d) => l.beginBreak t (digitBreaks d - 1)
  | some .pause => { l with breaksLeft := 0 }.beginMake t 2000
  | none =>
    { l with
      carrier := l.carrier.stop, dialPhase := none, dialTimer := none, breaksLeft := 0
      state := .answerWait, answerTimer := some (t + 1000000 * l.snap.answerTimeout) }

/-- DIALING is entered at symbol 0 (R79, R80). -/
def Line.enterDialing (t : Nat) (l : Line) : Line :=
  { l with
    state := .dialing, seizeTimer := none, dialCursor := 0
    carrier := l.carrier.pulseRequest }.beginSymbol t

/-- The end of a dial break (R81, R82): `t` is when the break was due to end. -/
def Line.endBreak (t : Nat) (l : Line) : Line :=
  { l with loopTimer := if l.loop then none else some t }.beginMake t
    (if 0 < l.breaksLeft then l.snap.makeMs else 700)

/-- The end of a make (R81): the next break, or the symbol is done. -/
def Line.endMake (t : Nat) (l : Line) : Line :=
  if 0 < l.breaksLeft then l.beginBreak t (l.breaksLeft - 1)
  else { l with dialCursor := l.dialCursor + 1 }.beginSymbol t

/-! ## The loop watch (R82, R98) -/

/-- LOOP changes to a level. -/
def Line.loopChange (t : Nat) (present : Bool) (l : Line) : Line :=
  { l with
    loop := present
    loopShown := if l.relay then present else l.loopShown
    loopTimer :=
      if l.relay && l.dialPhase != some .brk then (if present then none else some t) else l.loopTimer }

/-- The loop-loss timer has reached the snapshot's loop loss. -/
def Line.loopLost (t : Nat) (l : Line) : Bool := l.relay && hasRun l.loopTimer (1000 * l.snap.loopLoss) t

/-! ## The tone monitor (R83, R84) -/

/-- The band of a window's crossings. -/
def bandOf (crossings : Nat) : Option Tone :=
  if 80 ≤ crossings ∧ crossings ≤ 88 then some .ready
  else if 64 ≤ crossings ∧ crossings ≤ 72 then some .notReady
  else if 48 ≤ crossings ∧ crossings ≤ 56 then some .repeatLines
  else if 32 ≤ crossings ∧ crossings ≤ 40 then some .halt
  else none

/-- The end of a window (R83, R84): the run goes on, or a new run starts. -/
def Monitor.windowDone (crossings : Nat) (m : Monitor) : Monitor :=
  let band := bandOf crossings
  let m := { m with windowEnd := m.windowEnd.map (· + 40000) }
  if band.isSome ∧ band = m.band then { m with count := m.count + 1 }
  else { m with band := band, count := if band.isSome then 1 else 0, recognised := false }

/-- The tone recognised at the end of a window: the count has reached W and the flag is clear (R84). -/
def Monitor.recognises (windows : Nat) (m : Monitor) : Option Tone :=
  if windows ≤ m.count ∧ m.recognised = false then m.band else none

/-- The end of a window: a recognition sets the flag, and waits for the Line Unit to take it (R83, R84). -/
def Line.windowDone (crossings : Nat) (l : Line) : Line :=
  let m := l.monitor.windowDone crossings
  match m.recognises l.snap.windows with
  | some tone => { l with monitor := { m with recognised := true }, toneDue := some tone }
  | none => { l with monitor := m }

/-- The Line Unit takes a recognition, and shows it with the state it is in (R84). -/
def Line.noteTone (tone : Tone) (l : Line) : Line := { l with toneDue := none, lastTone := some (tone, l.state) }

/-! ## Start tone and readiness (R86, R87) -/

/-- START_TONE is entered (R85, R86). -/
def Line.enterStartTone (c t : Nat) (l : Line) : Line :=
  { l with
    state := .startTone, answerTimer := none
    startToneTimer := some (t + 1000000 * l.snap.startToneTime) }.tone c l.hStart

/-- READY_WAIT is entered (R86). -/
def Line.enterReadyWait (t : Nat) (l : Line) : Line :=
  { l with
    state := .readyWait, startToneTimer := none, readyTimer := some (t + 1000000 * l.snap.readyWait) }

/-- The start position of frame 0 of the CALL. -/
def Line.frameStart (l : Line) : Option Nat := l.frames.head?.map (·.start)

/-- The carriage is AT_FRAME at frame 0's start. -/
def State.carriageReady (s : State) : Bool :=
  s.carriage.state == .atFrame && some s.carriage.position == s.line.frameStart

/-- All three conditions of readiness (R87). -/
def State.readyToPhase (s : State) : Bool :=
  s.drum.state.ready && s.carriageReady && s.scan.state == .ready

/-- The outcome of a ready wait that has run out (R87). -/
def State.notReadyOutcome (s : State) : AttemptOutcome × Detail :=
  if !s.drum.state.ready then (.drumFault, .drumNotReady)
  else if !s.carriageReady then (.carriageFault, .carriageNotReady)
  else if s.scan.state ≠ .ready then (.carriageFault, .scannerNotReady)
  else (.drumFault, .noIndex)

/-! ## The ends of the line (R95, R96) -/

/-- No timer of the states before STOP_TONE runs. -/
def Line.stopTimers (l : Line) : Line :=
  { l with
    seizeTimer := none, dialTimer := none, dialPhase := none, breaksLeft := 0, answerTimer := none
    startToneTimer := none, readyTimer := none }

/-- STOP_TONE is entered (R95). -/
def Line.enterStopTone (c t : Nat) (l : Line) : Line :=
  { l.stopTimers with
    state := .stopTone, stopToneTimer := some (t + 1000000 * l.snap.stopToneTime) }.tone c l.hStop

/-- The relay opens (R96). -/
def Line.openRelay (t : Nat) (l : Line) : Line :=
  { l.stopTimers with
    state := .releaseGuard, relay := false, sendLamp := false, carrier := l.carrier.stop
    monitor := .stopped, loopTimer := none, stopToneTimer := none
    guardTimer := some (t + 1000 * l.snap.releaseGuard) }

/-- The release guard has run out (R96). -/
def Line.hangUp (l : Line) : Line := { l with state := .onHook, guardTimer := none }

/-! ## The Attempt Record's frames (R71, R72, R94) -/

/-- Applies `f` to the record's entry of a frame. -/
def AttemptRecord.mapFrame (f : Nat) (g : FrameEntry → FrameEntry) (r : AttemptRecord) : AttemptRecord :=
  { r with frames := updateAt g r.frames f }

/-- The line count of frame f of the CALL. -/
def Line.lineCount (l : Line) (f : Nat) : Nat := (l.frames[f]?.map (·.count)).getD 0

/-- A line is first-sent (R63). -/
def FrameEntry.lineSent (e : FrameEntry) : FrameEntry := { e with firstSent := e.firstSent + 1 }

/-- The comparison of the two signatures of a frame (R72). -/
def compareSigs (scan send : Sig) : SigCheck := if scan = send then .isMatch else .mismatch

/-- A frame ends at a frame end: its signatures are compared (R71, R72). -/
def FrameEntry.endFull (count : Nat) (send scan : Sig) (e : FrameEntry) : FrameEntry :=
  { e with short := count - e.firstSent, sig := send, check := compareSigs scan send, ended := true }

/-- A frame that has not ended is closed by the attempt's end: cut short with the send signature, or
never begun (R71, R94). -/
def FrameEntry.endCut (count : Nat) (send : Option Sig) (e : FrameEntry) : FrameEntry :=
  if e.ended then e
  else { e with short := count - e.firstSent, sig := send.getD 1, check := .notCompared }

/-- The frame whose sending the attempt's end cuts: the send position's, in PICTURE (R94). -/
def State.cutFrame (s : State) : Option Nat :=
  if s.line.state = .picture then some s.ring.sendFrame else none

/-- Steps 1 and 2 of an attempt's end (R94). -/
def State.closedFrames (s : State) : List FrameEntry :=
  s.record.frames.mapIdx fun f e =>
    e.endCut (s.line.lineCount f) (if s.cutFrame = some f then some s.line.sendSig else none)

/-- The record at an attempt's end (R94, steps 1 to 3). The ending state is the state the line is in at that
point, which an INDEX that first moves the line has just entered (DESIGN CHOICE, log entry 36). -/
def State.closedRecord (o : AttemptOutcome) (d : Detail) (s : State) : AttemptRecord :=
  { s.record with
    frames := s.closedFrames, outcome := some o, detail := d, endingState := s.line.state
    endUptime := s.clock.uptime }

/-! ## Turns (R63, R89 to R92) -/

/-- A prefetch read in progress on the port belongs to no slot any more (R66). -/
def PortWord.dropPrefetch : PortWord → PortWord
  | .prefetch a w _ => .prefetch a w false
  | w => w

/-- The prefetch read on the port, if any, is to be discarded when it arrives (R66). -/
def Gate.dropPrefetch (g : Gate) : Gate := { g with port := g.port.map PortWord.dropPrefetch }

/-- The Line Unit at every INDEX: the send of the turn just ended is closed, and the prefetch buffer is
emptied (R63, R66, R67). -/
def State.closeTurn (s : State) : State :=
  { s with
    record :=
      if s.ring.picked.isSome && s.ring.firstSend then s.record.mapFrame s.ring.sendFrame FrameEntry.lineSent
      else s.record
    ring := s.ring.closeSend.emptyBuffer
    gate := s.gate.dropPrefetch
    line := { s.line with lastLevel := 255 } }

/-- A picture turn sends a slot (R64, R90). -/
def State.sendSlot (n : Nat) (first : Bool) (s : State) : State :=
  (s.withRing (s.ring.startSend n first)).tone s.line.hWhite

/-- A gap turn (R64, R90). -/
def State.gapTurn (s : State) : State :=
  { s with
    ring := { s.ring with gaps := satInc s.ring.gaps }
    record := { s.record with gaps := satInc s.record.gaps } }.tone s.line.hWhite

/-- A frame's sending ends at a frame end (R64, R71, R72). -/
def State.endSending (d : FrameDone) (s : State) : State :=
  s.withRecord
    (s.record.mapFrame s.ring.sendFrame
      (FrameEntry.endFull (s.line.lineCount s.ring.sendFrame) s.line.sendSig d.sig))

/-- The send position's frame is the last of the attempt. -/
def State.lastFrame (s : State) : Bool := decide (s.line.frames.length ≤ s.ring.sendFrame + 1)

/-- PICTURE begins, or resumes, and the frame's send signature with it (R57, R89, R92). -/
def Line.enterPicture (l : Line) : Line := { l with state := .picture, sendSig := 1 }

/-- A phasing turn is sent: black from its INDEX, and scan-start at turn P − D (R89). -/
def State.phasingTurn (s : State) : State :=
  let s' := s.tone s.line.hBlack
  match s.line.call with
  | some call => if s.line.turnCount + call.delay = call.phasing then s'.scanStart else s'
  | none => s'

/-- PHASING begins at an INDEX in READY_WAIT (R87, R89). -/
def State.enterPhasing (s : State) : State :=
  (s.mapLine fun l => { l with state := .phasing, readyTimer := none, turnCount := 0 }).phasingTurn

/-- The phasing turns of the CALL. -/
def Line.phasingTurns (l : Line) : Nat := (l.call.map (·.phasing)).getD 0

/-! ## Slot events (R67, R90) -/

/-- The level of position j: that of the buffer, else the level before it, with a starve (R67). -/
def State.sendLevelOf (j : Nat) (s : State) : Nat × Bool :=
  match s.ring.bufferedLevel j with
  | some y => (y, false)
  | none => (if j = 0 then 255 else s.line.lastLevel, true)

/-- A starve is counted (R67). -/
def State.countStarve (s : State) : State :=
  { s with
    ring := { s.ring with starves := satInc s.ring.starves }
    record := { s.record with starves := satInc s.record.starves } }

/-- A level is given: its half-period is requested, and a first send feeds the signature (R51, R57). -/
def Line.giveLevel (c y : Nat) (first : Bool) (l : Line) : Line :=
  { l with lastLevel := y, sendSig := if first then sigFeed l.sendSig y else l.sendSig }.tone c
    (pictureHalf l.fBlack l.fWhite y)

/-- The sender's part of slot event j: in a picture turn with a picked slot (R67, R90). -/
def State.sendSlotEvent (j : Nat) (s : State) : State :=
  if s.line.state = .picture ∧ s.ring.picked.isSome then
    let s := s.withRing (s.ring.discardBelow (j / 4))
    let (y, starved) := s.sendLevelOf j
    (if starved then s.countStarve else s).mapLine (·.giveLevel s.crystal y s.ring.firstSend)
  else s

end Sys2Proof.Machine
end

