-- ==== Sys2Proof/Machine/Mail.lean ====
section
/-! DEFINITION. The Mailbox Unit's operations (11_mailboxes.md): the Noted Set, the take, the Return slot
table, postings, the Completion Backlog and ATTN. -/

namespace Sys2Proof.Machine

/-- The layout state is ACTIVE (R169). -/
def LayoutUnit.active (l : LayoutUnit) : Bool := l.inForce.isSome && l.load.isNone

/-! ## The Return side (R185 to R188) -/

/-- ATTN is asserted exactly when some slot is FULL (R188). -/
def Mailbox.driveAttn (m : Mailbox) : Mailbox := { m with attn := m.slots.any (· == .full) }

/-- Puts Return slot n into a state. -/
def Mailbox.setSlot (n : Nat) (st : ReturnState) (m : Mailbox) : Mailbox :=
  { m with slots := m.slots.set n st }.driveAttn

/-- The slot at the post index is FREE. -/
def Mailbox.postFree (m : Mailbox) : Bool := m.slots[m.postIndex]? == some ReturnState.free

/-- The last word of a posting: the action byte and the flags byte (12, Return entry; R185, R188). -/
def Completion.lastWord (resetSeen : Bool) (c : Completion) : Word :=
  fromBytes (if c.quiet then returnFullQuiet else returnFull) (bitOf resetSeen + 2 * bitOf c.chainEnd) 0 0

/-- The four words of a posting (12, Return entry). -/
def Completion.words (resetSeen : Bool) (c : Completion) : List Word :=
  [ BitVec.ofNat 32 c.addr
  , fromBytes c.status.code (codeOr RefusalReason.code c.reason) c.ok c.failed
  , 0
  , c.lastWord resetSeen ]

/-- The address of Return entry n of the layout in force. -/
def State.returnAddr (s : State) (n : Nat) : Nat := (s.layout.inForce.map fun l => l.returnBase + 16 * n).getD 0

/-- A posting begins into the slot at the post index (R185, R188). -/
def State.post (c : Completion) (s : State) : State :=
  let n := s.mailbox.postIndex
  let words := c.words s.mailbox.resetSeen
  (s.withMailbox
    { s.mailbox.setSlot n .posting with
      postIndex := ringNext n s.mailbox.slots.length, resetSeen := false }).issue
    (.posting (some n) c.quiet) ((wordsFrom (s.returnAddr n) words).map .wr)

/-- A completion handed to the Return side: posted at once, or it joins the Backlog (R185). -/
def State.handOn (s : State) (c : Completion) : State :=
  if s.mailbox.backlog = [] ∧ s.mailbox.postFree then s.post c
  else s.withMailbox { s.mailbox with backlog := s.mailbox.backlog ++ [c] }

/-- The oldest completions of the Backlog are posted while the slot at the post index is FREE (R186). -/
def State.postBacklog : List Completion → State → State
  | [], s => s.withMailbox { s.mailbox with backlog := [] }
  | c :: cs, s =>
    if s.mailbox.postFree then State.postBacklog cs (s.post c)
    else s.withMailbox { s.mailbox with backlog := c :: cs }

/-- A host write has reached a Return entry's action byte (R186): a FREE frees a full slot. -/
def Mailbox.hostFree (n : Nat) (action : Byte) (m : Mailbox) : Mailbox :=
  match m.slots[n]? with
  | some .full | some .fullQuiet => if action.toNat = returnFree then m.setSlot n .free else m
  | _ => m

/-- The slot of a posting that has reached memory whole (R185, R188). -/
def postedState (quiet : Bool) : ReturnState := if quiet then .fullQuiet else .full

/-- Watched writes to slot n that drained before its posting's last word find the slot POSTING (R186). -/
def Gate.forgetReturns (n : Nat) (g : Gate) : Gate :=
  { g with toMailbox := g.toMailbox.filter fun w =>
      match w with
      | .ret m _ => m != n
      | .send _ => true }

/-- A posting's last word has reached memory; one of an old layout enters no table (R185, R189). -/
def State.posted (slot : Option Nat) (quiet : Bool) (s : State) : State :=
  match slot with
  | some n =>
    { s with mailbox := s.mailbox.setSlot n (postedState quiet), gate := s.gate.forgetReturns n }
  | none => s

/-! ## The Send side (R182 to R184) -/

/-- The entry is noted (R182). -/
def Mailbox.note (e : Nat) (m : Mailbox) : Mailbox :=
  if m.noted.contains e then m else { m with noted := m.noted ++ [e] }

/-- The note is cleared (R182). -/
def Mailbox.unnote (e : Nat) (m : Mailbox) : Mailbox := { m with noted := m.noted.filter (· != e) }

/-- Watched writes to entry e that drained before its word 1 was read are covered by that read (R182). -/
def Gate.forgetSends (e : Nat) (g : Gate) : Gate :=
  { g with toMailbox := g.toMailbox.filter fun w =>
      match w with
      | .send m => m != e
      | .ret _ _ => true }

/-- A take may begin (R183). -/
def State.takeReady (s : State) : Bool :=
  s.mailbox.noted.contains s.mailbox.takeIndex && s.layout.active && s.mailbox.backlog.isEmpty
    && s.mailbox.take.isNone

/-- The address of Send entry e of the layout in force. -/
def State.sendAddr (s : State) (e : Nat) : Nat := (s.layout.inForce.map fun l => l.sendBase + 8 * e).getD 0

/-- A take begins: the entry's two words are read (R183). -/
def State.beginTake (s : State) : State :=
  let e := s.mailbox.takeIndex
  let addr := s.sendAddr e
  (s.withMailbox { s.mailbox with take := some { entryAddr := addr, stale := false, phase := .reading } }).issue
    (.sendRead e) (reads addr 2)

/-- The Send entry has been read: its note is cleared (R182, R183). A take that a new layout has overtaken
clears no note of the new Noted Set (R189). -/
def State.entryRead (e : Nat) (s : State) : State :=
  if (s.mailbox.take.map (·.stale)).getD true then s
  else { s with mailbox := s.mailbox.unnote e, gate := s.gate.forgetSends e }

/-- The phase of the take in progress becomes another. -/
def Mailbox.setPhase (p : TakePhase) (m : Mailbox) : Mailbox :=
  { m with take := m.take.map fun t => { t with phase := p } }

/-- The number of Send entries of the layout in force. -/
def State.sendCount (s : State) : Nat := (s.layout.inForce.map (·.sendCount)).getD 0

/-- The take ends: FREE is written to the action byte of the entry, and the take index moves on (R184,
R189). -/
def State.endTake (s : State) : State :=
  match s.mailbox.take with
  | none => s
  | some t =>
    (s.withMailbox
      { s.mailbox with
        take := none
        takeIndex :=
          if t.stale then s.mailbox.takeIndex else ringNext s.mailbox.takeIndex s.sendCount }).issue
      .freeWrite [.wr { addr := t.entryAddr + 4, be := 1, data := 0 }]

/-- The end of a take by an ABORT that has ended a job in `t` (R114, R184): the FREE enters the control
requester's list, whose first `base` operations are older, ahead of `ahead` of the Job Controller's operations
of this moment (R165). -/
def State.endTakeAmong (base ahead : Nat) (t : State) : State := t.endTake.slideLast base ahead

/-- The set-up for a new layout (R189). -/
def Mailbox.takeLayout (returnCount : Nat) (m : Mailbox) : Mailbox :=
  { m with
    takeIndex := 0, noted := [], slots := List.replicate returnCount .free, postIndex := 0, attn := false
    take := m.take.map fun t => { t with stale := true } }

/-- A posting under way completes into the old Return Mailbox (R189). -/
def Op.detach (op : Op) : Op :=
  match op.kind with
  | .posting _ quiet => { op with kind := .posting none quiet }
  | _ => op

end Sys2Proof.Machine
end

