-- ==== Sys2Proof/Machine/Jobs.lean ====
section
/-! DEFINITION. The Job Controller: the Job Queue and the current job
(06_transmission_control_blocks_and_the_job_queue.md), destinations, attempts and retries
(07_destinations_attempts_and_retries.md). -/

namespace Sys2Proof.Machine

/-- Applies `f` to the Job Controller. -/
def State.mapJobs (f : Jobs → Jobs) (s : State) : State := s.withJobs (f s.jobs)

/-! ## The Job Queue (R104, R106) -/

/-- The number of queued jobs with URGENT set; they stand at the head of the queue. -/
def urgentCount (q : List Job) : Nat := (q.filter (·.urgent)).length

/-- A job joins the queue (R106): an urgent one directly behind the last urgent job. -/
def queueJob (j : Job) (q : List Job) : List Job :=
  if j.urgent then q.take (urgentCount q) ++ j :: q.drop (urgentCount q) else q ++ [j]

/-- An address is that of a member of a queued job or of the current job (R104). -/
def Jobs.hasAddr (j : Jobs) (a : Nat) : Bool := j.queue.any (·.has a) || j.current.any (·.has a)

/-- The chain-level checks (R104): none when all pass. -/
def State.chainCheck (s : State) (h : ChainHead) (members : List Member) : Option RefusalReason :=
  if (s.layout.inForce.map (·.ringCount)).getD 0 < h.delay + h.window + 2 then some .ringTooSmall
  else if members.any fun m => s.jobs.hasAddr m.addr then some .duplicate
  else if 16 ≤ s.jobs.queue.length then some .busy
  else none

/-- The job record of a chain (R105). -/
def jobOf (h : ChainHead) (members : List Member) : Job where
  members := members
  speed := h.speed
  k := h.k
  phasing := h.phasing
  delay := h.delay
  window := h.window
  retryLimit := h.retryLimit
  retryInterval := h.retryInterval
  urgent := h.urgent
  destinations := h.destinations

/-! ## A job becomes current (R107) -/

/-- The frame figures of a destination never attempted (R124). -/
def emptyFrames (n : Nat) : List FrameEntry :=
  List.replicate n { firstSent := 0, short := 0, sig := 1, check := .notCompared, ended := false }

/-- A destination at set-up (R124). -/
def Dest.fresh (frames dirIndex : Nat) : Dest where
  dirIndex := dirIndex
  progress := .untried
  attempts := 0
  lastOutcome := none
  lastDetail := .none
  frames := emptyFrames frames
  served := 0
  refused := 0
  final := none
  cause := none

/-- The Destination Progress table of a job at set-up (R124). -/
def Job.freshTable (j : Job) : List Dest := j.destinations.map (Dest.fresh j.members.length)

/-- The scan signature table with every entry 0001h (R126). -/
def Job.freshSigs (j : Job) : List Sig := List.replicate j.members.length 1

/-- The guard of a member TCB (R157). -/
def Member.guard (m : Member) : Guard := { base := m.addr, length := tcbBytes, reason := .tcb, bank := 0 }

/-- The guard of tone bank b (R157): Profile words 64 to 95 or 96 to 127. -/
def bankGuard (profileBase b : Nat) : Guard :=
  { base := profileBase + 256 + 128 * b, length := 128, reason := .toneBank, bank := b }

/-- The guards of a job: one per member in chain order, then one per bank named, bank 0 first (R157). -/
def Job.guards (profileBase : Nat) (j : Job) : List Guard :=
  j.members.map Member.guard
    ++ ([0, 1].filter fun b => j.members.any (·.bank == b)).map (bankGuard profileBase)

/-- The job's guards stand from entry 2 of the Guard List upward (R157). -/
def Gate.placeGuards (gs : List Guard) (g : Gate) : Gate :=
  { g with guards := (g.guards.take 2 ++ gs.map some ++ List.replicate 12 none).take 12 }

/-- The Profile base of the layout in force. -/
def State.profileBase (s : State) : Nat := (s.layout.inForce.map (·.profileBase)).getD 0

/-- With the Job Controller IDLE, the head job becomes current (R107). -/
def State.nextCurrent (s : State) : State :=
  match s.jobs.state, s.jobs.queue with
  | .idle, j :: q =>
    { s with
      jobs :=
        { s.jobs with
          state := .mountWait, queue := q, current := some j, endCause := none, mount := .stale
          mountLamp := true, progress := j.freshTable, retryList := [], scanSigs := j.freshSigs }
      gate := s.gate.placeGuards (j.guards s.profileBase) }
  | _, _ => s

/-- A checked chain is queued (R104, R106, R107). -/
def State.queueChain (j : Job) (s : State) : State :=
  (s.mapJobs fun c => { c with queue := queueJob j c.queue }).nextCurrent

/-! ## Choosing the next attempt (R127, R128, R134, R135) -/

/-- The head of the Retry List is due (R135). -/
def State.headDue (s : State) : Bool :=
  (s.jobs.retryList.head?.map fun e => decide (e.2 ≤ s.clock.uptime)).getD false

/-- The first UNTRIED destination. -/
def Jobs.firstUntried (j : Jobs) : Option Nat := j.progress.findIdx? (·.progress == .untried)

/-- The destination chosen (R128). -/
def State.chosen (s : State) : Option Nat :=
  match s.jobs.firstUntried with
  | some n => some n
  | none => if s.headDue then s.jobs.retryList.head?.map (·.1) else none

/-- ATTEMPTING or RETRY_WAIT. -/
def JobState.running : JobState → Bool
  | .attempting | .retryWait => true
  | _ => false

/-- The conditions of R127 but for a destination chosen. -/
def State.mayStart (s : State) : Bool :=
  s.jobs.state.running && s.jobs.endCause.isNone && s.jobs.startInFlight.isNone
    && !s.jobs.attemptInProgress && s.jobs.lineAtRest && s.drum.state != .latched

/-- The address of the Directory entry of an index. -/
def State.directoryAddr (s : State) (i : Nat) : Nat :=
  (s.layout.inForce.map fun l => l.directoryBase + 64 * i).getD 0

/-- Applies `f` to the entry of destination slot n. -/
def Jobs.mapDest (n : Nat) (f : Dest → Dest) (j : Jobs) : Jobs := { j with progress := updateAt f j.progress n }

/-- An attempt start begins: the Directory read is issued (R123, R129). -/
def State.startAttempt (n : Nat) (s : State) : State :=
  let addr := s.directoryAddr ((s.jobs.progress[n]?.map (·.dirIndex)).getD 0)
  (s.mapJobs fun j =>
    { j.mapDest n (fun d => { d with progress := .attempting }) with
      state := .attempting, startInFlight := some n, retryList := j.retryList.filter (·.1 != n) }).issue
    (.directoryRead true) (reads addr 12)

/-- The look for the next attempt (R127). -/
def State.look (s : State) : State :=
  if s.mayStart then
    match s.chosen with
    | some n => s.startAttempt n
    | none => s
  else s

/-- The job's state as its destinations give it (R110, R135). -/
def State.runState (s : State) : JobState :=
  if s.jobs.startInFlight.isSome || s.jobs.attemptInProgress || s.jobs.firstUntried.isSome || s.headDue then
    .attempting
  else .retryWait

/-- A change of uptime at which the head falls due moves the job to ATTEMPTING (R135). -/
def State.retryDue (s : State) : State :=
  if s.jobs.state = .retryWait ∧ s.headDue then s.mapJobs fun j => { j with state := .attempting } else s

/-- MOUNT_WAIT is left when the mount is FRESH and the Backlog is empty (R109). -/
def State.leaveMountWait (s : State) : State :=
  if s.jobs.state = .mountWait ∧ s.jobs.mount = .fresh ∧ s.mailbox.backlog = [] then
    (s.mapJobs fun j => { j with state := .attempting, mountLamp := false }).look
  else s

/-- The Backlog's oldest completions are posted; when it empties, the Job Controller is told (R186,
R187). -/
def State.serveBacklog (s : State) : State :=
  if s.mailbox.backlog = [] then s
  else
    let s := State.postBacklog s.mailbox.backlog s
    if s.mailbox.backlog = [] then s.leaveMountWait else s

/-! ## Starting an attempt (R125, R126, R129) -/

/-- The Job Controller's fields of the Attempt Record (R125). -/
def AttemptRecord.begin (n : Nat) (d : Dest) (name : List Nat) (j : Job) (c : Clock) (r : AttemptRecord) :
    AttemptRecord :=
  { r with
    destSlot := n, dirIndex := d.dirIndex, name := name, attemptNo := d.attempts
    startTime := c.time, startUptime := c.uptime, frameCount := j.members.length
    captions := j.members.map (·.caption) }

/-- What a CALL carries for an attempt of a job (R78, R129). -/
def Job.callInfo (dial : List DialSymbol) (j : Job) : CallInfo where
  dial := dial
  frames := j.frames
  k := j.k
  phasing := j.phasing
  delay := j.delay
  window := j.window

/-- Applies `f` to the drum. -/
def State.mapDrum (f : Drum → Drum) (s : State) : State := s.withDrum (f s.drum)

/-- SPIN from the Job Controller, which stops the park-delay timer (R120, R129). -/
def State.spin (v : Speed) (s : State) : State :=
  (s.mapDrum (·.spin s.profile.drum s.now v)).mapJobs fun j => { j with parkTimer := none }

/-- PARK from the Job Controller. -/
def State.park (mode : ParkMode) (s : State) : State := s.mapDrum (·.park s.profile.drum s.now mode)

/-- Steps 1 and 2 of R129. -/
def State.noteStart (n : Nat) (e : DirEntry) (j : Job) (d : Dest) (s : State) : State :=
  { s with
    record := s.record.begin n d e.name j s.clock
    jobs :=
      { s.jobs.mapDest n (fun _ => d) with
        startInFlight := none, attemptInProgress := true, noRetry := e.noRetry, lineAtRest := false
        currentDest := some (n, d.attempts), scanSigs := j.freshSigs
        directoryFaults := if e.corrected then satInc s.jobs.directoryFaults else s.jobs.directoryFaults } }

/-- The attempt begins when the last Directory word has arrived (R129). -/
def State.beginAttempt (words : List Word) (s : State) : State :=
  match s.jobs.startInFlight, s.jobs.current with
  | some n, some j =>
    match s.jobs.progress[n]? with
    | some d =>
      let e := readDirEntry words
      let s := s.noteStart n e j { d with attempts := d.attempts + 1 }
      let s := s.spin j.speed
      let s := s.withCarriage (s.carriage.requestPosition s.now ((j.frames.head?.map (·.start)).getD 0))
      let s := s.withScan (s.scan.lampOn s.profile.lampWarmUp s.now j.frames)
      s.call (j.callInfo e.dial)
    | none => s
  | _, _ => s

/-! ## Results (R117, R118) -/

/-- Word A of a destination's results for frame m (12, TCB). -/
def Dest.wordA (m : Nat) (d : Dest) : Word :=
  BitVec.ofNat 32
    (codeOr FinalOutcome.code d.final + 256 * codeOr AttemptOutcome.code d.lastOutcome
      + 4096 * d.lastDetail.code + 65536 * min d.attempts 15
      + 1048576 * min ((d.frames[m]?.map (·.firstSent)).getD 0) 4095)

/-- Word B of a destination's results for frame m (12, TCB; R192). -/
def Dest.wordB (m : Nat) (d : Dest) : Word :=
  fromHalfBytes ((d.frames[m]?.map (·.sig.toNat)).getD 1) d.served d.refused

/-- The two words of destination i, 0 beyond the destination count (R191). -/
def destWords (m : Nat) (ds : List Dest) (i : Nat) : List Word :=
  match ds[i]? with
  | some d => [d.wordA m, d.wordB m]
  | none => [0, 0]

/-- The results area of member m: word 12, and bytes 64 to 127 (R117; 12, TCB). -/
def memberResults (cause : Option Cause) (ds : List Dest) (sigs : List Sig) (m : Nat) (x : Member) :
    List OpWord :=
  (wholeWord (x.addr + 48) (fromBytesHalf (codeOr Cause.code cause) 0 ((sigs.getD m 1).toNat))
    :: wordsFrom (x.addr + 64) ((List.range 8).flatMap (destWords m ds))).map .wr

/-- The results areas of a job, one operation to a member, member 0 first; the last is of kind `last` (R117,
R165). -/
def Job.results (last : OpKind) (cause : Option Cause) (ds : List Dest) (sigs : List Sig) (j : Job) :
    List (OpKind × List OpWord) :=
  j.members.mapIdx fun m x =>
    (if m + 1 = j.members.length then last else .memberResults, memberResults cause ds sigs m x)

/-- The number of destinations to which frame m was sent (R118). -/
def okCount (ds : List Dest) (m : Nat) : Nat :=
  (ds.filter fun d => ((d.frames[m]?.map (·.check)).getD .notCompared) != .notCompared).length

/-- The status of a member's completion (R118). -/
def memberStatus (cause : Option Cause) (ok count : Nat) : CompletionStatus :=
  match cause with
  | some c => .ended c
  | none => if ok = count then .doneAll else if 0 < ok then .donePartial else .failed

/-- The completion of member m of n (R118, R119). -/
def memberCompletion (cause : Option Cause) (ds : List Dest) (n m : Nat) (x : Member) : Completion :=
  let ok := okCount ds m
  { addr := x.addr, status := memberStatus cause ok ds.length, reason := none, ok := ok
    failed := ds.length - ok, quiet := decide (m + 1 < n), chainEnd := decide (m + 1 = n) }

/-- The completions of a job, in chain order (R119). -/
def Job.completions (cause : Option Cause) (ds : List Dest) (j : Job) : List Completion :=
  j.members.mapIdx fun m x => memberCompletion cause ds j.members.length m x

/-- The table of a job removed from the queue: every destination NOT_SENT, no attempt made (R115). -/
def Job.abortedTable (j : Job) : List Dest :=
  j.freshTable.map fun d => { d with progress := .final, final := some .notSent, cause := some .aborted }

/-! ## The end of a job (R114, R117, R137) -/

/-- Entry to FINISHING: the results writes are issued, one operation for the area of each member (R117, R165;
DEDUCED, log entry 38). -/
def State.enterFinishing (s : State) : State :=
  match s.jobs.current with
  | some j =>
    (s.mapJobs fun c => { c with state := .finishing, mountLamp := false, retryList := [] }).issueAll
      (j.results .results s.jobs.endCause s.jobs.progress s.jobs.scanSigs)
  | none => s

/-- A destination that is not FINAL ends NOT_SENT with a cause (R137). -/
def Dest.endBy (cause : Cause) (d : Dest) : Dest :=
  if d.progress = .final then d
  else { d with progress := .final, final := some .notSent, cause := some cause }

/-- The words of an attempt start in flight are discarded (R130). -/
def Op.abandon (op : Op) : Op :=
  match op.kind with
  | .directoryRead _ => { op with kind := .directoryRead false }
  | _ => op

/-- Steps 3 to 5 of a job's end by a cause (R114, R130, R137). -/
def State.finalizeJob (cause : Cause) (s : State) : State :=
  let s := s.lampOff
  { s with
    jobs :=
      { s.jobs with
        progress := s.jobs.progress.map (Dest.endBy cause), startInFlight := none, retryList := []
        attemptInProgress := false }
    gate := { s.gate with ops := s.gate.ops.map Op.abandon } }.enterFinishing

/-- The requests of an end cause that were on their way reach their units (R111, R114, R132): the brake-park of
an opened clamp, and steps 3 to 5 of the job's end. An ABORT's take ends with it, the operations after the first
`base` being those of this moment (R165, R184). -/
def State.endLate (base : Nat) (cause : Cause) (s : State) : State :=
  let late := s.jobs.requestsDue
  let s := if cause = .mediaRemoved then s.park .brake else s
  let s := (s.mapJobs fun j => { j with requestsDue := none }).finalizeJob cause
  match late.bind (·.freeAhead) with
  | some ahead => s.endTakeAmong base ahead
  | none => s

/-! ## Taking an Attempt Record (R132 to R136, R138) -/

/-- Step 1 of R132. -/
def Dest.takeFigures (r : AttemptRecord) (d : Dest) : Dest :=
  { d with
    lastOutcome := r.outcome, lastDetail := r.detail, frames := r.frames
    served := d.served + r.repeatsServed, refused := d.refused + r.repeatsRefused }

/-- A destination becomes FINAL. -/
def Dest.finish (f : FinalOutcome) (cause : Option Cause) (d : Dest) : Dest :=
  { d with progress := .final, final := some f, cause := cause }

/-- An entry joins the Retry List behind every entry due no later (R134). -/
def insertRetry (n due : Nat) (l : List (Nat × Nat)) : List (Nat × Nat) :=
  l.takeWhile (fun e => decide (e.2 ≤ due)) ++ (n, due) :: l.dropWhile (fun e => decide (e.2 ≤ due))

/-- The outcome of the record allows a further attempt to the destination (R133). -/
def Jobs.mayRetry (n : Nat) (o : AttemptOutcome) (j : Jobs) : Bool :=
  o.retryable && !j.noRetry
    && decide (((j.progress[n]?.map (·.attempts)).getD 0) < 1 + ((j.current.map (·.retryLimit)).getD 0))

/-- The destination's new progress state (R133, R134). The due time is kept as it is summed, past 32 bits also
(DESIGN CHOICE, log entry 39). -/
def Jobs.decide (n uptime : Nat) (o : AttemptOutcome) (j : Jobs) : Jobs :=
  match o, j.endCause with
  | .sent, _ => j.mapDest n (Dest.finish .sent none)
  | .halted, _ => j.mapDest n (Dest.finish .halted none)
  | _, some c => j.mapDest n (Dest.finish .notSent (some c))
  | o, none =>
    if o.retryable then
      if j.mayRetry n o then
        { j.mapDest n (fun d => { d with progress := .retryWait }) with
          retryList := insertRetry n (uptime + (j.current.map (·.retryInterval)).getD 0) j.retryList }
      else j.mapDest n (Dest.finish .gaveUp none)
    else j.mapDest n (Dest.finish .notSent (some .carriageFault))

/-- The history write-back of a record is issued (R138). -/
def State.issueHistory (s : State) : State :=
  let r := s.record
  s.issue
    (.historyRead (r.outcome == some .sent) (codeOr AttemptOutcome.code r.outcome) r.startTime
      (r.captions.head?.getD 0))
    (reads (s.directoryAddr r.dirIndex + 48) 4)

/-- The four history words with the new outcome, time, caption and counts (R138; 12, Directory entry). -/
def historyWords (sent : Bool) (outcome : Nat) (time : TimeOfDay) (caption : Nat) (got : List Word) : List Word :=
  let counts := wordAt got 3
  let ok := field counts 0 16
  let bad := field counts 16 16
  [ fromBytes outcome 0 0 0
  , time.word
  , BitVec.ofNat 32 caption
  , if sent then fromHalves (ok + 1) bad else fromHalves ok (bad + 1) ]

/-- Between two attempts: the lamp and the drum are kept, or turned off and parked (R136). -/
def State.settle (s : State) : State :=
  let s := s.mapJobs fun j => { j with state := s.runState, mountLamp := false }
  match s.jobs.state with
  | .retryWait =>
    let due := (s.jobs.retryList.head?.map (·.2)).getD 0
    if s.profile.drum.parkDelay ≤ due - s.clock.uptime then (s.lampOff).park s.profile.drum.parkMode else s
  | _ => if s.drum.state = .latched then s.lampOff else s

/-- Every destination of the job is FINAL. -/
def Jobs.allFinal (j : Jobs) : Bool := j.progress.all (·.progress == .final)

/-- Step 5 of R132, and the end by CARRIAGE_FAULT that an outcome gives (R110, R113). With an end cause whose
requests are on their way, the record was taken before them, and the job's end follows (R114, R116, R132). -/
def State.afterRecord (base : Nat) (o : AttemptOutcome) (s : State) : State :=
  match s.jobs.endCause with
  | some cause => if s.jobs.requestsDue.isSome then s.endLate base cause else s
  | none =>
    if o = .carriageFault then
      (s.mapJobs fun j => { j with endCause := some .carriageFault }).finalizeJob .carriageFault
    else if s.jobs.allFinal then s.enterFinishing
    else s.settle.look

/-- The Attempt Record is taken (R132). -/
def State.takeRecord (s : State) : State :=
  if s.jobs.attemptInProgress then
    let base := s.gate.ops.length
    let n := s.record.destSlot
    let o := s.record.outcome.getD .sent
    let s := s.mapJobs (·.mapDest n (Dest.takeFigures s.record))
    let s := s.scanStop
    let s := s.mapJobs fun j =>
      { j.decide n s.clock.uptime o with attemptInProgress := false, currentDest := none }
    s.issueHistory.afterRecord base o
  else s

/-! ## The finish of a job (R119, R120) -/

/-- The drum is settled at a job's end (R119, R120). A PARK sent at once stops a park-delay timer that still runs
(DESIGN CHOICE, log entry 37). -/
def State.settleDrum (s : State) : State :=
  if s.jobs.endCause = some .mediaRemoved then s
  else if s.jobs.queue = [] then
    (s.mapJobs fun j => { j with parkTimer := none }).park s.profile.drum.parkMode
  else if s.profile.drum.parkDelay = 0 then
    (s.mapJobs fun j => { j with parkTimer := none }).park s.profile.drum.parkMode
  else s.mapJobs fun j => { j with parkTimer := some (s.now + 1000000 * s.profile.drum.parkDelay) }

/-- The job stops being current (R119). -/
def Jobs.endCurrent (j : Jobs) : Jobs :=
  { j with
    state := .idle, current := none, mountLamp := false, progress := [], retryList := [], scanSigs := []
    startInFlight := none, attemptInProgress := false, requestsDue := none }

/-- Completions handed on at one moment, in order (11, The Return Mailbox). -/
def State.handOnAll (cs : List Completion) (s : State) : State := cs.foldl State.handOn s

/-- The last results write has reached memory (R119). -/
def State.finishJob (s : State) : State :=
  match s.jobs.current with
  | some j =>
    let s := s.handOnAll (j.completions s.jobs.endCause s.jobs.progress)
    let s := s.withGate (s.gate.placeGuards [])
    (s.lampOff.settleDrum.mapJobs Jobs.endCurrent).nextCurrent
  | none => s

/-! ## Aborts of queued jobs (R115) -/

/-- The first job of the queue that has the address as a member, and the queue without it. -/
def removeJob (a : Nat) : List Job → Option (Job × List Job)
  | [] => none
  | j :: q => if j.has a then some (j, q) else (removeJob a q).map fun x => (x.1, j :: x.2)

end Sys2Proof.Machine
end

