-- ==== Sys2Proof/Machine/Attempt.lean ====
section
/-! DEFINITION. Where the blocks meet in a call: the end of an attempt, the end of a job by a cause, the
events that wait to be taken, the Line Unit at an INDEX, the slot events and the tach event (05_calls.md;
R1, R2, R22, R23). -/

namespace Sys2Proof.Machine

/-! ## The end of an attempt (R94) -/

/-- The base and count of the Slip Log of the layout in force. -/
def State.slipLog (s : State) : Option (Nat × Nat) := s.layout.inForce.map fun l => (l.logBase, l.logCount)

/-- The Slip Unit takes the Attempt Record (R142). -/
def State.composeSlip (s : State) : State :=
  s.withSlips (s.slips.compose s.now s.slipLog s.profile.header s.record)

/-- The Line Unit at an attempt's end (R94 step 4): STOP_TONE, or the relay opens. -/
def Line.endCall (c t : Nat) (o : AttemptOutcome) (d : Detail) (tone : Bool) (l : Line) : Line :=
  { (if tone then l.enterStopTone c t else l.openRelay t) with
    active := false, lastOutcome := some o, lastDetail := d }

/-- An attempt-ending event (R94): the frames are closed, the record completed, the line goes to STOP_TONE
or is released, the ring is freed (R74), and the record is taken by the Job Controller and the Slip Unit. -/
def State.endAttempt (o : AttemptOutcome) (d : Detail) (tone : Bool) (s : State) : State :=
  { s with
    record := s.closedRecord o d
    line := s.line.endCall s.crystal s.now o d tone
    ring := s.ring.release
    gate := s.gate.dropPrefetch }.takeRecord.composeSlip

/-- A cut request (R93). -/
def State.cut (cause : Cause) (s : State) : State :=
  if s.line.state.unanswered then s.endAttempt cause.outcome cause.detail false
  else if s.line.state.answered then s.endAttempt cause.outcome cause.detail true
  else s

/-! ## Events that wait to be taken -/

/-- The signal of a BAND_LOST is over. -/
def State.lossTaken (s : State) : State := s.mapDrum fun d => { d with bandLostSignal := false }

/-- The Line Unit takes a BAND_LOST that the Regulator has signalled (R4, R5, R12, R88). One that the parking of the
drum at the attempt's end gives is taken with it: no turn is left to lose. -/
def State.takeBandLost (s : State) : State :=
  if s.drum.bandLostSignal then
    (if s.line.state.sending then s.lossTaken.endAttempt .drumFault .bandLost true else s).lossTaken
  else s

/-- A job ends by a cause (R114). `bandLostFirst`: the Line Unit takes a BAND_LOST of the same moment
before the cut request (R93). -/
def State.endJob (cause : Cause) (bandLostFirst : Bool) (s : State) : State :=
  let s := s.mapJobs fun j => { j with endCause := some cause }
  let s := if bandLostFirst then s.takeBandLost else s
  let s := if s.jobs.attemptInProgress then s.cut cause else s
  s.finalizeJob cause

/-- The job can end by a cause: it is running, and no cause has been taken (R111 to R114). -/
def Jobs.endable (j : Jobs) : Bool := j.state.running && j.requestsDue.isNone

/-- A cause is taken, and its requests are on their way: an attempt end of the same moment may still be taken
before them, and its record is then taken under the end cause (R114, R116, R132; DEDUCED, log entry 25). -/
def State.causeLate (cause : Cause) (freeAhead : Option Nat) (s : State) : State :=
  s.mapJobs fun j => { j with endCause := some cause, requestsDue := some { freeAhead } }

/-- A job ends by a cause; `late`: with an attempt in progress, the requests go on their way. -/
def State.endJobAs (late : Bool) (cause : Cause) (s : State) : State :=
  if s.jobs.attemptInProgress && late then s.causeLate cause none else s.endJob cause false

/-- The moment of a cause is over: the requests that are still on their way reach their units, the cut first
(R93, R114). -/
def State.completeEnd (s : State) : State :=
  match s.jobs.requestsDue, s.jobs.endCause with
  | some _, some cause =>
    let base := s.gate.ops.length
    let s := if s.jobs.attemptInProgress then s.cut cause else s
    if s.jobs.requestsDue.isSome then s.endLate base cause else s
  | _, _ => s

/-- The Job Controller takes a carriage-fault event (R113). With an attempt in progress, a free value chooses whether
the requests of the cause reach their units in this step (DESIGN CHOICE, log entry 25). -/
def State.takeCarriageFault (s : State) : State :=
  if s.carriage.faultEvent then
    let s := s.withCarriage { s.carriage with faultEvent := false }
    if s.jobs.endable then s.endJobAs (Config.faultRequestsLate s.crystal) .carriageFault else s
  else s

/-- The events given during a command are taken: a limit-truncation, an arrival, a BAND_LOST, a
carriage-fault. -/
def State.deliver (s : State) : State := s.takeTruncation.takeArrival.takeBandLost.takeCarriageFault

/-! ## Drum faults (R17, R88) -/

/-- A detection makes a fault event: the Regulator applies its policy, and the Line Unit takes the event
(R17, R88; DEDUCED, log entry 19). -/
def State.drumFault (kind : DrumFault) (s : State) : State :=
  let policy := s.profile.drum.policy kind
  let s := s.mapDrum (·.faultEvent s.profile.drum s.now kind)
  if policy ≠ .report ∧ s.line.state.sending then s.endAttempt .drumFault kind.detail true else s

/-- An INDEX at which a turn is to begin with the drum not ready ends the attempt (R88). -/
def State.drumNotReady (s : State) : State := s.endAttempt .drumFault .drumNotReady true

/-! ## The Line Unit at an INDEX (R87 to R92) -/

/-- A picture turn that is not a frame end: a repeat, a first send or a gap, the drum checked first
(R64, R88, R90). -/
def State.sendTurn (s : State) : State :=
  if s.drum.state.ready then
    match s.ring.pickCase with
    | .again n => s.sendSlot n false
    | .first n => s.sendSlot n true
    | _ => s.gapTurn
  else s.drumNotReady

/-- A separator turn is sent whole at H_white, the drum checked first; `begins` says that the INDEX begins
SEPARATOR (R88, R92). -/
def State.whiteTurn (begins : Bool) (s : State) : State :=
  if s.drum.state.ready then
    (s.mapLine fun l => { l with turnCount := if begins then l.turnCount else l.turnCount + 1 }).tone
      s.line.hWhite
  else s.drumNotReady

/-- The ring is asked about the send position's frame (R65, R92). An EMPTY frame ends at once, and the
following frame is asked about; `fuel` bounds the frames so passed. -/
def State.askFrames (begins : Bool) : Nat → State → State
  | 0, s => s
  | fuel + 1, s =>
    match s.ring.askNext s.ring.sendFrame with
    | .empty d =>
      let s := (s.mapLine fun l => { l with sendSig := 1 }).endSending d
      if s.lastFrame then s.endAttempt .sent .none true
      else State.askFrames begins fuel (s.withRing s.ring.nextSendFrame)
    | .ready =>
      if 2 ≤ s.line.turnCount then
        if s.drum.state.ready then (s.mapLine Line.enterPicture).sendTurn else s.drumNotReady
      else s.whiteTurn begins
    | .notYet => s.whiteTurn begins

/-- The number of frames of the attempt, which bounds the EMPTY frames of one INDEX. -/
def State.frameFuel (s : State) : Nat := s.line.frames.length + 1

/-- SEPARATOR begins at the INDEX at which a frame ends with frames after it (R92). An attempt that ends at this
same INDEX ends in SEPARATOR (DESIGN CHOICE, log entry 36). -/
def State.enterSeparator (s : State) : State :=
  ((s.mapLine fun l => { l with state := .separator, turnCount := 1 }).withRing s.ring.nextSendFrame).askFrames
    true s.frameFuel

/-- The pick of a PICTURE turn (R64, R90). -/
def State.pictureTurn (s : State) : State :=
  match s.ring.pickCase with
  | .frameEnd d =>
    let s := s.endSending d
    if s.lastFrame then s.endAttempt .sent .none true else s.enterSeparator
  | _ => s.sendTurn

/-- The INDEX of a phasing turn after turn 0 (R88, R89). The INDEX that would begin turn P leaves
PHASING_END due. The turn count becomes that of the turn the INDEX would begin, also where none begins: at the end
of phasing, or with the drum not ready (DESIGN CHOICE, log entry 43). -/
def State.nextPhasingTurn (s : State) : State :=
  let s := s.mapLine fun l => { l with turnCount := l.turnCount + 1 }
  if s.line.phasingTurns ≤ s.line.turnCount then s
  else if s.drum.state.ready then s.phasingTurn
  else s.drumNotReady

/-- The Line Unit at an INDEX event (R63, R66, R87 to R92). -/
def State.lineIndex (s : State) : State :=
  let s := s.closeTurn
  match s.line.state with
  | .readyWait => if s.readyToPhase then s.enterPhasing else s
  | .phasing => s.nextPhasingTurn
  | .picture => s.pictureTurn
  | .separator => s.askFrames false s.frameFuel
  | _ => s

/-- The INDEX that would begin phasing turn P has come (R89). -/
def Line.phasingOver (l : Line) : Bool := (l.state == .phasing) && decide (l.phasingTurns ≤ l.turnCount)

/-- The end of phasing: the drum is checked, and PICTURE begins (R88, R89). An attempt that ends at this same
INDEX, the drum ready, ends in PICTURE or SEPARATOR (DESIGN CHOICE, log entry 36). -/
def State.endPhasing (s : State) : State :=
  if s.drum.state.ready then (s.mapLine Line.enterPicture).pictureTurn else s.drumNotReady

/-- The Scan Unit is in a state in which it acts on an INDEX event. -/
def ScannerState.acts : ScannerState → Bool
  | .scanning | .frameDone => true
  | _ => false

/-- An INDEX event is taken by the Scan Unit and the Line Unit, in either order (R2, R61). A scan-start
that the Line Unit gives at this INDEX has already taken it as its scanning turn (R33). -/
def State.index (scanFirst : Bool) (s : State) : State :=
  if scanFirst then s.scanIndex.lineIndex
  else if s.scan.state.acts then s.lineIndex.scanIndex
  else s.lineIndex

/-! ## Slot events and reference samples (R22, R23) -/

/-- The slots per interval by which slot events now fall: that of the frame being scanned, else that of
the attempt (R22, DEDUCED, log entry 20). -/
def State.slotK (s : State) : Option Nat :=
  if s.scan.state = .scanning then s.scan.frame.map (·.k) else s.line.call.map (·.k)

/-- Slot event i of interval n falls (R22, R35, R67). -/
def State.fallSlot (n k i : Nat) (cell : Sample) (s : State) : State :=
  let j := (n - 16) * k + i
  ((s.scanSlot j cell).sendSlotEvent j).mapLine fun l => { l with slotsFallen := i + 1 }

/-- The slot event next due, as its interval, k and i (R22). -/
def State.nextSlot (s : State) : Option (Nat × Nat × Nat) :=
  match s.drum.interval, s.slotK with
  | some n, some k => if 16 ≤ n ∧ s.line.slotsFallen < k then some (n, k, s.line.slotsFallen) else none
  | _, _ => none

/-- The time at which slot event i falls has come (R22). -/
def State.slotDue (k i : Nat) (s : State) : Bool :=
  match s.drum.lastTach with
  | some u => decide (u + i * s.drum.lenLast / k ≤ s.now)
  | none => false

/-- The slot events still due of an interval that ends fall at its end, in order (R22). -/
def State.lateSlots (n k : Nat) (cells : Cells) : List Nat → State → State
  | [], s => s
  | i :: is, s => State.lateSlots n k cells is (s.fallSlot n k i (cells.toList.getD i 0))

/-- What is still due in the interval that a tach event ends: its slot events, or its reference sample
(R22, R23). -/
def State.closeInterval (cells : Cells) (s : State) : State :=
  match s.drum.interval with
  | some n =>
    let s := s.withScan (s.scan.takeRef n (cells.toList.getD 0 0))
    match s.nextSlot with
    | some (n, k, i) => s.lateSlots n k cells (List.range' i (k - i))
    | none => s
  | none => s

/-- The time of the reference sample has come, half an interval in (R23). -/
def State.refDue (s : State) : Bool :=
  match s.drum.interval, s.drum.lastTach with
  | some n, some u => refInterval n && !s.scan.refTaken && decide (u + s.drum.lenLast / 2 ≤ s.now)
  | _, _ => false

/-! ## The tach event (R1, R2) -/

/-- The tach event that begins interval 8 of a phasing turn gives white (R89). -/
def State.phasingWhite (s : State) : State :=
  if s.line.state = .phasing ∧ s.drum.interval = some 8 then s.tone s.line.hWhite else s

/-- A tach event: what is due in the interval it ends, the Regulator, the reference moment, and the new
interval or turn (R1, R2, R22, R23, R44). -/
def State.tachEvent (cells : Cells) (scanFirst : Bool) (s : State) : State :=
  let s := s.closeInterval cells
  let ended := s.drum.interval
  let isIndex := s.drum.indexNext
  let s := s.mapDrum (·.tach s.profile.drum s.now)
  let s := if ended = some 11 then s.withScan s.scan.refMoment else s
  let s := s.withScan { s.scan with refTaken := false }
  let s := s.mapLine fun l => { l with slotsFallen := 0 }
  if isIndex then s.index scanFirst else s.phasingWhite

/-! ## Recognised tones (R68, R69, R84, R85, R91) -/

/-- The decision on a REPEAT recognised in PICTURE (R68, R69, R91). -/
def State.repeatAsked (s : State) : State :=
  let sent := (s.record.frames[s.ring.sendFrame]?.map (·.firstSent)).getD 0
  let window := (s.line.call.map (·.window)).getD 0
  match s.ring.decideRepeat sent window s.line.grantsUsed s.line.snap.repeatLimit with
  | .inl why =>
    { s with
      ring := s.ring.refuse why
      record := { s.record with repeatsRefused := satInc s.record.repeatsRefused } }
  | .inr slots =>
    { s with
      ring := s.ring.grant slots
      line := { s.line with grantsUsed := s.line.grantsUsed + 1 }
      record := { s.record with repeatsServed := satInc s.record.repeatsServed } }

/-- READY in ANSWER_WAIT (R85, R86). -/
def State.answer (s : State) : State :=
  (s.withRecord { s.record with answered := true }).mapLine (·.enterStartTone s.crystal s.now)

/-- What the Line Unit does on a recognition, by its state (R84). -/
def State.actOnTone (tone : Tone) (s : State) : State :=
  match s.line.state, tone with
  | .answerWait, .ready => s.answer
  | .answerWait, .notReady => s.endAttempt .notReady .none false
  | .picture, .repeatLines => s.repeatAsked
  | .phasing, .halt | .picture, .halt | .separator, .halt => s.endAttempt .halted .none false
  | _, _ => s

end Sys2Proof.Machine
end

