-- ==== Sys2Proof/Machine/Chain.lean ====
section
/-! DEFINITION. What the Mailbox Unit does with a Send entry that it has read (11, R184): the fetch and the
checks of a chain (R100 to R104), and the aborts (R115, R116). -/

namespace Sys2Proof.Machine

/-- A completion that stands alone: posted FULL with CHAIN_END (R104, R116, R184). -/
def loneCompletion (addr : Nat) (status : CompletionStatus) (reason : Option RefusalReason) : Completion where
  addr := addr
  status := status
  reason := reason
  ok := 0
  failed := 0
  quiet := false
  chainEnd := true

/-! ## Chains (R100 to R104) -/

/-- A chain is refused (R104): `head` is its head address. -/
def State.refuseChain (head : Nat) (reason : RefusalReason) (s : State) : State :=
  ((s.mapJobs fun j => { j with refusals := satInc j.refusals, lastRefusal := some reason }).handOn
    (loneCompletion head .refused (some reason))).endTake

/-- The memory top of the layout in force. -/
def State.memoryTop (s : State) : Nat := (s.layout.inForce.map (·.memoryTop)).getD 0

/-- The Directory count of the layout in force. -/
def State.directoryCount (s : State) : Nat := (s.layout.inForce.map (·.directoryCount)).getD 0

/-- The head address of a chain whose members so far are these and whose next member lies at `a`. -/
def chainAddr (members : List Member) (a : Nat) : Nat := (members.head?.map (·.addr)).getD a

/-- The next member's address is checked, and the member read (R100). -/
def State.fetchMember (head : Option ChainHead) (members : List Member) (a : Nat) (s : State) : State :=
  if memberAddressOk s.memoryTop members a then
    (s.withMailbox (s.mailbox.setPhase (.fetching head members a))).issue .memberRead (reads a 32)
  else s.refuseChain (chainAddr members a) .badAddress

/-- The checks of a member (R101, R102), and the head's values for the members after it (R103). -/
def Tcb.check (t : Tcb) (head : Option ChainHead) (directoryCount : Nat) : RefusalReason ⊕ ChainHead :=
  match t.fieldCheck, speedOfCode t.speedCode with
  | some r, _ => .inl r
  | none, none => .inl .badSpeed
  | none, some v =>
    match head with
    | none =>
      match t.headCheck directoryCount with
      | some r => .inl r
      | none => .inr (t.head v)
    | some h =>
      match t.matchCheck h with
      | some r => .inl r
      | none => .inr h

/-- The chain has ended with a link of 0: the chain-level checks, and the job is queued (R104, R106). -/
def State.endChain (h : ChainHead) (members : List Member) (s : State) : State :=
  match s.chainCheck h members with
  | some r => s.refuseChain (chainAddr members 0) r
  | none => (s.queueChain (jobOf h members)).endTake

/-- What the take in progress is doing. -/
def Mailbox.phase (m : Mailbox) : Option TakePhase := m.take.map (·.phase)

/-- The 32 words of a member have arrived (R100 to R104). -/
def State.memberArrived (words : List Word) (s : State) : State :=
  match s.mailbox.phase with
  | some (.fetching head members a) =>
    let t := readTcb words
    match t.check head s.directoryCount with
    | .inl r => s.refuseChain (chainAddr members a) r
    | .inr h =>
      let members := members ++ [t.member a]
      if t.link = 0 then s.endChain h members
      else if 8 ≤ members.length then s.refuseChain (chainAddr members a) .chainTooLong
      else s.fetchMember (some h) members t.link
  | _ => s

/-! ## Aborts (R115, R116) -/

/-- An address that no abort can act on (R116). -/
def State.abortNotFound (a : Nat) (s : State) : State := (s.handOn (loneCompletion a .notFound none)).endTake

/-- An ABORT passed to the Job Controller (R115, R116); `late`: with an attempt in progress, the requests of the
job's end go on their way, and the take ends with them. -/
def State.abort (late : Bool) (ahead a : Nat) (s : State) : State :=
  match removeJob a s.jobs.queue with
  | some (j, q) =>
    ((s.mapJobs fun c => { c with queue := q }).withMailbox (s.mailbox.setPhase .aborting)).issueAll
      (j.results (.abortedResults j) (some .aborted) j.abortedTable j.freshSigs)
  | none =>
    if s.jobs.current.any (·.has a) then
      if s.jobs.state = .finishing ∨ s.jobs.requestsDue.isSome then s.abortNotFound a
      else if late && s.jobs.attemptInProgress then s.causeLate .aborted (some ahead)
      else (s.endJob .aborted false).endTakeAmong s.gate.ops.length ahead
    else s.abortNotFound a

/-- The results of a job aborted from the queue have reached memory (R115, R184). -/
def State.abortedWritten (j : Job) (s : State) : State :=
  (s.handOnAll (j.completions (some .aborted) j.abortedTable)).endTake

end Sys2Proof.Machine
end

