-- ==== Sys2Proof/Machine/Loading.lean ====
section
/-! DEFINITION. Layout and Profile (10_layout_and_profile.md): loads, captures and the acceptance of a
layout. -/

namespace Sys2Proof.Machine

/-! ## Captures (R176, R177) -/

/-- A refused capture is counted and recorded (R176). -/
def LayoutUnit.refuse (w : Nat) (kind : CaptureRefusal) (l : LayoutUnit) : LayoutUnit :=
  { l with
    lastRefusedWord := some w, lastRefusalKind := some kind
    partials := if kind = .partialBytes then satInc l.partials else l.partials
    parities := if kind = .parity then satInc l.parities else l.parities
    ranges := if kind = .range then satInc l.ranges else l.ranges }

/-- A capture is refused. -/
def State.refuseCapture (w : Nat) (kind : CaptureRefusal) (s : State) : State :=
  s.withLayout (s.layout.refuse w kind)

/-- The shadow becomes another; the Regulator watches the faults that its policies name (R176; 01,
Faults). -/
def State.takeProfile (p : Profile) (s : State) : State :=
  { s with
    profile := p
    drum := s.drum.watchPolicies s.profile.drum p.drum s.now }

/-- Tries the capture of value word w (R176, R177). -/
def State.tryCapture (w : Nat) (data : Word) (be : ByteEnables) (s : State) : State :=
  match captureForm be data with
  | some kind => s.refuseCapture w kind
  | none =>
    match s.profile.capture w data with
    | some p => s.takeProfile p
    | none => s.refuseCapture w .range

/-- Tries an action word: `act` is its action, none when its field is out of range (R176, R179). -/
def State.tryAction (w : Nat) (data : Word) (be : ByteEnables) (act : Option (State → State)) (s : State) : State :=
  match captureForm be data with
  | some kind => s.refuseCapture w kind
  | none =>
    match act with
    | some f => f s
    | none => s.refuseCapture w .range

/-- The oldest watched write handed to Layout and Profile has been acted on. -/
def State.popLayout (s : State) : State := s.withGate { s.gate with toLayout := s.gate.toLayout.tail }

/-- An action word's field must be 1 (R179). -/
def actionField (data : Word) : Bool := field data 0 31 == 1

/-! ## Loads (R170 to R173) -/

/-- A load begins (R170, R171). -/
def State.beginLoad (s : State) : State :=
  (s.withLayout { s.layout with load := some .block }).issue .blockRead (reads layoutBlock 16)

/-- A load ends with a result (R173); a reload flag that is set begins a further load (R170). -/
def State.endLoad (result : LoadResult) (reason : Option LoadReason) (s : State) : State :=
  let s := s.withLayout
    { s.layout with
      load := none, lastResult := some result, lastReason := reason
      refusals := if result = .accepted then s.layout.refusals else satInc s.layout.refusals }
  if s.layout.reload then (s.withLayout { s.layout with reload := false }).beginLoad else s

/-- The Guard List entries 0 and 1 of a layout (R157). -/
def Layout.pageGuards (l : Layout) : List (Option Guard) :=
  [ some { base := l.statusBase, length := 256, reason := .statusPage, bank := 0 }
  , some { base := l.previewBase, length := slotBytes, reason := .preview, bank := 0 } ]

/-- The Memory Gate takes up a layout (R157, R166, R174, R189). -/
def Gate.takeLayout (l : Layout) (g : Gate) : Gate :=
  { g with
    guards := l.pageGuards ++ g.guards.drop 2, marks := List.replicate 64 true
    toMailbox := [], ops := g.ops.map Op.detach }

/-- Every block takes up an accepted layout (R174). -/
def State.takeLayout (l : Layout) (s : State) : State :=
  { s with
    layout := { s.layout with inForce := some l }
    gate := s.gate.takeLayout l
    ring := s.ring.takeLayout l.ringCount
    mailbox := s.mailbox.takeLayout l.returnCount
    slips := s.slips.takeLayout }

/-- The part is idle as an accepted load requires (R173). -/
def State.idleForLayout (s : State) : Bool :=
  (s.jobs.state == .idle) && s.jobs.queue.isEmpty && s.mailbox.backlog.isEmpty

/-- The end of a load whose block passed (R173, R174). -/
def State.endProfileLoad (l : Layout) (s : State) : State :=
  if s.idleForLayout then (s.takeLayout l).endLoad .accepted none
  else s.endLoad .refusedBusy (some .busy)

/-- The 16 words of the block have arrived (R171, R172). -/
def State.blockArrived (words : List Word) (s : State) : State :=
  let s := s.withLayout { s.layout with generationRead := wordAt words 1 }
  match blockCheck words with
  | some reason => s.endLoad .refusedInvalid (some reason)
  | none =>
    let l := readLayout words
    (s.withLayout { s.layout with load := some (.profile l) }).issue .profileRead
      (reads l.profileBase profileLoadWords)

/-- Profile word w is a word of a tone bank that the Guard List guards (R172). -/
def Gate.guardsBank (w : Nat) (g : Gate) : Bool :=
  decide (64 ≤ w ∧ w < 128)
    && g.guards.any fun e => (e.map fun x => x.reason == .toneBank && x.bank == (w - 64) / 32).getD false

/-- A word of a candidate's Profile Area has arrived (R172). -/
def State.profileArrived (w : Nat) (data : Word) (s : State) : State :=
  if isValueWord w && !s.gate.guardsBank w then s.tryCapture w data 15 else s

/-- A drain to word 1 of the Layout Block (R170). -/
def State.generationWritten (s : State) : State :=
  if s.layout.load.isSome then s.withLayout { s.layout with reload := true } else s.beginLoad

/-! ## The Counter Clear (R180) -/

/-- The Scan Unit's counters (R42, R59). -/
def Scan.clearCounters (c : Scan) : Scan := { c with stalls := 0, overruns := 0, holds := 0 }

/-- The Job Controller's (R121, R139). -/
def Jobs.clearCounters (j : Jobs) : Jobs := { j with refusals := 0, lastRefusal := none, directoryFaults := 0 }

/-- The Memory Gate's (R159). -/
def Gate.clearCounters (g : Gate) : Gate := { g with dropped := 0, droppedReason := none }

/-- Layout and Profile's (R180, R181). -/
def LayoutUnit.clearCounters (l : LayoutUnit) : LayoutUnit :=
  { l with
    refusals := 0, partials := 0, parities := 0, ranges := 0, lastRefusedWord := none
    lastRefusalKind := none }

/-- The Counter Clear, handed to every block (R180). -/
def State.clearCounters (s : State) : State :=
  { s with
    drum := s.drum.clearCounters
    scan := s.scan.clearCounters
    ring := s.ring.clearCounters
    jobs := s.jobs.clearCounters
    slips := s.slips.clearCounters
    gate := s.gate.clearCounters
    layout := s.layout.clearCounters }

end Sys2Proof.Machine
end

