-- ==== Sys2Proof/Machine/ResetCommands.lean ====
section
/-! DEFINITION. The meanings of RESET and RESET_RELEASE, and the two forms that the meanings of the other
commands take (09_the_memory_path.md, R168; 10_layout_and_profile.md, R170). -/

namespace Sys2Proof.Machine

/-! ## The form of a meaning -/

/-- A command that comes about when `due` holds, and then has an effect; otherwise nothing has happened at
the part, and only the step's end stands (DESIGN CHOICE, log entries 2 and 3). -/
def when (due : State → Bool) (effect : State → State) (s : State) : Host.Outcome State Fault Refusal :=
  live (fun s => if due s then effect s else s) s

/-- The same for a command whose effect may give events to other blocks: they are taken in the same step. -/
def whenDeliver (due : State → Bool) (effect : State → State) (s : State) :
    Host.Outcome State Fault Refusal :=
  when due (fun s => (effect s).deliver) s

/-- The change of an input level: while RESET is asserted it is the level alone that changes (DEDUCED,
log entry 3). -/
def whenLevel (level : State → State) (due : State → Bool) (effect : State → State) (s : State) :
    Host.Outcome State Fault Refusal :=
  if s.inReset then .next (level s) else whenDeliver due effect s

/-! ## RESET (R168) -/

/-- The write that the word in progress on the port makes, if it is a write. -/
def State.portWrite (s : State) : Option Access :=
  match s.gate.port with
  | some (.scanEntry x _) | some (.scanHeader x _) => some x
  | some .hostWrite => s.gate.buffer.head?.map HostWrite.access
  | some .control =>
    match s.gate.ops.head?.bind (·.todo.head?) with
    | some (.wr x) => some x
    | _ => none
  | some .slipLog => s.slips.nextLogWord
  | _ => none

/-- Memory as the word in progress on the port leaves it (R168). -/
def State.memAtReset (s : State) : Memory :=
  match s.portWrite with
  | some x => s.mem.write x
  | none => s.mem

/-- The Memory Gate's state at reset: the waiting write is kept, a read in progress on the port completes,
and any other read waits for the release (R168). -/
def State.gateAtReset (s : State) : Gate :=
  let g := { Gate.reset with readData := s.gate.readData, waiting := s.gate.waiting }
  match s.gate.read with
  | some r =>
    if s.gate.port = some .hostRead then { g with readData := s.mem.word r.target }
    else { g with read := some { addr := r.addr, target := r.addr, held := none } }
  | none => g

/-- RESET is asserted: every block takes its reset state, memory is as the last completed word left it, and
the levels of the inputs stay what they are (R21, R30, R43, R77, R99, R122, R153, R168, R177, R181,
R189). -/
def State.assertReset (s : State) : State :=
  { State.reset with
    crystal := s.crystal
    mem := s.memAtReset
    gate := s.gateAtReset
    carriage := { Carriage.reset with home := s.carriage.home, limit := s.carriage.limit }
    line := { Line.reset with loop := s.line.loop, carrier := { Carrier.reset with since := s.crystal } }
    jobs :=
      { Jobs.reset with
        clampClosed := s.jobs.clampClosed, mount := if s.jobs.clampClosed then .fresh else .opened }
    slips := { SlipUnit.reset with busy := s.slips.busy, paper := s.slips.paper }
    pending := s.pending }

/-- RESET (R168). -/
def execReset (s : State) : Host.Outcome State Fault Refusal := .next s.assertReset

/-! ## RESET_RELEASE (R170) -/

/-- The clock's tick and the PWM period start at the release (R140; DESIGN CHOICE, log entry 13). -/
def State.startClocks (s : State) : State :=
  { s with
    inReset := false
    clock := { s.clock with nextTick := some (s.now + 1000000) }
    drum := { s.drum with pwm := { s.drum.pwm with start := s.crystal } } }

/-- The read that reset has held back is sorted afresh (R168). -/
def State.releaseRead (s : State) : State :=
  s.withGate { s.gate with read := s.gate.read.map s.sorted }

/-- SLIP_PAPER is examined at the release (R150). -/
def State.examinePaper (s : State) : State :=
  if s.slips.paper then s else s.withSlips s.slips.enterPaperOut

/-- RESET_RELEASE (R140, R150, R168, R170). -/
def execResetRelease (s : State) : Host.Outcome State Fault Refusal :=
  .next
    (if s.inReset then finish s s.startClocks.acceptWaiting.releaseRead.examinePaper.beginLoad
    else finish s s)

end Sys2Proof.Machine
end

