-- ==== Sys2Proof/Machine/CarriageCommands.lean ====
section
/-! DEFINITION. The meanings of the carriage's commands (02_carriage_and_scanning.md, The Carriage Drive). -/

namespace Sys2Proof.Machine

/-- Applies `f` to the Carriage Drive. -/
def State.mapCarriage (f : Carriage → Carriage) (s : State) : State := s.withCarriage (f s.carriage)

/-- When the next step, check or final wait of the move falls. -/
def Carriage.due (c : Carriage) : Nat := c.nextStep.getD 0

/-- The carriage is in a state and its next step, check or final wait is due. -/
def State.moveDue (st : CarriageState) (s : State) : Bool :=
  s.carriage.state == st && expired s.carriage.nextStep s.now

/-- Homing has issued its last step and HOME is still not asserted at the next check (R25). -/
def Carriage.homingFailed (c : Carriage) : Bool := decide (homingLimit ≤ c.homingSteps) && !c.home

/-- HOMING_STEP (R25). -/
def execHomingStep (s : State) : Host.Outcome State Fault Refusal :=
  whenDeliver (fun s => s.moveDue .homing && !s.carriage.homingFailed)
    (fun s => s.mapCarriage fun c => c.homeStep c.due) s

/-- HOMING_FAULT (R25). -/
def execHomingFault (s : State) : Host.Outcome State Fault Refusal :=
  whenDeliver (fun s => s.moveDue .homing && s.carriage.homingFailed)
    (fun s => s.mapCarriage Carriage.toFault) s

/-- POSITION_STEP (R26, R27). -/
def execPositionStep (s : State) : Host.Outcome State Fault Refusal :=
  whenDeliver (fun s => s.moveDue .positioning && !s.carriage.atTarget)
    (fun s => s.mapCarriage fun c => c.moveStep c.due) s

/-- ARRIVAL (R26, R39). -/
def execArrival (s : State) : Host.Outcome State Fault Refusal :=
  whenDeliver (fun s => s.moveDue .positioning && s.carriage.atTarget)
    (fun s => s.mapCarriage Carriage.arrive) s

/-- LIMIT_ASSERTED (R27, R29). -/
def execLimitAsserted (s : State) : Host.Outcome State Fault Refusal :=
  whenLevel (fun s => s.mapCarriage fun c => { c with limit := true }) (fun s => !s.carriage.limit)
    (fun s => s.mapCarriage Carriage.limitOn) s

/-- HOME_ASSERTED (R27). -/
def execHomeAsserted (s : State) : Host.Outcome State Fault Refusal :=
  whenLevel (fun s => s.mapCarriage fun c => { c with home := true }) (fun s => !s.carriage.home)
    (fun s => s.mapCarriage Carriage.homeOn) s

/-- TRACK_STEP (R28, R29). -/
def execTrackStep (s : State) : Host.Outcome State Fault Refusal :=
  whenDeliver (fun s => s.moveDue .tracking && decide (0 < s.carriage.stepsDue))
    (fun s => s.mapCarriage fun c => c.followStep c.due) s

end Sys2Proof.Machine
end

