-- ==== Sys2Proof/Machine/DrumCommands.lean ====
section
/-! DEFINITION. The meanings of the drum's commands (01_the_drum.md). -/

namespace Sys2Proof.Machine

/-- INDEX_PULSE (R1): the index-armed flag is set. -/
def execIndexPulse (s : State) : Host.Outcome State Fault Refusal :=
  live (fun s => s.mapDrum fun d => { d with indexArmed := true }) s

/-- TACH_EVENT (R1, R2). -/
def execTachEvent (cells : Cells) (scanFirst : Bool) (s : State) : Host.Outcome State Fault Refusal :=
  live (fun s => (s.tachEvent cells scanFirst).deliver) s

/-- SLIP_DETECTED (R15): the run becomes 0, and SLIP is a fault event. -/
def execSlipDetected (s : State) : Host.Outcome State Fault Refusal :=
  whenDeliver (·.drum.slipDue)
    (fun s => (s.mapDrum fun d => { d with slipRun := 0, slipDue := false }).drumFault .slip) s

/-- REGULATION_SAMPLE (R3, R9, R11): the sample that the last tach event closed is taken. -/
def execRegulationSample (s : State) : Host.Outcome State Fault Refusal :=
  live
    (fun s =>
      match s.drum.closedSample with
      | some pm => s.mapDrum (·.takeSample s.profile.drum s.now pm)
      | none => s) s

/-- The in-band count has reached 8 in SETTLING (R12). -/
def State.bandEntryDue (s : State) : Bool := s.drum.state == .settling && decide (8 ≤ s.drum.inBandCount)

/-- BAND_ENTRY (R12). -/
def execBandEntry (s : State) : Host.Outcome State Fault Refusal :=
  when State.bandEntryDue (fun s => s.mapDrum Drum.enterInBand) s

/-- The out-of-band run has reached LOSS_LIMIT at a sample (R12). -/
def State.bandLossDue (s : State) : Bool :=
  s.drum.state == .bandWarning && s.drum.lossDue

/-- BAND_LOST (R12, R88). -/
def execBandLost (s : State) : Host.Outcome State Fault Refusal :=
  whenDeliver State.bandLossDue (fun s => s.mapDrum (·.loseBand s.profile.drum s.now)) s

/-- PARK_REST_EXPIRY (R6). -/
def execParkRestExpiry (s : State) : Host.Outcome State Fault Refusal :=
  when (fun s => s.drum.state == .parking && expired s.drum.rest s.now)
    (fun s => s.mapDrum Drum.enterStopped) s

/-- RAMP_TICK (R8). -/
def execRampTick (s : State) : Host.Outcome State Fault Refusal :=
  when (fun s => s.drum.state == .ramping && expired s.drum.rampTick s.now)
    (fun s => s.mapDrum (·.rampStep s.profile.drum s.now)) s

/-- A detection of the spin-up timer is to be taken (R10, R17). -/
def State.spinUpDue (s : State) : Bool := s.drum.spinUpDue || s.drum.spinUpOver s.profile.drum s.now

/-- SPINUP_TIMEOUT (R10, R14): the timer stops, and STALL is a fault event. -/
def execSpinupTimeout (s : State) : Host.Outcome State Fault Refusal :=
  whenDeliver State.spinUpDue
    (fun s => (s.mapDrum (·.takeSpinUp s.profile.drum s.now)).drumFault .stall) s

/-- A detection of the stall timer is to be taken (R14, R17). -/
def State.stallDue (s : State) : Bool := s.drum.stallDue || s.drum.stallOver s.profile.drum s.now

/-- STALL_TIMEOUT (R14): STALL is a fault event. -/
def execStallTimeout (s : State) : Host.Outcome State Fault Refusal :=
  whenDeliver State.stallDue
    (fun s => (s.mapDrum (·.takeStall s.profile.drum s.now)).drumFault .stall) s

/-- ILIM_TRIP (R13, R16): in the on-time, PWM is inactive for the rest of the period, which is one in which ILIM
tripped. A trip outside the on-time is ignored and its period does not count (DESIGN CHOICE, log entry 42). -/
def execIlimTrip (s : State) : Host.Outcome State Fault Refusal :=
  when (fun s => s.drum.pwmOn s.crystal)
    (fun s => s.mapDrum fun d => { d with pwm := { d.pwm with tripped := true } }) s

/-- PWM_PERIOD_END (R13, R16). -/
def execPwmPeriodEnd (s : State) : Host.Outcome State Fault Refusal :=
  when (fun s => decide (s.drum.pwm.start + pwmPeriod ≤ s.crystal))
    (fun s => s.mapDrum (·.endPwmPeriod s.profile.drum)) s

/-- OVERCURRENT_DETECTED (R16): the run becomes 0, and OVERCURRENT is a fault event. -/
def execOvercurrentDetected (s : State) : Host.Outcome State Fault Refusal :=
  whenDeliver (·.drum.overcurrentDue)
    (fun s => (s.mapDrum fun d => { d with ocRun := 0, overcurrentDue := false }).drumFault .overcurrent) s

/-- FAULT_WAIT_EXPIRY (R18): RAMPING from ref 0 toward the target in force. -/
def execFaultWaitExpiry (s : State) : Host.Outcome State Fault Refusal :=
  when (fun s => s.drum.state == .faultWait && expired s.drum.wait s.now)
    (fun s => s.mapDrum fun d => { d with ref := 0 }.enterRamping s.profile.drum s.now) s

end Sys2Proof.Machine
end

