-- ==== Sys2Proof/Machine/GateCommands.lean ====
section
/-! DEFINITION. The meanings of the host's cycles and of the control requester's words that complete no
operation result (09_the_memory_path.md). -/

namespace Sys2Proof.Machine

/-- A read made while RESET is asserted waits for the release (R168). -/
def State.parkRead (a : Nat) (s : State) : State :=
  s.withGate { s.gate with read := some { addr := a, target := a, held := none } }

/-- HOST_READ (R154, R162, R168): a read of the word that holds the byte, when the bus carries no other
cycle. -/
def execHostRead (addr : Addr) (s : State) : Host.Outcome State Fault Refusal :=
  if s.inReset then .next (if s.gate.busFree then s.parkRead (wordAddr addr.toNat) else s)
  else when (fun s => s.gate.busFree) (State.takeRead (wordAddr addr.toNat)) s

/-- The host read that is in progress on the port. -/
def State.readDue (s : State) : Option HostRead := if s.gate.port = some .hostRead then s.gate.read else none

/-- HOST_READ_DATA (R164): the data is memory as it stands when the word is read. -/
def execHostReadData (s : State) : Host.Outcome State Fault Refusal :=
  live
    (fun s =>
      match s.readDue with
      | some r => s.withGate { s.gate with port := none, read := none, readData := s.mem.word r.target }
      | none => s) s

/-- The write of a host cycle. -/
def hostWriteOf (addr : Addr) (data : Word) (be : ByteEnables) : HostWrite :=
  { addr := wordAddr addr.toNat, data := data, be := be }

/-- A write made while RESET is asserted waits for the release (R168). -/
def State.parkWrite (w : HostWrite) (s : State) : State := s.withGate { s.gate with waiting := some w }

/-- HOST_WRITE (R155, R158, R159, R168): a write to the word that holds the byte, when the bus carries no
other cycle. -/
def execHostWrite (addr : Addr) (data : Word) (be : ByteEnables) (s : State) :
    Host.Outcome State Fault Refusal :=
  if s.inReset then .next (if s.gate.busFree then s.parkWrite (hostWriteOf addr data be) else s)
  else when (fun s => s.gate.busFree) (State.acceptWrite (hostWriteOf addr data be)) s

/-- HOST_WRITE_DRAIN (R155, R156, R160). -/
def execHostWriteDrain (s : State) : Host.Outcome State Fault Refusal :=
  live
    (fun s =>
      match s.gate.port, s.gate.buffer with
      | some .hostWrite, w :: rest => s.drain w rest
      | _, _ => s) s

/-- The control requester's word in progress has no command of its own (R165). -/
def State.plainControlDue (s : State) : Bool :=
  match s.gate.controlOp with
  | some op => !op.ownResult
  | none => false

/-- CONTROL_WORD_DONE (R165). -/
def execControlWordDone (s : State) : Host.Outcome State Fault Refusal :=
  when State.plainControlDue State.controlStep s

end Sys2Proof.Machine
end

