-- ==== Sys2Proof/Machine/JobCommands.lean ====
section
/-! DEFINITION. The meanings of the Job Controller's commands
(06_transmission_control_blocks_and_the_job_queue.md; 07_destinations_attempts_and_retries.md). -/

namespace Sys2Proof.Machine

/-! ## The panel (R108, R109, R111, R112) -/

/-- CLAMP shows the clamp open (R108). -/
def Jobs.clampOpened (j : Jobs) : Jobs := { j with clampClosed := false, mount := .opened }

/-- CLAMP shows the clamp closed (R108). -/
def Jobs.clampShut (j : Jobs) : Jobs :=
  { j with clampClosed := true, mount := if j.mount = .opened then .fresh else j.mount }

/-- The clamp opens: in ATTEMPTING and RETRY_WAIT the drum is parked by brake and the job ends
MEDIA_REMOVED (R108, R111). -/
def State.clampOpen (bandLostFirst late : Bool) (s : State) : State :=
  let s := s.mapJobs Jobs.clampOpened
  if s.jobs.endable then
    if late && s.jobs.attemptInProgress then s.causeLate .mediaRemoved none
    else (s.park .brake).endJob .mediaRemoved bandLostFirst
  else s

/-- CLAMP_OPEN (R108, R111, R132). -/
def execClampOpen (bandLostFirst late : Bool) (s : State) : Host.Outcome State Fault Refusal :=
  whenLevel (fun s => s.mapJobs Jobs.clampOpened) (fun s => s.jobs.clampClosed)
    (State.clampOpen bandLostFirst late) s

/-- CLAMP_CLOSE (R108, R109). -/
def execClampClose (s : State) : Host.Outcome State Fault Refusal :=
  whenLevel (fun s => s.mapJobs Jobs.clampShut) (fun s => !s.jobs.clampClosed)
    (fun s => (s.mapJobs Jobs.clampShut).leaveMountWait) s

/-- STOP_KEY (R112, R132). -/
def execStopKey (late : Bool) (s : State) : Host.Outcome State Fault Refusal :=
  whenDeliver (fun s => s.jobs.endable) (State.endJobAs late .operatorStop) s

/-! ## Results and parking (R115, R119, R120) -/

/-- The last word of the results writes is in progress on the port. -/
def State.resultsDue (s : State) : Bool :=
  match s.gate.controlOp with
  | some op => (op.kind == .results) && op.atLast
  | none => false

/-- JOB_RESULTS_WRITTEN (R119, R120). -/
def execJobResultsWritten (s : State) : Host.Outcome State Fault Refusal :=
  whenDeliver State.resultsDue (fun s => s.controlStep.finishJob) s

/-- The job whose aborted results have their last word in progress on the port. -/
def State.abortedDue (s : State) : Option Job :=
  match s.gate.controlOp with
  | some op =>
    match op.kind with
    | .abortedResults j => if op.atLast then some j else none
    | _ => none
  | none => none

/-- ABORTED_RESULTS_WRITTEN (R115, R184). -/
def execAbortedResultsWritten (s : State) : Host.Outcome State Fault Refusal :=
  live
    (fun s =>
      match s.abortedDue with
      | some j => s.controlStep.abortedWritten j
      | none => s) s

/-- PARK_DELAY_EXPIRY (R120). -/
def execParkDelayExpiry (s : State) : Host.Outcome State Fault Refusal :=
  whenDeliver (fun s => expired s.jobs.parkTimer s.now)
    (fun s => (s.mapJobs fun j => { j with parkTimer := none }).park s.profile.drum.parkMode) s

/-! ## The Directory (R129, R130, R138) -/

/-- The last word of a Directory read is in progress on the port; whether its start is still wanted. -/
def State.directoryDue (s : State) : Option Bool :=
  match s.gate.controlOp with
  | some op =>
    match op.kind with
    | .directoryRead wanted => if op.atLast then some wanted else none
    | _ => none
  | none => none

/-- DIRECTORY_READ_DONE (R123, R129, R130). -/
def execDirectoryReadDone (s : State) : Host.Outcome State Fault Refusal :=
  live
    (fun s =>
      match s.directoryDue with
      | some true => (s.controlStep.beginAttempt s.wordsRead).deliver
      | some false => s.controlStep
      | none => s) s

/-- The address of the word an operation has in progress. -/
def Op.nextAddr (op : Op) : Nat :=
  match op.todo with
  | .rd a :: _ => a
  | .wr x :: _ => x.addr
  | [] => 0

/-- The write-back that follows the history read: the same operation goes on with its four writes (R138). -/
def Op.writeBack (op : Op) (sent : Bool) (outcome : Nat) (time : TimeOfDay) (caption : Nat)
    (words : List Word) : Op where
  kind := .historyWrite
  todo := (wordsFrom (op.nextAddr - 12) (historyWords sent outcome time caption words)).map .wr
  got := []

/-- The write-back due when the last history word is in progress on the port (R138). -/
def State.historyDue (s : State) : Option Op :=
  match s.gate.controlOp with
  | some op =>
    match op.kind with
    | .historyRead sent outcome time caption =>
      if op.atLast then some (op.writeBack sent outcome time caption s.wordsRead) else none
    | _ => none
  | none => none

/-- HISTORY_READ_DONE (R138). -/
def execHistoryReadDone (s : State) : Host.Outcome State Fault Refusal :=
  live
    (fun s =>
      match s.historyDue with
      | some op =>
        let s := s.controlStep
        s.withGate { s.gate with ops := op :: s.gate.ops }
      | none => s) s

/-- A second tick, handed to the Job Controller (R127, R135, R140). -/
def State.tick (s : State) : State := (s.withClock s.clock.tick).retryDue.look

/-- CLOCK_TICK (R140). -/
def execClockTick (s : State) : Host.Outcome State Fault Refusal :=
  when (fun s => expired s.clock.nextTick s.now) State.tick s

end Sys2Proof.Machine
end

