-- ==== Sys2Proof/Machine/LayoutCommands.lean ====
section
/-! DEFINITION. The meanings of the commands of Layout and Profile (10_layout_and_profile.md) and of the
three action words (R19, R141, R180). -/

namespace Sys2Proof.Machine

/-- LAYOUT_GENERATION_WRITE (R170). -/
def execLayoutGenerationWrite (s : State) : Host.Outcome State Fault Refusal :=
  live
    (fun s =>
      match s.gate.toLayout with
      | .generation :: _ => s.popLayout.generationWritten
      | _ => s) s

/-- The last word of the Layout Block is in progress on the port. -/
def State.blockDue (s : State) : Bool :=
  match s.gate.controlOp with
  | some op => (op.kind == .blockRead) && op.atLast
  | none => false

/-- LAYOUT_BLOCK_READ (R171, R172, R173). -/
def execLayoutBlockRead (s : State) : Host.Outcome State Fault Refusal :=
  when State.blockDue (fun s => s.controlStep.blockArrived s.wordsRead) s

/-- The Profile Area word of a load that is in progress on the port: its number, and whether it is the
last. -/
def State.loadWord (s : State) : Option (Nat × Bool) :=
  match s.gate.controlOp with
  | some op => if op.kind = .profileRead then some (op.got.length, op.atLast) else none
  | none => none

/-- The end of a load whose last profile word has been taken (R173). -/
def State.endOfProfile (s : State) : State :=
  match s.layout.load with
  | some (.profile l) => s.endProfileLoad l
  | _ => s

/-- LOAD_PROFILE_WORD (R172, R173, R174). -/
def execLoadProfileWord (s : State) : Host.Outcome State Fault Refusal :=
  live
    (fun s =>
      match s.loadWord with
      | some (w, isLast) =>
        let s := s.controlStep.profileArrived w (wordAt s.wordsRead w)
        if isLast then s.endOfProfile else s
      | none => s) s

/-- The oldest watched write is one to an action word (R179). -/
def isAction (w : Nat) : Bool := w == clockSetWord || w == drumClearWord || w == counterClearWord

/-- PROFILE_CAPTURE (R176, R177). A word that holds no value is neither captured nor counted. -/
def execProfileCapture (s : State) : Host.Outcome State Fault Refusal :=
  live
    (fun s =>
      match s.gate.toLayout with
      | .profile w data be :: _ =>
        if isAction w then s
        else if isValueWord w then s.popLayout.tryCapture w data be
        else s.popLayout
      | _ => s) s

/-- CLOCK_SET (R141, R176, R179). -/
def execClockSet (s : State) : Host.Outcome State Fault Refusal :=
  live
    (fun s =>
      match s.gate.toLayout with
      | .profile w data be :: _ =>
        if w = clockSetWord then
          s.popLayout.tryAction w data be
            ((clockSetTime data).map fun time => fun s => s.withClock (s.clock.setTime time))
        else s
      | _ => s) s

/-- The Drum Clear, and the look that a drum leaving LATCHED gives (R19, R127). -/
def State.clearDrum (s : State) : State :=
  let s' := s.mapDrum (·.clear s.profile.drum s.now)
  if s.drum.state = .latched then s'.look else s'

/-- DRUM_CLEAR (R19, R176, R179). -/
def execDrumClear (s : State) : Host.Outcome State Fault Refusal :=
  live
    (fun s =>
      match s.gate.toLayout with
      | .profile w data be :: _ =>
        if w = drumClearWord then
          s.popLayout.tryAction w data be (if actionField data then some State.clearDrum else none)
        else s
      | _ => s) s

/-- COUNTER_CLEAR (R176, R179, R180). -/
def execCounterClear (s : State) : Host.Outcome State Fault Refusal :=
  live
    (fun s =>
      match s.gate.toLayout with
      | .profile w data be :: _ =>
        if w = counterClearWord then
          s.popLayout.tryAction w data be (if actionField data then some State.clearCounters else none)
        else s
      | _ => s) s

end Sys2Proof.Machine
end

