-- ==== Sys2Proof/Machine/LineCommands.lean ====
section
/-! DEFINITION. The meanings of the line's commands (05_calls.md; 03_the_tone_path.md, The carrier
generator). -/

namespace Sys2Proof.Machine

/-- CARRIER_TOGGLE (R54). -/
def execCarrierToggle (s : State) : Host.Outcome State Fault Refusal :=
  when (fun s => s.line.relay && s.line.carrier.toggleDue s.crystal)
    (fun s => s.mapLine fun l => { l with carrier := l.carrier.toggle }) s

/-- SEIZE_WAIT_EXPIRY (R79, R80). -/
def execSeizeWaitExpiry (s : State) : Host.Outcome State Fault Refusal :=
  when (fun s => s.line.state == .seizeWait && expired s.line.seizeTimer s.now)
    (fun s => s.mapLine (·.enterDialing s.now)) s

/-- A break or a make of the dialing is due to end. -/
def State.dialDue (phase : DialPhase) (s : State) : Bool :=
  s.line.state == .dialing && s.line.dialPhase == some phase && expired s.line.dialTimer s.now

/-- When the break or make in progress is due to end. -/
def Line.dialEnd (l : Line) : Nat := l.dialTimer.getD 0

/-- DIAL_BREAK_END (R80, R81, R82). -/
def execDialBreakEnd (s : State) : Host.Outcome State Fault Refusal :=
  when (State.dialDue .brk) (fun s => s.mapLine fun l => l.endBreak l.dialEnd) s

/-- DIAL_MAKE_END (R80, R81, R85). -/
def execDialMakeEnd (s : State) : Host.Outcome State Fault Refusal :=
  when (State.dialDue .mk) (fun s => s.mapLine fun l => l.endMake l.dialEnd) s

/-- LOOP_CHANGE (R82, R98). -/
def execLoopChange (present : Bool) (s : State) : Host.Outcome State Fault Refusal :=
  whenLevel (fun s => s.mapLine fun l => { l with loop := present }) (fun s => s.line.loop != present)
    (fun s => s.mapLine (·.loopChange s.now present)) s

/-- The line is lost (R82). -/
def State.loseLine (s : State) : State :=
  if s.line.state = .stopTone then s.mapLine (·.openRelay s.now)
  else if s.line.state.attempting then s.endAttempt .lineLost .none false
  else s

/-- LOOP_LOSS (R82). -/
def execLoopLoss (s : State) : Host.Outcome State Fault Refusal :=
  whenDeliver (fun s => s.line.loopLost s.now) State.loseLine s

/-- TONE_WINDOW_END (R83, R84). -/
def execToneWindowEnd (crossings : Nat) (s : State) : Host.Outcome State Fault Refusal :=
  when (fun s => s.line.relay && expired s.line.monitor.windowEnd s.now)
    (fun s => s.mapLine (·.windowDone crossings)) s

/-- TONE_RECOGNISED: the Line Unit takes the recognition in the state it is then in, RELEASE_GUARD among
them (R84, R85, R91). -/
def execToneRecognised (s : State) : Host.Outcome State Fault Refusal :=
  live
    (fun s =>
      match s.line.toneDue with
      | some tone => ((s.mapLine (·.noteTone tone)).actOnTone tone).deliver
      | none => s) s

/-- ANSWER_TIMEOUT (R85). -/
def execAnswerTimeout (s : State) : Host.Outcome State Fault Refusal :=
  whenDeliver (fun s => s.line.state == .answerWait && expired s.line.answerTimer s.now)
    (fun s => s.endAttempt .noAnswer .none false) s

/-- START_TONE_EXPIRY (R86). -/
def execStartToneExpiry (s : State) : Host.Outcome State Fault Refusal :=
  when (fun s => s.line.state == .startTone && expired s.line.startToneTimer s.now)
    (fun s => s.mapLine (·.enterReadyWait s.now)) s

/-- READY_WAIT_EXPIRY (R87). -/
def execReadyWaitExpiry (s : State) : Host.Outcome State Fault Refusal :=
  whenDeliver (fun s => s.line.state == .readyWait && expired s.line.readyTimer s.now)
    (fun s => s.endAttempt s.notReadyOutcome.1 s.notReadyOutcome.2 true) s

/-- PHASING_END (R88, R89). -/
def execPhasingEnd (s : State) : Host.Outcome State Fault Refusal :=
  whenDeliver (fun s => s.line.phasingOver) State.endPhasing s

/-- STOP_TONE_EXPIRY (R95, R96). -/
def execStopToneExpiry (s : State) : Host.Outcome State Fault Refusal :=
  when (fun s => s.line.state == .stopTone && expired s.line.stopToneTimer s.now)
    (fun s => s.mapLine (·.openRelay s.now)) s

/-- The line is at rest, and the Job Controller is told (R96, R127). -/
def State.lineRests (s : State) : State :=
  ((s.mapLine Line.hangUp).mapJobs fun j => { j with lineAtRest := true }).look

/-- RELEASE_GUARD_EXPIRY (R96, R127). -/
def execReleaseGuardExpiry (s : State) : Host.Outcome State Fault Refusal :=
  when (fun s => s.line.state == .releaseGuard && expired s.line.guardTimer s.now) State.lineRests s

end Sys2Proof.Machine
end

