-- ==== Sys2Proof/Machine/MailCommands.lean ====
section
/-! DEFINITION. The meanings of the mailbox commands (11_mailboxes.md; R100 to R104, R115, R116). -/

namespace Sys2Proof.Machine

/-- The Send entry whose word 1 is in progress on the port: its number, the address in word 0 and the
action byte that the read returns (R183). -/
def State.sendEntry (s : State) : Option (Nat × Nat × Nat) :=
  match s.gate.controlOp with
  | some op =>
    match op.kind with
    | .sendRead e =>
      if op.atLast then some (e, (wordAt s.wordsRead 0).toNat, field (wordAt s.wordsRead 1) 0 8) else none
    | _ => none
  | none => none

/-- The entry has been read: the word completes and the note is cleared (R182, R183). -/
def State.takeEntry (e : Nat) (s : State) : State := s.controlStep.entryRead e

/-- START_ENTRY (R100, R184). -/
def execStartEntry (s : State) : Host.Outcome State Fault Refusal :=
  live
    (fun s =>
      match s.sendEntry with
      | some (e, a, action) => if action = actionStart then (s.takeEntry e).fetchMember none [] a else s
      | none => s) s

/-- ABORT_ENTRY (R115, R116, R184). -/
def execAbortEntry (late : Bool) (ahead : Nat) (s : State) : Host.Outcome State Fault Refusal :=
  live
    (fun s =>
      match s.sendEntry with
      | some (e, a, action) => if action = actionAbort then ((s.takeEntry e).abort late ahead a).deliver else s
      | none => s) s

/-- FREE_ENTRY (R184). -/
def execFreeEntry (s : State) : Host.Outcome State Fault Refusal :=
  live
    (fun s =>
      match s.sendEntry with
      | some (e, _, action) => if action = actionFree then (s.takeEntry e).endTake else s
      | none => s) s

/-- BAD_ACTION_ENTRY (R184, R191). -/
def execBadActionEntry (s : State) : Host.Outcome State Fault Refusal :=
  live
    (fun s =>
      match s.sendEntry with
      | some (e, a, action) =>
        if actionAbort < action then
          ((s.takeEntry e).handOn (loneCompletion a .refused (some .badAction))).endTake
        else s
      | none => s) s

/-- The last word of a chain member is in progress on the port. -/
def State.memberDue (s : State) : Bool :=
  match s.gate.controlOp with
  | some op => (op.kind == .memberRead) && op.atLast
  | none => false

/-- TCB_MEMBER_READ (R100 to R104, R106). -/
def execTcbMemberRead (s : State) : Host.Outcome State Fault Refusal :=
  when State.memberDue (fun s => s.controlStep.memberArrived s.wordsRead) s

/-- The oldest watched write handed to the Mailbox Unit has been acted on. -/
def State.popMailbox (s : State) : State := s.withGate { s.gate with toMailbox := s.gate.toMailbox.tail }

/-- SEND_ACTION_WRITE (R182). -/
def execSendActionWrite (s : State) : Host.Outcome State Fault Refusal :=
  live
    (fun s =>
      match s.gate.toMailbox with
      | .send e :: _ => s.popMailbox.withMailbox (s.mailbox.note e)
      | _ => s) s

/-- TAKE_START (R183). -/
def execTakeStart (s : State) : Host.Outcome State Fault Refusal := when State.takeReady State.beginTake s

/-- RETURN_FREE_WRITE (R165, R186, R187): a Directory read that the emptied Backlog lets begin may enter the
control requester's list ahead of the postings of this moment. -/
def execReturnFreeWrite (ahead : Nat) (s : State) : Host.Outcome State Fault Refusal :=
  live
    (fun s =>
      match s.gate.toMailbox with
      | .ret n action :: _ =>
        (s.popMailbox.withMailbox (s.mailbox.hostFree n action)).serveBacklog.slideLast s.gate.ops.length ahead
      | _ => s) s

/-- The posting whose last word is in progress on the port: its slot, and whether it is quiet. -/
def State.postingDue (s : State) : Option (Option Nat × Bool) :=
  match s.gate.controlOp with
  | some op =>
    match op.kind with
    | .posting slot quiet => if op.atLast then some (slot, quiet) else none
    | _ => none
  | none => none

/-- RETURN_POSTING_DONE (R185, R188, R189). -/
def execReturnPostingDone (s : State) : Host.Outcome State Fault Refusal :=
  live
    (fun s =>
      match s.postingDue with
      | some (slot, quiet) => s.controlStep.posted slot quiet
      | none => s) s

end Sys2Proof.Machine
end

