-- ==== Sys2Proof/Machine/ScanCommands.lean ====
section
/-! DEFINITION. The meanings of the scanner's and the send prefetch's commands
(02_carriage_and_scanning.md, The Scan Unit; 04_the_line_ring.md, Send prefetch). -/

namespace Sys2Proof.Machine

/-- WARM_UP_EXPIRY (R31). -/
def execWarmUpExpiry (s : State) : Host.Outcome State Fault Refusal :=
  when (fun s => s.scan.state == .warming && expired s.scan.warm s.now)
    (fun s => s.withScan s.scan.warmed) s

/-- REFERENCE_SAMPLE (R23). -/
def execReferenceSample (cell : Sample) (s : State) : Host.Outcome State Fault Refusal :=
  when (fun s => s.scan.sampling && s.refDue)
    (fun s => s.withScan (s.scan.takeRef (s.drum.interval.getD 0) cell)) s

/-- SLOT_EVENT (R22, R35, R67). -/
def execSlotEvent (cell : Sample) (s : State) : Host.Outcome State Fault Refusal :=
  live
    (fun s =>
      match s.nextSlot with
      | some (n, k, i) => if s.slotDue k i then s.fallSlot n k i cell else s
      | none => s) s

/-- The port is free after a write of the scan writer. -/
def State.scanWrote (x : Access) (s : State) : State :=
  { s with mem := s.mem.write x, gate := { s.gate with port := none } }

/-- A scan FIFO entry has reached memory (R36). -/
def State.entryWritten (x : Access) (isLive : Bool) (s : State) : State :=
  let s := s.scanWrote x
  if isLive then s.withScan { s.scan with fifo := s.scan.fifo.tail } else s

/-- A header word has reached memory; the last is the line's line-complete (R37). -/
def State.headerWritten (x : Access) (isLive : Bool) (s : State) : State :=
  let s := s.scanWrote x
  if isLive then
    let s := s.withScan s.scan.headerStep
    if s.scan.headerDone then s.lineComplete else s
  else s

/-- SCAN_WORD_WRITTEN (R36, R37, R38). -/
def execScanWordWritten (s : State) : Host.Outcome State Fault Refusal :=
  live
    (fun s =>
      match s.gate.port with
      | some (.scanEntry x b) => s.entryWritten x b
      | some (.scanHeader x b) => (s.headerWritten x b).deliver
      | _ => s) s

/-- A prefetched word arrives: it joins the buffer with its number, and the pointer moves on (R66). -/
def Ring.prefetched (word : Nat) (data : Word) (r : Ring) : Ring :=
  { r with buffer := r.buffer ++ [(word, data)], fetch := word + 1 }

/-- PREFETCH_WORD_ARRIVED (R66). -/
def execPrefetchWordArrived (s : State) : Host.Outcome State Fault Refusal :=
  live
    (fun s =>
      match s.gate.port with
      | some (.prefetch a word b) =>
        let s := s.withGate { s.gate with port := none }
        if b then s.withRing (s.ring.prefetched word (s.mem.word a)) else s
      | _ => s) s

end Sys2Proof.Machine
end

