-- ==== Sys2Proof/Machine/SlipCommands.lean ====
section
/-! DEFINITION. The meanings of the slip's commands (08_receipt_slips_and_the_desk_clock.md). -/

namespace Sys2Proof.Machine

/-- Applies `f` to the Slip Unit. -/
def State.mapSlips (f : SlipUnit → SlipUnit) (s : State) : State := s.withSlips (f s.slips)

/-- The word of the Slip Log writer that is in progress on the port. -/
def State.logWord (s : State) : Option Access :=
  if s.gate.port = some .slipLog then s.slips.nextLogWord else none

/-- SLIP_LOG_WORD_WRITTEN (R144). -/
def execSlipLogWordWritten (s : State) : Host.Outcome State Fault Refusal :=
  live
    (fun s =>
      match s.logWord with
      | some x =>
        { s with
          mem := s.mem.write x, gate := { s.gate with port := none }, slips := s.slips.logWordDone }
      | none => s) s

/-- The character on SLIP_TXD has had its ten bits (R147). -/
def SlipUnit.charOver (t : Nat) (u : SlipUnit) : Bool :=
  match u.txd with
  | some ch => decide (ch.start + txFrame ≤ t)
  | none => false

/-- SLIP_CHARACTER_END (R148, R149, R150). Where no character has ended, an active level of SLIP_BUSY is noted
(R148; DESIGN CHOICE, log entry 7). -/
def execSlipCharacterEnd (busy : Bool) (s : State) : Host.Outcome State Fault Refusal :=
  if s.inReset then .next (s.mapSlips (·.noteBusy busy))
  else
    live
      (fun s => s.mapSlips fun u => if u.charOver s.now then u.charEnd s.now busy else u.noteBusy busy) s

/-- SLIP_BUSY_RELEASE (R148). -/
def execSlipBusyRelease (s : State) : Host.Outcome State Fault Refusal :=
  whenLevel (fun s => s.mapSlips fun u => { u with busy := false }) (fun s => s.slips.busy)
    (fun s => s.mapSlips (·.busyRelease s.now)) s

/-- PAPER_OUT (R150, R151). -/
def execPaperOut (s : State) : Host.Outcome State Fault Refusal :=
  whenLevel (fun s => s.mapSlips fun u => { u with paper := false }) (fun s => s.slips.paper)
    (fun s => s.mapSlips fun u => { u with paper := false }.enterPaperOut) s

/-- PAPER_PRESENT (R151): the paper return timer starts from zero. -/
def execPaperPresent (s : State) : Host.Outcome State Fault Refusal :=
  whenLevel (fun s => s.mapSlips fun u => { u with paper := true }) (fun s => !s.slips.paper)
    (fun s => s.mapSlips fun u =>
      { u with paper := true, paperTimer := if u.printer = .paperOut then some s.now else none }) s

/-- PAPER_RETURN_EXPIRY (R151): the timer has run 1 s. -/
def execPaperReturnExpiry (s : State) : Host.Outcome State Fault Refusal :=
  when (fun s => s.slips.printer == .paperOut && hasRun s.slips.paperTimer 1000000 s.now)
    (fun s => s.mapSlips (·.paperReturned s.now)) s

end Sys2Proof.Machine
end

