-- ==== Sys2Proof/Machine/Dispatch.lean ====
section
/-! DEFINITION. The meaning of every command: one arm per row of spec/opcode_table.json. -/

namespace Sys2Proof.Machine

/-- The effect of a command on everything but the queue of waiting commands. -/
def exec (i : Instr) (s : State) : Host.Outcome State Fault Refusal :=
  match i with
  | .reset => Sys2Proof.Machine.execReset s
  | .resetRelease => Sys2Proof.Machine.execResetRelease s
  | .indexPulse => Sys2Proof.Machine.execIndexPulse s
  | .tachEvent cells scanFirst => Sys2Proof.Machine.execTachEvent cells scanFirst s
  | .slipDetected => Sys2Proof.Machine.execSlipDetected s
  | .regulationSample => Sys2Proof.Machine.execRegulationSample s
  | .bandEntry => Sys2Proof.Machine.execBandEntry s
  | .bandLost => Sys2Proof.Machine.execBandLost s
  | .parkRestExpiry => Sys2Proof.Machine.execParkRestExpiry s
  | .rampTick => Sys2Proof.Machine.execRampTick s
  | .spinupTimeout => Sys2Proof.Machine.execSpinupTimeout s
  | .stallTimeout => Sys2Proof.Machine.execStallTimeout s
  | .ilimTrip => Sys2Proof.Machine.execIlimTrip s
  | .overcurrentDetected => Sys2Proof.Machine.execOvercurrentDetected s
  | .faultWaitExpiry => Sys2Proof.Machine.execFaultWaitExpiry s
  | .drumClear => Sys2Proof.Machine.execDrumClear s
  | .counterClear => Sys2Proof.Machine.execCounterClear s
  | .clockSet => Sys2Proof.Machine.execClockSet s
  | .homingStep => Sys2Proof.Machine.execHomingStep s
  | .homingFault => Sys2Proof.Machine.execHomingFault s
  | .positionStep => Sys2Proof.Machine.execPositionStep s
  | .arrival => Sys2Proof.Machine.execArrival s
  | .limitAsserted => Sys2Proof.Machine.execLimitAsserted s
  | .homeAsserted => Sys2Proof.Machine.execHomeAsserted s
  | .trackStep => Sys2Proof.Machine.execTrackStep s
  | .warmUpExpiry => Sys2Proof.Machine.execWarmUpExpiry s
  | .referenceSample cell => Sys2Proof.Machine.execReferenceSample cell s
  | .slotEvent cell => Sys2Proof.Machine.execSlotEvent cell s
  | .scanWordWritten => Sys2Proof.Machine.execScanWordWritten s
  | .prefetchWordArrived => Sys2Proof.Machine.execPrefetchWordArrived s
  | .carrierToggle => Sys2Proof.Machine.execCarrierToggle s
  | .seizeWaitExpiry => Sys2Proof.Machine.execSeizeWaitExpiry s
  | .dialBreakEnd => Sys2Proof.Machine.execDialBreakEnd s
  | .dialMakeEnd => Sys2Proof.Machine.execDialMakeEnd s
  | .loopChange present => Sys2Proof.Machine.execLoopChange present s
  | .loopLoss => Sys2Proof.Machine.execLoopLoss s
  | .toneWindowEnd crossings => Sys2Proof.Machine.execToneWindowEnd crossings s
  | .toneRecognised => Sys2Proof.Machine.execToneRecognised s
  | .answerTimeout => Sys2Proof.Machine.execAnswerTimeout s
  | .startToneExpiry => Sys2Proof.Machine.execStartToneExpiry s
  | .readyWaitExpiry => Sys2Proof.Machine.execReadyWaitExpiry s
  | .phasingEnd => Sys2Proof.Machine.execPhasingEnd s
  | .stopToneExpiry => Sys2Proof.Machine.execStopToneExpiry s
  | .releaseGuardExpiry => Sys2Proof.Machine.execReleaseGuardExpiry s
  | .startEntry => Sys2Proof.Machine.execStartEntry s
  | .abortEntry late ahead => Sys2Proof.Machine.execAbortEntry late ahead s
  | .freeEntry => Sys2Proof.Machine.execFreeEntry s
  | .badActionEntry => Sys2Proof.Machine.execBadActionEntry s
  | .tcbMemberRead => Sys2Proof.Machine.execTcbMemberRead s
  | .clampOpen bandLostFirst late => Sys2Proof.Machine.execClampOpen bandLostFirst late s
  | .clampClose => Sys2Proof.Machine.execClampClose s
  | .stopKey late => Sys2Proof.Machine.execStopKey late s
  | .jobResultsWritten => Sys2Proof.Machine.execJobResultsWritten s
  | .abortedResultsWritten => Sys2Proof.Machine.execAbortedResultsWritten s
  | .parkDelayExpiry => Sys2Proof.Machine.execParkDelayExpiry s
  | .directoryReadDone => Sys2Proof.Machine.execDirectoryReadDone s
  | .historyReadDone => Sys2Proof.Machine.execHistoryReadDone s
  | .clockTick => Sys2Proof.Machine.execClockTick s
  | .slipLogWordWritten => Sys2Proof.Machine.execSlipLogWordWritten s
  | .slipCharacterEnd busy => Sys2Proof.Machine.execSlipCharacterEnd busy s
  | .slipBusyRelease => Sys2Proof.Machine.execSlipBusyRelease s
  | .paperOut => Sys2Proof.Machine.execPaperOut s
  | .paperPresent => Sys2Proof.Machine.execPaperPresent s
  | .paperReturnExpiry => Sys2Proof.Machine.execPaperReturnExpiry s
  | .hostRead addr => Sys2Proof.Machine.execHostRead addr s
  | .hostReadData => Sys2Proof.Machine.execHostReadData s
  | .hostWrite addr data be => Sys2Proof.Machine.execHostWrite addr data be s
  | .hostWriteDrain => Sys2Proof.Machine.execHostWriteDrain s
  | .controlWordDone => Sys2Proof.Machine.execControlWordDone s
  | .sendActionWrite => Sys2Proof.Machine.execSendActionWrite s
  | .takeStart => Sys2Proof.Machine.execTakeStart s
  | .returnFreeWrite ahead => Sys2Proof.Machine.execReturnFreeWrite ahead s
  | .returnPostingDone => Sys2Proof.Machine.execReturnPostingDone s
  | .layoutGenerationWrite => Sys2Proof.Machine.execLayoutGenerationWrite s
  | .layoutBlockRead => Sys2Proof.Machine.execLayoutBlockRead s
  | .loadProfileWord => Sys2Proof.Machine.execLoadProfileWord s
  | .profileCapture => Sys2Proof.Machine.execProfileCapture s
  | .pwmPeriodEnd => Sys2Proof.Machine.execPwmPeriodEnd s

end Sys2Proof.Machine
end

