-- ==== Sys2Proof/Machine/Step.lean ====
section
/-! DEFINITION. One step: the command at the front of the queue, or, with no command waiting, one count of
the crystal (DESIGN CHOICE, log entries 1 and 27). -/

namespace Sys2Proof.Machine

/-- The end of a moment: the requests of an end cause that are still on their way reach their units (R114). -/
def State.endMoment (s : State) : State :=
  if s.jobs.requestsDue.isSome then finish s s.completeEnd.deliver else s

/-- One count of the 4 MHz crystal, with the end of every step (DESIGN CHOICE, log entry 1). -/
def State.crystalTick (s : State) : State :=
  let s := s.endMoment
  finish s { s with crystal := s.crystal + 1 }

/-- The command at the front of the queue, on the state with the queue's rest; on an empty queue the
crystal counts on. -/
def step (s : State) : Host.Outcome State Fault Refusal :=
  match s.pending with
  | [] => .next s.crystalTick
  | c :: q => exec c (s.withPending q)

/-- The state with the command that a table word spells at the front of its queue; no word spells one. -/
def State.withFetchWord (s : State) (nbits w : Nat) : State :=
  match decodeTableWord nbits w with
  | some c => s.withPending (c :: s.pending)
  | none => s

end Sys2Proof.Machine
end

