-- ==== Sys2Proof/Safety.lean ====
section
/-! DEFINITION. What a legal state of the part is, in the terms the statements use: the invariants that the
manual's prose gives the whole part, and what the end of every step may do beside the command's own effect. -/

namespace Sys2Proof.Machine

/-! ## The end of a step (09: R160, R161, R163, R166) -/

/-- A byte of the Status Page of the layout in force. -/
def State.statusByte (s : State) (a : Nat) : Bool :=
  match s.layout.inForce with
  | some l => inWindow l.statusBase 256 a
  | none => false

/-- What a step's end may do to the Gate: a held read is sorted again, the Status Page's marks change, and a
free port is granted. Everything else of the Gate stays, and so do a port that is busy and a read's address. -/
structure Gate.Settled (g h : Gate) : Prop where
  rest : h = { g with port := h.port, marks := h.marks, read := h.read }
  busy : g.port ≠ none → h.port = g.port
  read : h.read.map (·.addr) = g.read.map (·.addr)

/-- The address lies in a slot of the Line Ring that is FILLING: its header and its level area both count (R161). -/
def State.touchesFilling (s : State) (a : Nat) : Prop :=
  ∃ l n, s.layout.inForce = some l ∧ n < s.ring.slots.length ∧ (s.ring.slot n).state = .filling ∧
    l.ringBase + 1456 * n ≤ a ∧ a < l.ringBase + 1456 * n + 1456

/-- `q` is the read of the word at `a` as the Gate sorts it in `s` (R154, R160 to R162): in the Preview Window it
touches the word of the latched slot, elsewhere its own; it is held by a pending write to the word it touches, else by
a slot that is FILLING. -/
structure State.ReadSorted (s : State) (a : Nat) (q : HostRead) : Prop where
  addr : q.addr = a
  redirected : ∀ l n x, s.layout.inForce = some l → l.previewBase ≤ a → a < l.previewBase + 1456 →
    s.ring.latch = some n → x = l.ringBase + 1456 * n + (a - l.previewBase) → q.target = x - x % 4
  direct : s.ring.latch = none ∨
    (∀ l, s.layout.inForce = some l → a < l.previewBase ∨ l.previewBase + 1456 ≤ a) → q.target = a
  pending : (∃ w ∈ s.gate.buffer, w.addr = q.target) → q.held = some .pendingWrite
  filling : (∀ w ∈ s.gate.buffer, w.addr ≠ q.target) → s.touchesFilling q.target → q.held = some .fillingSlot
  free : (∀ w ∈ s.gate.buffer, w.addr ≠ q.target) → ¬ s.touchesFilling q.target → q.held = none

/-- What a step's end makes of the read on the bus (R154, R160, R161): one that is not held, or whose hold goes on, is
left as it is; one whose hold has ended, by the drain of the last pending write to its word or by its slot's leaving
FILLING, is sorted again. -/
structure State.ReadSettled (u t : State) : Prop where
  served : ∀ r, u.gate.read = some r → r.held = none → t.gate.read = some r
  held : ∀ r, u.gate.read = some r →
    (r.held = some .pendingWrite ∧ ∃ w ∈ u.gate.buffer, w.addr = r.target) ∨
      (r.held = some .fillingSlot ∧ u.touchesFilling r.target) → t.gate.read = some r
  released : ∀ r, u.gate.read = some r →
    (r.held = some .pendingWrite ∧ ∀ w ∈ u.gate.buffer, w.addr ≠ r.target) ∨
      (r.held = some .fillingSlot ∧ ¬ u.touchesFilling r.target) →
    ∃ q, t.gate.read = some q ∧ u.ReadSorted r.addr q

/-- `t` is `u` after a step's end: every block but the Gate is `u`'s, the Gate is settled, the read on the bus too, and
memory reads as `u`'s at every byte outside the Status Page of the layout in force. -/
structure State.Ends (u t : State) : Prop where
  rest : t = { u with gate := t.gate, mem := t.mem }
  gate : u.gate.Settled t.gate
  reads : u.ReadSettled t
  mem : ∀ a, u.statusByte a = false → t.mem.byte a = u.mem.byte a

/-- No event of the Carriage Drive or the Regulator waits to be taken. Every step takes the events it gives. -/
def State.noSignals (s : State) : Bool :=
  !s.carriage.arrivalEvent && !s.carriage.truncationEvent && !s.carriage.faultEvent
    && !s.drum.bandLostSignal

/-- No event waits to be taken, and no request of an end cause is on its way; a command given `late`, or a
carriage-fault, may leave requests on their way. -/
def State.noEvents (s : State) : Bool := s.noSignals && s.jobs.requestsDue.isNone

/-- RESET is not asserted and no event waits: the state between two commands of a part at work. -/
def State.awake (s : State) : Bool := !s.inReset && s.noEvents

/-! ## Faults of the drum and ends of attempts -/

/-- What a fault policy makes of the Regulator `d`, its event already counted and flagged (R17, R18). A timer that
has run out at the same moment leaves its own detection to be taken (R17). -/
structure Drum.PolicyApplied (p : DrumProfile) (t : Nat) (policy : Policy) (d e : Drum) : Prop where
  latched : d.state.regulating = true → policy = .latchCoast ∨ policy = .latchBrake →
    e = { d with
      state := .latched, duty := 0, brake := decide (policy = Policy.latchBrake), spinRequest := none
      spinUp := none, stallTimer := none, rampTick := none, slipRun := 0, ocRun := 0
      stallDue := d.stallDue || hasRun d.stallTimer (1000 * p.stallMs) t
      spinUpDue := d.spinUpDue || hasRun d.spinUp (1000000 * p.spinupS) t }
  waits : d.state.regulating = true → policy = .retry → d.retryCount < p.retryLimit →
    e = { d with
      state := .faultWait, duty := 0, brake := false, retryCount := d.retryCount + 1
      wait := some (t + 100000 * p.retryTime)
      spinUp := none, stallTimer := none, rampTick := none, slipRun := 0, ocRun := 0
      stallDue := d.stallDue || hasRun d.stallTimer (1000 * p.stallMs) t
      spinUpDue := d.spinUpDue || hasRun d.spinUp (1000000 * p.spinupS) t }
  spent : d.state.regulating = true → policy = .retry → p.retryLimit ≤ d.retryCount →
    e = { d with
      state := .latched, duty := 0, brake := false, spinRequest := none
      spinUp := none, stallTimer := none, rampTick := none, slipRun := 0, ocRun := 0
      stallDue := d.stallDue || hasRun d.stallTimer (1000 * p.stallMs) t
      spinUpDue := d.spinUpDue || hasRun d.spinUp (1000000 * p.spinupS) t }
  reported : policy = .report ∨ policy = .off → e = d
  elsewhere : d.state.regulating = false → e = d

/-! ## Ramping (01, R4, R7 to R11) -/

/-- The Regulator with its duty set: the stall timer starts when the duty rises from 0, and stops at 0 (R14). -/
def Drum.dutied (p : DrumProfile) (t duty : Nat) (d : Drum) : Drum :=
  { d with
    duty := duty
    stallTimer :=
      if duty = 0 then none
      else if d.duty = 0 then (if p.stallPolicy = .off then none else some t)
      else d.stallTimer }

/-- A stair speed of the Profile: one of the three that is not 0 (R9). -/
def DrumProfile.isStair (p : DrumProfile) (v : Nat) : Prop := v ∈ [p.stair0, p.stair1, p.stair2] ∧ v ≠ 0

/-- The step that STAIRCASE chooses from `ref` toward `target` (R9): the nearest stair speed strictly between them, or
the target where there is none. -/
structure StairStep (p : DrumProfile) (ref target next : Nat) : Prop where
  up : ref < target → (∀ x, p.isStair x → ref < x → x < target → next ≤ x) ∧
    ((p.isStair next ∧ ref < next ∧ next < target) ∨ next = target)
  down : target < ref → (∀ x, p.isStair x → target < x → x < ref → x ≤ next) ∧
    ((p.isStair next ∧ target < next ∧ next < ref) ∨ next = target)
  same : ref = target → next = target

/-- RAMPING toward the target `v` has been entered at time `t` by the Regulator `d`, which makes `e` (R7, R9 to R11):
in STAIRCASE the ref takes its first step, and a step to the target is SETTLING. -/
structure Drum.RampEntered (p : DrumProfile) (t : Nat) (v : Speed) (d e : Drum) : Prop where
  linear : p.rampMode = .linear → e =
    Drum.dutied p t (min (feedForward p d.ref) p.dutyMax)
      { d with
        state := .ramping, spinUp := if p.stallPolicy = .off then none else some t, inBandCount := 0
        outOfBandRun := 0, slipRun := 0, rampMode := .linear, rampTick := some (t + 100000), wait := none
        rest := none, lossDue := false }
  staircase : ∀ next, p.rampMode = .staircase → StairStep p d.ref v.ref next → e =
    Drum.dutied p t (min (feedForward p next) p.dutyMax)
      { d with
        state := if next = v.ref then .settling else .ramping, ref := next
        integral := if next = v.ref then 0 else d.integral
        spinUp := if p.stallPolicy = .off then none else some t, inBandCount := 0, outOfBandRun := 0, slipRun := 0
        rampMode := .staircase, rampTick := none, wait := none, rest := none, lossDue := false }

/-- A SPIN for the speed `v`, taken at time `t` by the Regulator `d`, makes `e` (R4). A BAND_LOST that a re-target
signals is taken in the same step. -/
structure Drum.Spun (p : DrumProfile) (t : Nat) (v : Speed) (d e : Drum) : Prop where
  starts : d.state = .stopped ∨ d.state = .parking →
    Drum.RampEntered p t v { d with spinRequest := some v, brake := false, target := some v, ref := 0 } e
  same : d.state.regulating = true → d.target = some v → e = { d with spinRequest := some v }
  retarget : d.state.regulating = true → d.target ≠ some v →
    Drum.RampEntered p t v { d with spinRequest := some v, target := some v } e
  waits : d.state = .faultWait → e = { d with spinRequest := some v, target := some v }
  latched : d.state = .latched → e = { d with spinRequest := some v }

/-! ## A POSITION request (02, R24 to R27) -/

/-- POSITIONING toward `p` has been entered at time `t` by the Carriage Drive `c`, which makes `e`, its arrival taken
(R26, R27). -/
structure Carriage.MoveBegun (t p : Nat) (c e : Carriage) : Prop where
  there : c.position = p → e = { c with target := some p, state := .atFrame, stepsDue := 0, nextStep := none }
  away : c.position < p → c.limit = false → (c.home = true → c.position = 0) → e =
    { c with
      target := some p, state := .positioning, position := c.position + 1, dirAway := true, home := false
      stepsDue := 0, nextStep := some (t + 2500) }
  toward : p < c.position → c.home = false → e =
    { c with
      target := some p, state := .positioning, position := c.position - 1, dirAway := false, limit := false
      stepsDue := 0, nextStep := some (t + 2500) }
  blocked : (c.position < p ∧ c.limit = true) ∨ (c.position ≠ p ∧ c.home = true ∧ 0 < c.position) → e =
    { c with
      target := some p, state := .fault, dirAway := decide (c.position < p), stepsDue := 0, nextStep := none
      faultEvent := true }

/-- A POSITION request for `p`, taken at time `t` by the Carriage Drive `c`, makes `e` (R24 to R26). -/
structure Carriage.Positioned (t p : Nat) (c e : Carriage) : Prop where
  moves : c.state = .atFrame ∨ c.state = .tracking → Carriage.MoveBegun t p c e
  homes : c.state = .unhomed ∨ c.state = .fault → c.home = false → e =
    { c with
      target := some p, state := .homing, homed := false, position := 0, homingSteps := 1, stepsDue := 0
      dirAway := false, limit := false, nextStep := some (t + 2500) }
  atHome : c.state = .unhomed ∨ c.state = .fault → c.home = true →
    Carriage.MoveBegun t p { c with homed := true, position := 0, homingSteps := 0, stepsDue := 0 } e
  homing : c.state = .homing → e = { c with target := some p }
  aims : c.state = .positioning → e =
    { c with target := some p, dirAway := if c.position = p then c.dirAway else decide (c.position < p) }

/-! ## The record and the results -/

/-- The outcomes after which a further attempt may be made (R94). -/
def retryOutcomes : List AttemptOutcome := [.noAnswer, .notReady, .lineLost, .drumFault]

/-- A further attempt to a destination is allowed (R133): it has had fewer than 1 + retry limit, and the
Directory entry read at the attempt's start had NO_RETRY clear. -/
def State.retryAllowed (u : State) (x : Dest) : Prop :=
  x.attempts < 1 + (u.jobs.current.map fun j => j.retryLimit).getD 0 ∧ u.jobs.noRetry = false

/-- The due time of a retry (R134). -/
def State.retryDueTime (u : State) : Nat := u.clock.uptime + (u.jobs.current.map fun j => j.retryInterval).getD 0

/-- The history write-back of the attempt recorded in `u`, its outcome `o`: the read of the entry's four history
words, which its four writes follow (R138). -/
def State.historyOp (u : State) (o : AttemptOutcome) : Op where
  kind := .historyRead (o == .sent) o.code u.record.startTime (u.record.captions.head?.getD 0)
  todo := (addrsFrom (u.directoryAddr u.record.dirIndex + 48) 4).map .rd
  got := []

/-- The results writes of a job: for each member in chain order, one operation that writes word 12 and bytes 64 to
127 of its TCB (R117, R165). -/
def resultOps (last : OpKind) (cause : Option Cause) (ds : List Dest) (sigs : List Sig) (j : Job) : List Op :=
  j.members.mapIdx fun m x =>
    { kind := if m + 1 = j.members.length then last else .memberResults
      todo :=
        (wholeWord (x.addr + 48) (fromBytesHalf (codeOr Cause.code cause) 0 ((sigs.getD m 1).toNat))
          :: wordsFrom (x.addr + 64) ((List.range 8).flatMap (destWords m ds))).map .wr
      got := [] }

/-- The destination `y` that a taken record makes of `x` (R132, R133): `o` is the outcome and `d` its detail. -/
structure State.DestRecorded (u : State) (o : AttemptOutcome) (d : Detail) (x y : Dest) : Prop where
  figures : y =
    { x with
      lastOutcome := some o, lastDetail := d, frames := u.closedFrames
      served := x.served + u.record.repeatsServed, refused := x.refused + u.record.repeatsRefused
      progress := y.progress, final := y.final, cause := y.cause }
  sent : o = .sent → y.progress = .final ∧ y.final = some .sent ∧ y.cause = none
  halted : o = .halted → y.progress = .final ∧ y.final = some .halted ∧ y.cause = none
  ended : ∀ c, u.jobs.endCause = some c → o ≠ .sent → o ≠ .halted →
    y.progress = .final ∧ y.final = some .notSent ∧ y.cause = some c
  again : u.jobs.endCause = none → o ∈ retryOutcomes → u.retryAllowed x → y.progress = .retryWait
  gaveUp : u.jobs.endCause = none → o ∈ retryOutcomes → ¬ u.retryAllowed x →
    y.progress = .final ∧ y.final = some .gaveUp ∧ y.cause = none
  carriage : u.jobs.endCause = none → o = .carriageFault →
    y.progress = .final ∧ y.final = some .notSent ∧ y.cause = some .carriageFault

/-- The decision on the record of an attempt in progress in `u`, its outcome `o` and detail `d` (R132 to R134): `ds`
are the destinations after it, and `l` is the Retry List. -/
structure State.RecordDecided (u : State) (o : AttemptOutcome) (d : Detail) (ds : List Dest)
    (l : List (Nat × Nat)) : Prop where
  dest : ∀ x, u.jobs.progress[u.record.destSlot]? = some x →
    ∃ y, ds[u.record.destSlot]? = some y ∧ u.DestRecorded o d x y
  others : ds.length = u.jobs.progress.length ∧
    ∀ m, m ≠ u.record.destSlot → ds[m]? = u.jobs.progress[m]?
  waits : ∀ x, u.jobs.progress[u.record.destSlot]? = some x → u.jobs.endCause = none → o ∈ retryOutcomes →
    u.retryAllowed x → l =
      u.jobs.retryList.takeWhile (fun e => decide (e.2 ≤ u.retryDueTime)) ++
        (u.record.destSlot, u.retryDueTime) ::
          u.jobs.retryList.dropWhile (fun e => decide (e.2 ≤ u.retryDueTime))
  unlisted : u.jobs.endCause ≠ none ∨ o ∉ retryOutcomes ∨
      (∃ x, u.jobs.progress[u.record.destSlot]? = some x ∧ ¬ u.retryAllowed x) → l = u.jobs.retryList

/-! ## Stopping the scanner (02, R28, R31, R32, R40; 07, R126) -/

/-- Track-end (R28). -/
def Carriage.atRest (c : Carriage) : Carriage :=
  if c.state = .tracking then { c with state := .atFrame, nextStep := none, stepsDue := 0 } else c

/-- A scan-stop finds a frame to stop: the scanner is SCANNING or in FRAME_DONE (R32). -/
abbrev Scan.stops (c : Scan) : Prop := c.state = .scanning ∨ c.state = .frameDone

/-- The Scan Unit after a scan-stop (R32, R40): READY, with the line in progress, its FIFO entries and its reference
samples dropped; the lamp and the warm timer go on. -/
def Scan.stopped (c : Scan) : Scan :=
  if c.stops then
    { c with
      state := .ready, line := none, fifo := [], pair := none, blackRefs := [], whiteRefs := [], truncating := false }
  else c

/-- The Scan Unit after a lamp-off, which first acts as a scan-stop (R31, R32). -/
def Scan.dark (c : Scan) : Scan := { c.stopped with state := .idle, lamp := false, warm := none }

/-- The word on the port, one of the scan writer's no longer wanted (R32). -/
def scanWordDropped : Option PortWord → Option PortWord
  | some (.scanEntry x _) => some (.scanEntry x false)
  | some (.scanHeader x _) => some (.scanHeader x false)
  | p => p

/-- The word on the port, one of the send prefetch no longer wanted (R66). -/
def prefetchDropped : Option PortWord → Option PortWord
  | some (.prefetch a w _) => some (.prefetch a w false)
  | p => p

/-- `u` after a scan-stop (R28, R32, R40, R126): the carriage's tracking ends too, the slot of the line in progress
becomes FREE, and the signature of a frame that was being scanned is kept. -/
def State.stopped (u : State) : State :=
  { u with
    scan := u.scan.stopped
    carriage := if u.scan.stops then u.carriage.atRest else u.carriage
    ring :=
      { u.ring with
        slots :=
          match u.scan.line with
          | some l =>
            if u.scan.stops ∧ (u.ring.slot l.slot).state = .filling then
              u.ring.slots.modify l.slot fun _ => { state := .free, frame := 0, line := 0 }
            else u.ring.slots
          | none => u.ring.slots }
    gate := { u.gate with port := if u.scan.stops then scanWordDropped u.gate.port else u.gate.port }
    jobs :=
      { u.jobs with
        scanSigs :=
          if u.scan.state = .scanning then u.jobs.scanSigs.set u.scan.current u.scan.sig else u.jobs.scanSigs } }

/-- `u` after a lamp-off (R31, R32). -/
def State.darkened (u : State) : State := { u.stopped with scan := u.scan.dark }

/-! ## The end of a job by a cause (06, R110, R114, R117; 07, R130, R137) -/

/-- `u` with its current job in FINISHING: the results writes are issued (R117, R165). -/
def State.finishing (u : State) : State :=
  match u.jobs.current with
  | some j =>
    { u with
      jobs := { u.jobs with state := .finishing, mountLamp := false, retryList := [] }
      gate :=
        { u.gate with
          ops := u.gate.ops ++ resultOps .results u.jobs.endCause u.jobs.progress u.jobs.scanSigs j } }
  | none => u

/-- `u` after steps 3 to 5 of a job's end by a cause (R114, R130, R137): the lamp off, every destination that is not
FINAL ended NOT_SENT, the words of a start in flight no longer wanted, and the job FINISHING. -/
def State.closedBy (cause : Cause) (u : State) : State :=
  State.finishing
    { u.darkened with
      jobs :=
        { u.darkened.jobs with
          progress := u.jobs.progress.map fun d =>
            if d.progress = .final then d
            else { d with progress := .final, final := some .notSent, cause := some cause }
          startInFlight := none, retryList := [], attemptInProgress := false }
      gate := { u.darkened.gate with ops := u.gate.ops.map Op.abandon } }

/-! ## The end of an attempt (05, R74, R94 to R96; 07, R132 to R138) -/

/-- `u` once the Line Unit has ended its attempt with outcome `o` and detail `d` (R74, R94 to R96): the Attempt Record
is complete, and the line sends the stop tone, or its relay opens; the ring is freed, and a prefetch read on the port
no longer wanted. -/
def State.callEnded (o : AttemptOutcome) (d : Detail) (tone : Bool) (u : State) : State :=
  { u with
    record :=
      { u.record with
        frames := u.closedFrames, outcome := some o, detail := d, endingState := u.line.state
        endUptime := u.clock.uptime }
    line :=
      if tone = true then
        { u.line with
          state := .stopTone, stopToneTimer := some (u.now + 1000000 * u.line.snap.stopToneTime)
          carrier := u.line.carrier.toneRequest u.line.relay u.crystal u.line.hStop
          seizeTimer := none, dialTimer := none, dialPhase := none, breaksLeft := 0, answerTimer := none
          startToneTimer := none, readyTimer := none
          active := false, lastOutcome := some o, lastDetail := d }
      else
        { u.line with
          state := .releaseGuard, relay := false, sendLamp := false
          guardTimer := some (u.now + 1000 * u.line.snap.releaseGuard)
          carrier := u.line.carrier.stop, monitor := .stopped, loopTimer := none, stopToneTimer := none
          seizeTimer := none, dialTimer := none, dialPhase := none, breaksLeft := 0, answerTimer := none
          startToneTimer := none, readyTimer := none
          active := false, lastOutcome := some o, lastDetail := d }
    ring :=
      { u.ring with
        slots := List.replicate u.ring.slots.length { state := .free, frame := 0, line := 0 }
        writeIndex := 0, sendFrame := 0, sendLine := 0, picked := none, firstSend := false, marked := false
        repeatQueue := [], frameDone := [], buffer := [], fetch := 0 }
    gate := { u.gate with port := prefetchDropped u.gate.port } }

/-- `u` with its attempt's record taken up to step 4 of R132: the destinations are `ds` and the Retry List is `l`, the
scanner is stopped, no attempt is in progress, and the history write-back is issued. -/
def State.recordKept (o : AttemptOutcome) (ds : List Dest) (l : List (Nat × Nat)) (u : State) : State :=
  { u.stopped with
    jobs :=
      { u.stopped.jobs with progress := ds, retryList := l, attemptInProgress := false, currentDest := none }
    gate := { u.stopped.gate with ops := u.gate.ops ++ [u.historyOp o] } }

/-- The job goes on with an attempt now: a start is in flight, an attempt in progress or a destination UNTRIED, or the
head of the Retry List is due (R110, R135). -/
def State.attemptsOn (u : State) : Prop :=
  u.jobs.startInFlight ≠ none ∨ u.jobs.attemptInProgress = true ∨
    (∃ x ∈ u.jobs.progress, x.progress = .untried) ∨
    ∃ e, u.jobs.retryList.head? = some e ∧ e.2 ≤ u.clock.uptime

/-- How long the head of the Retry List still waits (R136). -/
def State.headWait (u : State) : Nat := (u.jobs.retryList.head?.map (·.2)).getD 0 - u.clock.uptime

/-- `x` is `u` set for the time between two attempts (R110, R135, R136): ATTEMPTING, with the lamp off when the drum is
LATCHED; or RETRY_WAIT, with the lamp off and the drum parked when the wait is the park delay or longer. -/
structure State.Settled (u x : State) : Prop where
  again : u.attemptsOn → u.drum.state ≠ .latched →
    x = { u with jobs := { u.jobs with state := .attempting, mountLamp := false } }
  latched : u.attemptsOn → u.drum.state = .latched →
    x = State.darkened { u with jobs := { u.jobs with state := .attempting, mountLamp := false } }
  waits : ¬ u.attemptsOn → u.headWait < u.profile.drum.parkDelay →
    x = { u with jobs := { u.jobs with state := .retryWait, mountLamp := false } }
  parked : ¬ u.attemptsOn → u.profile.drum.parkDelay ≤ u.headWait →
    x = State.darkened
      { u with
        jobs := { u.jobs with state := .retryWait, mountLamp := false }
        drum := u.drum.park u.profile.drum u.now u.profile.drum.parkMode }

/-! ## The look for the next attempt (07, R127, R129) -/

/-- An attempt may begin, once there is a destination for it (R127). -/
def State.mayAttempt (u : State) : Prop :=
  (u.jobs.state = .attempting ∨ u.jobs.state = .retryWait) ∧ u.jobs.endCause = none ∧
    u.jobs.startInFlight = none ∧ u.jobs.attemptInProgress = false ∧ u.jobs.lineAtRest = true ∧
    u.drum.state ≠ .latched

/-- The Job Controller looks for the next attempt, which makes `x` of `u` (R127 to R129): the read of the chosen
destination's Directory entry is issued, or nothing begins. -/
structure State.Looked (u x : State) : Prop where
  starts : ∀ n d l, u.mayAttempt → u.chosen = some n → u.jobs.progress[n]? = some d → u.layout.inForce = some l →
    x = { u with
      jobs :=
        { u.jobs with
          state := .attempting, startInFlight := some n, retryList := u.jobs.retryList.filter (·.1 != n)
          progress := u.jobs.progress.set n { d with progress := .attempting } }
      gate :=
        { u.gate with
          ops := u.gate.ops ++
            [{ kind := .directoryRead true
               todo := (List.range 12).map fun i => .rd (l.directoryBase + 64 * d.dirIndex + 4 * i)
               got := [] }] } }
  rests : ¬ u.mayAttempt ∨ u.chosen = none → x = u
  others : x = { u with jobs := x.jobs, gate := x.gate }

/-- The state once a take has ended: the FREE of its entry's action byte is issued, and the take index moves to
the next entry, unless a new layout has overtaken the take (R184, R189). -/
def State.entryFreed (s : State) (take : Take) : State :=
  { s with
    mailbox :=
      { s.mailbox with
        take := none
        takeIndex :=
          if take.stale = true then s.mailbox.takeIndex
          else if s.mailbox.takeIndex + 1 < (s.layout.inForce.map fun l => l.sendCount).getD 0 then
            s.mailbox.takeIndex + 1
          else 0 }
    gate :=
      { s.gate with
        ops := s.gate.ops ++
          [{ kind := .freeWrite, todo := [.wr { addr := take.entryAddr + 4, be := 1, data := 0 }], got := [] }] } }

/-! ## What follows an attempt's end (07, R132; 06, R114) -/

/-- `u` once the requests of an end cause that were on their way have reached their units (R111, R114): the drum braked
to rest after MEDIA_REMOVED, and the job ended. -/
def State.requestsReached (cause : Cause) (u : State) : State :=
  State.closedBy cause
    { u with
      drum := if cause = .mediaRemoved then u.drum.park u.profile.drum u.now .brake else u.drum
      jobs := { u.jobs with requestsDue := none } }

/-- Step 5 of R132 makes `x` of `u`, in which the record of an attempt with outcome `o` has just been taken: under an
end cause the job goes no further, or, with the cause's requests on their way, it ends now, an ABORT's take with it
(R114, R116; the operations after the first `base` are of this moment, R165); CARRIAGE_FAULT ends the job; with every
destination FINAL it is FINISHING; else the next attempt is looked for (R110, R113, R127, R136). -/
structure State.RecordFollowed (o : AttemptOutcome) (base : Nat) (u x : State) : Prop where
  cut : ∀ c, u.jobs.endCause = some c → u.jobs.requestsDue = none → x = u
  late : ∀ c, u.jobs.endCause = some c → u.jobs.requestsDue = some { freeAhead := none } →
    x = u.requestsReached c
  freed : ∀ c n take, u.jobs.endCause = some c → u.jobs.requestsDue = some { freeAhead := some n } →
    u.mailbox.take = some take → x = ((u.requestsReached c).entryFreed take).slideLast base n
  untaken : ∀ c n, u.jobs.endCause = some c → u.jobs.requestsDue = some { freeAhead := some n } →
    u.mailbox.take = none → x = (u.requestsReached c).slideLast base n
  carriage : u.jobs.endCause = none → o = .carriageFault →
    x = State.closedBy .carriageFault { u with jobs := { u.jobs with endCause := some .carriageFault } }
  last : u.jobs.endCause = none → o ≠ .carriageFault → (∀ d ∈ u.jobs.progress, d.progress = .final) →
    x = u.finishing
  more : u.jobs.endCause = none → o ≠ .carriageFault → (∃ d ∈ u.jobs.progress, d.progress ≠ .final) →
    ∃ y, u.Settled y ∧ y.Looked x

/-- `x` is `u` once its attempt has ended with outcome `o` and detail `d` (R74, R94 to R96, R132, R142): `tone` says
that the stop tone is sent; otherwise the relay opens at once. The Job Controller takes the record of an attempt that it
has in progress, and the Slip Unit takes the record. -/
structure State.AttemptOver (u : State) (o : AttemptOutcome) (d : Detail) (tone : Bool) (x : State) : Prop where
  untaken : u.jobs.attemptInProgress = false →
    x = { u.callEnded o d tone with
      slips := u.slips.compose u.now u.slipLog u.profile.header (u.callEnded o d tone).record }
  taken : u.jobs.attemptInProgress = true → ∃ ds l y, u.RecordDecided o d ds l ∧
    State.RecordFollowed o u.gate.ops.length ((u.callEnded o d tone).recordKept o ds l) y ∧
    x = { y with slips := u.slips.compose u.now u.slipLog u.profile.header (u.callEnded o d tone).record }

/-- `t` is `u` after a step whose effect is its attempt's end, the loss of the band of a drum parked by it taken. -/
def State.AttemptEnded (u : State) (o : AttemptOutcome) (d : Detail) (tone : Bool) (t : State) : Prop :=
  ∃ x, u.AttemptOver o d tone x ∧ State.Ends { x with drum := { x.drum with bandLostSignal := false } } t

/-- `x` is `u` once its job has ended by a cause (R93, R111 to R114, R130, R137), the end cause shown: an attempt in
progress on the line ends first, with the cause's outcome, and its record is taken under the cause (R132). -/
structure State.JobOver (u : State) (cause : Cause) (x : State) : Prop where
  calling : u.jobs.attemptInProgress = true → u.line.state.attempting = true →
    ∃ y, State.AttemptOver { u with jobs := { u.jobs with endCause := some cause } } cause.outcome cause.detail
      (!u.line.state.unanswered) y ∧ x = y.closedBy cause
  waiting : u.jobs.attemptInProgress = false ∨ u.line.state.attempting = false →
    x = State.closedBy cause { u with jobs := { u.jobs with endCause := some cause } }

/-- `t` is `u` after a step whose effect is its job's end by a cause. -/
def State.JobEnded (u : State) (cause : Cause) (t : State) : Prop := ∃ x, u.JobOver cause x ∧ x.Ends t

/-! ## Dialing (05, R80, R81, R85) -/

/-- The Line Unit `l` once the next symbol of the dial string begins at time `t`, or, after the last, ANSWER_WAIT
(R81, R85). -/
def Line.symbolBegun (p : LineProfile) (t : Nat) (symbol : Option DialSymbol) (l : Line) : Line :=
  match symbol with
  | some (.digit d) =>
    { l with
      dialPhase := some .brk, breaksLeft := (if d = 0 then 10 else d) - 1, loopTimer := none
      dialTimer := some (t + 1000 * p.breakMs) }
  | some .pause => { l with dialPhase := some .mk, breaksLeft := 0, dialTimer := some (t + 2000000) }
  | none =>
    { l with
      dialPhase := none, breaksLeft := 0, dialTimer := none, carrier := l.carrier.stop, state := .answerWait
      answerTimer := some (t + 1000000 * p.answerTimeout) }

/-! ## Chains and jobs (06, R100 to R107) -/

/-- The first check that a member read for a chain fails, with its reason (R101, R102): the head is checked for its
destinations, a later member against the head. -/
def memberRefusal (directoryCount : Nat) (head : Option ChainHead) (m : Tcb) : Option RefusalReason :=
  if m.speedCode ≠ 60 ∧ m.speedCode ≠ 90 ∧ m.speedCode ≠ 120 then some .badSpeed
  else if m.k < 2 ∨ 6 < m.k then some .badSlots
  else if m.pitch < 1 ∨ 8 < m.pitch then some .badPitch
  else if m.count < 1 ∨ 2048 < m.count ∨ 4095 < m.start ∨ 4096 < m.start + m.count * m.pitch then
    some .frameOutOfRange
  else if 1023 < m.black ∨ 1023 < m.white ∨ m.white < m.black + 64 then some .badReferences
  else match head with
    | none =>
      if m.destCount < 1 ∨ 8 < m.destCount ∨ ∃ d ∈ m.destList.take m.destCount, directoryCount ≤ d then
        some .badDestination
      else none
    | some h =>
      if speedOfCode m.speedCode ≠ some h.speed ∨ m.k ≠ h.k ∨ m.destCount ≠ h.destinations.length ∨
          m.destList.take m.destCount ≠ h.destinations then some .chainMismatch
      else none

/-- The clamped values that a head gives its chain (R103). -/
def Tcb.clamped (m : Tcb) (v : Speed) : ChainHead where
  speed := v
  k := m.k
  delay := max 1 (min m.delay 8)
  window := min m.window 8
  phasing := max (max 2 (min m.phasing 60)) (max 1 (min m.delay 8))
  retryLimit := min m.retryLimit 7
  retryInterval := max 30 (min m.retryInterval 900)
  urgent := m.urgent
  destinations := m.destList.take m.destCount

/-- What the job record keeps of the member at `a` (R103, R105). -/
def Tcb.kept (m : Tcb) (a : Nat) : Member where
  addr := a
  caption := min m.caption 99999999
  start := m.start
  count := m.count
  pitch := m.pitch
  bank := m.bank
  bypassTone := m.bypassTone
  testWedge := m.testWedge
  black := m.black
  white := m.white

/-- The address `a` of a member after the members `earlier` passes (R100). -/
def addressPasses (memoryTop : Nat) (earlier : List Member) (a : Nat) : Prop :=
  a % 16 = 0 ∧ a + 128 ≤ memoryTop ∧
    ∀ y ∈ earlier, y.addr = a ∨ a + 128 ≤ y.addr ∨ y.addr + 128 ≤ a

/-- The table of a job no destination of which has been attempted (R124), each of them as `p`, `f` and `c` say. -/
def Job.tableOf (p : Progress) (f : Option FinalOutcome) (c : Option Cause) (j : Job) : List Dest :=
  j.destinations.map fun i =>
    { dirIndex := i, progress := p, attempts := 0, lastOutcome := none, lastDetail := .none
      frames :=
        List.replicate j.members.length { firstSent := 0, short := 0, sig := 1, check := .notCompared, ended := false }
      served := 0, refused := 0, final := f, cause := c }

/-- The guards of a job: its members' TCBs in chain order, then the tone banks that they name (R157). -/
def Job.guardList (profileBase : Nat) (job : Job) : List Guard :=
  (job.members.map fun y => { base := y.addr, length := 128, reason := .tcb, bank := 0 }) ++
    ([0, 1].filter fun b => job.members.any fun y => y.bank == b).map fun b =>
      { base := profileBase + 256 + 128 * b, length := 128, reason := .toneBank, bank := b }

/-- `u` with the job current and the queue `q` behind it (R107, R124, R126, R157). -/
def State.jobBegun (job : Job) (q : List Job) (u : State) : State :=
  { u with
    jobs :=
      { u.jobs with
        state := .mountWait, queue := q, current := some job, endCause := none, mount := .stale
        mountLamp := true, retryList := [], scanSigs := List.replicate job.members.length 1
        progress := job.tableOf .untried none none }
    gate :=
      { u.gate with
        guards :=
          (u.gate.guards.take 2 ++
            (job.guardList ((u.layout.inForce.map Layout.profileBase).getD 0)).map some ++
            List.replicate 12 none).take 12 } }

/-- The job joins the queue of `u`, which makes `x` (R106, R107): an urgent job behind the last urgent one, and with
the Job Controller IDLE it becomes current at once. -/
structure State.JobQueued (job : Job) (u x : State) : Prop where
  waits : u.jobs.state ≠ .idle → ∀ urgent others, u.jobs.queue = urgent ++ others →
    (∀ j ∈ urgent, j.urgent = true) → (∀ j ∈ others, j.urgent = false) →
    x = { u with
      jobs :=
        { u.jobs with
          queue := if job.urgent = true then urgent ++ job :: others else urgent ++ others ++ [job] } }
  begins : u.jobs.state = .idle → u.jobs.queue = [] → x = u.jobBegun job []

/-! ## Slot events (02, R35, R36; 04, R67) -/

/-- The level of position `j` of the frame `f` from the sample `cell` by the pair `b`, `w` (R46 to R49). -/
def lineLevelOf (p : Profile) (f : Frame) (b w j cell : Nat) : Nat :=
  let l := (2 * 63 * min (cell - b) (w - b) + (w - b)) / (2 * (w - b))
  if f.testWedge = true then 256 * j / (240 * f.k)
  else if f.bypassTone = true then (2 * 255 * l + 63) / 126
  else (if f.bank = 0 then p.bank0 else p.bank1).getD l 0

/-- The scan FIFO `q` once the level `y` of position `j` has been placed in it or lost, `r` (R36); `base` is the
address of the level area. -/
structure FifoPlaced (base j y : Nat) (q r : List FifoEntry) : Prop where
  joins : ∀ older e, q = older ++ [e] → e.closed = false → e.word = j / 4 →
    r = older ++
      [{ e with
          closed := decide (j % 4 = 3)
          access :=
            { e.access with
              be := e.access.be ||| (1#4 <<< (j % 4))
              data := e.access.data ||| (BitVec.ofNat 32 (y % 256) <<< (8 * (j % 4))) } }]
  opens : (∀ older e, q = older ++ [e] → e.closed = true ∨ e.word ≠ j / 4) → q.length < 16 →
    r = q.map (fun e => { e with closed := true }) ++
      [{ word := j / 4, closed := decide (j % 4 = 3)
         access :=
           { addr := base + 4 * (j / 4), be := 1#4 <<< (j % 4)
             data := BitVec.ofNat 32 (y % 256) <<< (8 * (j % 4)) } }]
  lost : (∀ older e, q = older ++ [e] → e.closed = true ∨ e.word ≠ j / 4) → 16 ≤ q.length → r = q

/-- The level of position `j` finds no room in the scan FIFO `q` (R36). -/
def fifoLoses (j : Nat) (q : List FifoEntry) : Prop :=
  16 ≤ q.length ∧ ∀ older e, q = older ++ [e] → e.closed = true ∨ e.word ≠ j / 4

/-- The Scan Unit's part of the slot event of position `j` makes `x` of `u` (R35, R36, R56). -/
structure State.SlotScanned (j : Nat) (cell : Sample) (u x : State) : Prop where
  idle : (u.scan.state ≠ .scanning ∨ u.scan.line = none ∨ u.scan.frames[u.scan.current]? = none ∨
    ∃ l, u.scan.line = some l ∧ l.sampled = true) → x = u
  sampled : ∀ l f b w y, u.scan.state = .scanning → u.scan.line = some l → l.sampled = false →
    u.scan.frames[u.scan.current]? = some f → (b, w) = u.scan.pair.getD (f.black, f.white) →
    y = lineLevelOf u.profile f b w j cell.toNat →
    ∃ q, FifoPlaced (u.slotAddr l.slot + 16) j y u.scan.fifo q ∧
      x = { u with
        scan :=
          { u.scan with
            sig := sigFeed u.scan.sig y
            line := some { l with positions := j + 1, sampled := decide (j + 1 = 240 * f.k) }
            nextLine := if j + 1 = 240 * f.k then u.scan.nextLine + 1 else u.scan.nextLine
            fifo := if j + 1 = 240 * f.k then q.map fun e => { e with closed := true } else q
            header := x.scan.header, overruns := x.scan.overruns } } ∧
      (fifoLoses j u.scan.fifo →
        x.scan.header = { u.scan.header with overrun := true } ∧ x.scan.overruns = min (u.scan.overruns + 1) 65535) ∧
      (¬ fifoLoses j u.scan.fifo → x.scan.header = u.scan.header ∧ x.scan.overruns = u.scan.overruns)

/-- The sender's part of the slot event of position `j` makes `x` of `u` (R51, R57, R67): the level is that of the
buffer, else the one before it with a starve. -/
structure State.SlotSent (j : Nat) (u x : State) : Prop where
  idle : u.line.state ≠ .picture ∨ u.ring.picked = none → x = u
  sent : ∀ found y, u.line.state = .picture → u.ring.picked ≠ none →
    found = (u.ring.buffer.find? fun e => decide (e.1 = j / 4)).map (fun e => (byteOf e.2 (j % 4)).toNat) →
    y = found.getD (if j = 0 then 255 else u.line.lastLevel) →
    x = { u with
      ring :=
        { u.ring with
          buffer := u.ring.buffer.filter fun e => decide (j / 4 ≤ e.1)
          starves := if found = none then min (u.ring.starves + 1) 65535 else u.ring.starves }
      record :=
        { u.record with
          starves := if found = none then min (u.record.starves + 1) 65535 else u.record.starves }
      line :=
        { u.line with
          lastLevel := y
          sendSig := if u.ring.firstSend = true then sigFeed u.line.sendSig y else u.line.sendSig
          carrier := u.line.carrier.toneRequest u.line.relay u.crystal
            (pictureHalf u.line.fBlack u.line.fWhite y) } }

/-- The slot events `is` of interval `n` fall one after another, `k` to an interval, and make `x` of `u` (R22). -/
def State.SlotsFall (n k : Nat) (cells : Cells) : List Nat → State → State → Prop
  | [], u, x => x = u
  | i :: is, u, x =>
    ∃ m v, State.SlotScanned ((n - 16) * k + i) (cells.toList.getD i 0) u m ∧
      State.SlotSent ((n - 16) * k + i) m v ∧
      State.SlotsFall n k cells is { v with line := { v.line with slotsFallen := i + 1 } } x

/-- The slots per interval: of the frame being scanned while the scanner is SCANNING, else of the attempt (R22). -/
def State.slotsPerInterval (u : State) : Option Nat :=
  if u.scan.state = .scanning then (u.scan.frames[u.scan.current]?).map fun f => f.k
  else u.line.call.map fun c => c.k

/-- The turn is a scanned turn: a line in progress is being sampled (R35). -/
def Scan.scanned (c : Scan) : Bool := decide (c.state = .scanning) && c.line.any fun l => !l.sampled

/-- The Scan Unit once the reference sample of interval n has been taken, if one is due (R23). -/
def Scan.referred (n : Nat) (cell : Sample) (c : Scan) : Scan :=
  if c.scanned = false ∨ c.refTaken = true then c
  else if 2 ≤ n ∧ n ≤ 5 then { c with blackRefs := c.blackRefs ++ [cell.toNat], refTaken := true }
  else if 8 ≤ n ∧ n ≤ 11 then { c with whiteRefs := c.whiteRefs ++ [cell.toNat], refTaken := true }
  else c

/-- The Scan Unit after the reference moment of a scanned turn: the measured pair, or the pair held (R44, R45). -/
def Scan.paired (c : Scan) : Scan :=
  let b := c.blackRefs.sum / 4
  let w := c.whiteRefs.sum / 4
  let p := c.lastPair.getD ((c.frames[c.current]?.map fun f => (f.black, f.white)).getD (0, 0))
  if c.scanned = false then c
  else if b + 64 ≤ w then
    { c with pair := some (b, w), lastPair := some (b, w), header := { c.header with black := b, white := w } }
  else
    { c with
      pair := some p, holds := min (c.holds + 1) 65535
      header := { c.header with black := p.1, white := p.2, heldRefs := true } }

/-! ## What an INDEX does (02, R33, R34, R39, R41; 04, R61, R63 to R66; 05, R87 to R92) -/

/-- An advance by the pitch at time `t` (R28, R29). -/
def Carriage.advanced (t : Nat) (c : Carriage) : Carriage :=
  let pitch := c.pitch.getD 0
  if c.state ≠ .tracking then c
  else if 0 < c.stepsDue then { c with dirAway := true, stepsDue := c.stepsDue + pitch }
  else if pitch = 0 then c
  else if c.limit = true then
    { c with state := .atFrame, nextStep := none, stepsDue := 0, dirAway := true, truncationEvent := true }
  else
    { c with
      position := c.position + 1, dirAway := true, home := false, stepsDue := pitch - 1
      nextStep := if pitch = 1 then none else some (t + 2000) }

/-- The slot at the write index is FREE or SENT (R61). -/
def Ring.claims (r : Ring) : Prop :=
  ∃ e, r.slots[r.writeIndex]? = some e ∧ (e.state = .free ∨ e.state = .sent)

/-- The scanning turn that an INDEX begins makes `x` of `u` (R34, R61): a line begun in the slot at the write index, a
stall while a line is in progress or no slot may be claimed, nothing after the last line. -/
structure State.TurnScanned (u x : State) : Prop where
  done : (∀ f, u.scan.frames[u.scan.current]? = some f → f.count ≤ u.scan.nextLine) → x = u
  stall : ∀ f, u.scan.frames[u.scan.current]? = some f → u.scan.nextLine < f.count →
    u.scan.line ≠ none ∨ ¬ u.ring.claims →
    x = { u with scan := { u.scan with stalls := min (u.scan.stalls + 1) 65535 } }
  begins : ∀ f, u.scan.frames[u.scan.current]? = some f → u.scan.nextLine < f.count → u.scan.line = none →
    u.ring.claims →
    x = { u with
      ring :=
        { u.ring with
          slots := u.ring.slots.set u.ring.writeIndex
            { state := .filling, frame := u.scan.current, line := u.scan.nextLine }
          writeIndex := if u.ring.writeIndex + 1 < u.ring.slots.length then u.ring.writeIndex + 1 else 0 }
      carriage := if 0 < u.scan.nextLine then u.carriage.advanced u.now else u.carriage
      scan :=
        { u.scan with
          line := some
            { slot := u.ring.writeIndex, line := u.scan.nextLine, positions := 0, sampled := false
              headerWritten := 0 }
          header :=
            { frame := u.scan.current, line := u.scan.nextLine, black := 0, white := 0, heldRefs := false
              overrun := false, size := 240 * f.k }
          pair := none, blackRefs := [], whiteRefs := [], refTaken := false } }

/-- Scanning of frame `n` begins at an INDEX with the carriage AT_FRAME, and the INDEX is its first scanning turn: `x`
of `u` (R33, R39). -/
def State.FrameBegun (n : Nat) (u x : State) : Prop :=
  State.TurnScanned
    { u with
      scan :=
        { u.scan with
          state := .scanning, current := n, nextLine := 0, sig := 1, arrivalNoted := false, linesDone := 0
          truncating := false }
      carriage :=
        { u.carriage with
          state := .tracking, pitch := some ((u.scan.frames[n]?.map fun f => f.pitch).getD 0), stepsDue := 0
          nextStep := none } } x

/-- A scan-start makes `x` of `u` (R33). -/
structure State.ScanStarted (u x : State) : Prop where
  taken : u.scan.state = .ready → u.carriage.state = .atFrame → u.FrameBegun 0 x
  ignored : u.scan.state ≠ .ready ∨ u.carriage.state ≠ .atFrame → x = u

/-- The pair that a turn cut short holds when it has none yet: the last accepted, else the frame's default (R45). -/
def Scan.heldPair (c : Scan) (f : Frame) : Nat × Nat := c.lastPair.getD (f.black, f.white)

/-- The Scan Unit once the INDEX has cut short the line `l` of the frame `f` (R41, R45). -/
def Scan.cutAt (f : Frame) (l : LineInProgress) (c : Scan) : Scan :=
  { c with
    pair := some (c.pair.getD (c.heldPair f))
    holds := if c.pair = none then min (c.holds + 1) 65535 else c.holds
    header :=
      { c.header with
        overrun := true
        black := if c.pair = none then (c.heldPair f).1 else c.header.black
        white := if c.pair = none then (c.heldPair f).2 else c.header.white
        heldRefs := c.header.heldRefs || decide (c.pair = none) }
    overruns := min (c.overruns + (240 * f.k - l.positions)) 65535
    line := some { l with sampled := true }
    fifo := c.fifo.map fun e => { e with closed := true }
    nextLine := c.nextLine + 1 }

/-- The Scan Unit takes an INDEX: `x` of `u` (R34, R39, R41). -/
structure State.ScanIndexed (u x : State) : Prop where
  cut : ∀ l f, u.scan.state = .scanning → u.scan.line = some l → u.scan.frames[u.scan.current]? = some f →
    l.sampled = false → State.TurnScanned { u with scan := u.scan.cutAt f l } x
  turn : u.scan.state = .scanning →
    (∀ l, u.scan.line = some l → l.sampled = true ∨ u.scan.frames[u.scan.current]? = none) → u.TurnScanned x
  next : u.scan.state = .frameDone → u.scan.arrivalNoted = true → u.carriage.state = .atFrame →
    u.scan.current + 1 < u.scan.frames.length → u.FrameBegun (u.scan.current + 1) x
  waits : u.scan.state = .frameDone →
    u.scan.arrivalNoted = false ∨ u.carriage.state ≠ .atFrame ∨ u.scan.frames.length ≤ u.scan.current + 1 → x = u
  other : u.scan.state ≠ .scanning → u.scan.state ≠ .frameDone → x = u

/-- `u` once the Line Unit has closed the turn just ended (R63, R66, R67). -/
def State.turnClosed (u : State) : State :=
  { u with
    record :=
      if u.ring.picked.isSome = true ∧ u.ring.firstSend = true then
        { u.record with
          frames := u.record.frames.modify u.ring.sendFrame fun e => { e with firstSent := e.firstSent + 1 } }
      else u.record
    ring :=
      { u.ring with
        slots :=
          match u.ring.picked with
          | some n =>
            u.ring.slots.modify n fun e => { e with state := if u.ring.marked = true then .held else .sent }
          | none => u.ring.slots
        sendLine :=
          if u.ring.picked.isSome = true ∧ u.ring.firstSend = true then u.ring.sendLine + 1 else u.ring.sendLine
        picked := none
        firstSend := u.ring.firstSend && u.ring.picked.isNone
        marked := u.ring.marked && u.ring.picked.isNone
        buffer := [], fetch := 0 }
    gate :=
      { u.gate with
        port := prefetchDropped u.gate.port }
    line := { u.line with lastLevel := 255 } }

/-- `u` with a tone of half-period `h` requested (R53). -/
def State.toned (h : Nat) (u : State) : State :=
  { u with line := { u.line with carrier := u.line.carrier.toneRequest u.line.relay u.crystal h } }

/-- The drum is ready (01, Drum states). -/
def DrumState.turns (st : DrumState) : Prop := st = .inBand ∨ st = .bandWarning

/-- A slot is FILLED with a line of a frame (R64). -/
def RingSlot.holdsLine (frame line : Nat) (e : RingSlot) : Bool :=
  decide (e.state = .filled ∧ e.frame = frame ∧ e.line = line)

/-- `u` with slot n sent from its first word on (R64, R66, R90). -/
def State.slotSent (n : Nat) (first : Bool) (u : State) : State :=
  { u with
    ring :=
      { u.ring with
        slots := u.ring.slots.modify n fun e => { e with state := .sending }
        picked := some n, firstSend := first, marked := false
        repeatQueue := if first = true then u.ring.repeatQueue else u.ring.repeatQueue.tail
        buffer := [], fetch := 0 } }.toned u.line.hWhite

/-- A picture turn that ends no frame makes `x` of `u` (R64, R88, R90): a repeat, else the first send of the line at
the send position, else a gap; none of them with the drum not ready. -/
structure State.TurnSent (u x : State) : Prop where
  again : ∀ n rest, u.drum.state.turns → u.ring.repeatQueue = n :: rest → x = u.slotSent n false
  first : ∀ n, u.drum.state.turns → u.ring.repeatQueue = [] →
    u.ring.slots.findIdx? (RingSlot.holdsLine u.ring.sendFrame u.ring.sendLine) = some n → x = u.slotSent n true
  gap : u.drum.state.turns → u.ring.repeatQueue = [] →
    (∀ e ∈ u.ring.slots, e.holdsLine u.ring.sendFrame u.ring.sendLine = false) →
    x = { u with
      ring := { u.ring with gaps := min (u.ring.gaps + 1) 65535 }
      record := { u.record with gaps := min (u.record.gaps + 1) 65535 } }.toned u.line.hWhite
  notReady : ¬ u.drum.state.turns → State.AttemptOver u .drumFault .drumNotReady true x

/-- `u` once the sending of the send position's frame has ended with `d` (R71, R72). -/
def State.frameSent (d : FrameDone) (u : State) : State :=
  { u with
    record :=
      { u.record with
        frames := u.record.frames.modify u.ring.sendFrame fun e =>
          { e with
            short := ((u.line.frames[u.ring.sendFrame]?.map fun f => f.count).getD 0) - e.firstSent
            sig := u.line.sendSig, ended := true
            check := if d.sig = u.line.sendSig then .isMatch else .mismatch } } }

/-- A separator turn makes `x` of `u`: white, or the attempt's end with the drum not ready (R88, R92); `begins` says
that the INDEX begins SEPARATOR. -/
structure State.WhiteTurn (begins : Bool) (u x : State) : Prop where
  sent : u.drum.state.turns → x =
    { u with
      line := { u.line with turnCount := if begins = true then u.line.turnCount else u.line.turnCount + 1 } }.toned
        u.line.hWhite
  notReady : ¬ u.drum.state.turns → State.AttemptOver u .drumFault .drumNotReady true x

/-- The ring is asked about the send position's frame, which makes `x` of `u` (R65, R92): EMPTY ends that frame and
asks about the next; READY begins the picture after two separator turns. -/
inductive State.Asked (begins : Bool) : State → State → Prop
  | ready (u x : State) : (∃ e ∈ u.ring.slots, e.holdsLine u.ring.sendFrame 0 = true) → 2 ≤ u.line.turnCount →
      u.drum.state.turns → State.TurnSent { u with line := { u.line with state := .picture, sendSig := 1 } } x →
      State.Asked begins u x
  | late (u x : State) : (∃ e ∈ u.ring.slots, e.holdsLine u.ring.sendFrame 0 = true) → 2 ≤ u.line.turnCount →
      ¬ u.drum.state.turns → State.AttemptOver u .drumFault .drumNotReady true x → State.Asked begins u x
  | soon (u x : State) : (∃ e ∈ u.ring.slots, e.holdsLine u.ring.sendFrame 0 = true) → u.line.turnCount < 2 →
      State.WhiteTurn begins u x → State.Asked begins u x
  | notYet (u x : State) : (∀ e ∈ u.ring.slots, e.holdsLine u.ring.sendFrame 0 = false) →
      (∀ d, u.ring.frameDone.find? (fun e => decide (e.frame = u.ring.sendFrame)) = some d → d.linesScanned ≠ 0) →
      State.WhiteTurn begins u x → State.Asked begins u x
  | emptyLast (u x : State) (d : FrameDone) : (∀ e ∈ u.ring.slots, e.holdsLine u.ring.sendFrame 0 = false) →
      u.ring.frameDone.find? (fun e => decide (e.frame = u.ring.sendFrame)) = some d → d.linesScanned = 0 →
      u.line.frames.length ≤ u.ring.sendFrame + 1 →
      State.AttemptOver (State.frameSent d { u with line := { u.line with sendSig := 1 } }) .sent .none true x →
      State.Asked begins u x
  | empty (u x : State) (d : FrameDone) : (∀ e ∈ u.ring.slots, e.holdsLine u.ring.sendFrame 0 = false) →
      u.ring.frameDone.find? (fun e => decide (e.frame = u.ring.sendFrame)) = some d → d.linesScanned = 0 →
      u.ring.sendFrame + 1 < u.line.frames.length →
      State.Asked begins
        { State.frameSent d { u with line := { u.line with sendSig := 1 } } with
          ring := { u.ring with sendFrame := u.ring.sendFrame + 1, sendLine := 0 } } x →
      State.Asked begins u x

/-- The turn that an INDEX begins in PICTURE makes `x` of `u` (R64, R88, R90, R92, R94): a frame whose last line has
been sent ends, with the attempt when it is the last. -/
structure State.PictureTurn (u x : State) : Prop where
  sends : (u.ring.repeatQueue ≠ [] ∨ (∃ e ∈ u.ring.slots, e.holdsLine u.ring.sendFrame u.ring.sendLine = true) ∨
    u.ring.frameDone.find? (fun e => decide (e.frame = u.ring.sendFrame)) = none) → u.TurnSent x
  ends : ∀ d, u.ring.repeatQueue = [] →
    (∀ e ∈ u.ring.slots, e.holdsLine u.ring.sendFrame u.ring.sendLine = false) →
    u.ring.frameDone.find? (fun e => decide (e.frame = u.ring.sendFrame)) = some d →
    (u.line.frames.length ≤ u.ring.sendFrame + 1 → State.AttemptOver (u.frameSent d) .sent .none true x) ∧
    (u.ring.sendFrame + 1 < u.line.frames.length →
      State.Asked true
        { u.frameSent d with
          line := { u.line with state := .separator, turnCount := 1 }
          ring := { u.ring with sendFrame := u.ring.sendFrame + 1, sendLine := 0 } } x)

/-- The phasing turn T of a CALL makes `x` of `u` (R89): black, and a scan-start at turn P − D. -/
structure State.PhasingTurn (T : Nat) (u x : State) : Prop where
  starts : ∀ c, u.line.call = some c → T + c.delay = c.phasing → State.ScanStarted (u.toned u.line.hBlack) x
  plain : (∀ c, u.line.call = some c → T + c.delay ≠ c.phasing) → x = u.toned u.line.hBlack

/-- All three conditions of readiness hold (R87). -/
def State.phasingReady (u : State) : Prop :=
  u.drum.state.turns ∧ u.carriage.state = .atFrame ∧
    (∃ f rest, u.line.frames = f :: rest ∧ u.carriage.position = f.start) ∧ u.scan.state = .ready

/-- The Line Unit takes an INDEX: `x` of `u` (R63, R66, R87 to R92). -/
structure State.LineIndexed (u x : State) : Prop where
  ready : u.line.state = .readyWait → u.phasingReady →
    State.PhasingTurn 0
      { u.turnClosed with line := { u.turnClosed.line with state := .phasing, readyTimer := none, turnCount := 0 } } x
  waits : u.line.state = .readyWait → ¬ u.phasingReady → x = u.turnClosed
  phasing : ∀ c, u.line.state = .phasing → u.line.call = some c → u.line.turnCount + 1 < c.phasing →
    (u.drum.state.turns →
      State.PhasingTurn (u.line.turnCount + 1)
        { u.turnClosed with line := { u.turnClosed.line with turnCount := u.line.turnCount + 1 } } x) ∧
    (¬ u.drum.state.turns →
      State.AttemptOver
        { u.turnClosed with line := { u.turnClosed.line with turnCount := u.line.turnCount + 1 } }
        .drumFault .drumNotReady true x)
  phased : u.line.state = .phasing → (∀ c, u.line.call = some c → c.phasing ≤ u.line.turnCount + 1) →
    x = { u.turnClosed with line := { u.turnClosed.line with turnCount := u.line.turnCount + 1 } }
  picture : u.line.state = .picture → u.turnClosed.PictureTurn x
  separator : u.line.state = .separator → State.Asked false u.turnClosed x
  other : u.line.state ∉ [.readyWait, .phasing, .picture, .separator] → x = u.turnClosed

/-- An INDEX that the Scan Unit and the Line Unit take in either order makes `x` of `u` (R2, R61). -/
def State.Indexed (scanFirst : Bool) (u x : State) : Prop :=
  (scanFirst = true → ∃ m, u.ScanIndexed m ∧ m.LineIndexed x) ∧
  (scanFirst = false → u.scan.state = .scanning ∨ u.scan.state = .frameDone →
    ∃ m, u.LineIndexed m ∧ m.ScanIndexed x) ∧
  (scanFirst = false → u.scan.state ≠ .scanning → u.scan.state ≠ .frameDone → u.LineIndexed x)

/-! ## The end of a frame and a truncation (02, R29, R38, R40; 04, R62; 07, R131) -/

/-- `u` once its frame has ended (R38, R40, R62, R126): the carriage is `c`, and `noted` says that an arrival has been
noted. -/
def State.frameEnded (c : Carriage) (noted : Bool) (u : State) : State :=
  { u with
    scan := { u.scan with state := .frameDone, arrivalNoted := noted, truncating := false }
    carriage := c
    ring :=
      { u.ring with
        frameDone :=
          if u.line.active = true then
            u.ring.frameDone ++ [{ frame := u.scan.current, linesScanned := u.scan.linesDone, sig := u.scan.sig }]
          else u.ring.frameDone }
    jobs := { u.jobs with scanSigs := u.jobs.scanSigs.set u.scan.current u.scan.sig } }

/-- The frame of `u` ends, which makes `t` (R38, R39, R131): with an attempt in progress and a frame to follow, the
Job Controller sends the carriage to its start, and the first step is taken at once, or its fault found. -/
structure State.FrameEnds (u t : State) : Prop where
  stays : u.jobs.attemptInProgress = false ∨
      (∀ j, u.jobs.current = some j → j.members.length ≤ u.scan.current + 1) →
    t = u.frameEnded u.carriage.atRest false
  away : ∀ j f, u.jobs.attemptInProgress = true → u.jobs.current = some j →
    j.frames[u.scan.current + 1]? = some f → u.carriage.state = .tracking ∨ u.carriage.state = .atFrame →
    u.carriage.position < f.start → u.carriage.limit = false → (u.carriage.home = true → u.carriage.position = 0) →
    t = u.frameEnded
      { u.carriage with
        target := some f.start, state := .positioning, position := u.carriage.position + 1, dirAway := true
        home := false, stepsDue := 0, nextStep := some (u.now + 2500) } false
  toward : ∀ j f, u.jobs.attemptInProgress = true → u.jobs.current = some j →
    j.frames[u.scan.current + 1]? = some f → u.carriage.state = .tracking ∨ u.carriage.state = .atFrame →
    f.start < u.carriage.position → u.carriage.home = false →
    t = u.frameEnded
      { u.carriage with
        target := some f.start, state := .positioning, position := u.carriage.position - 1, dirAway := false
        limit := false, stepsDue := 0, nextStep := some (u.now + 2500) } false
  there : ∀ j f, u.jobs.attemptInProgress = true → u.jobs.current = some j →
    j.frames[u.scan.current + 1]? = some f → u.carriage.state = .tracking ∨ u.carriage.state = .atFrame →
    f.start = u.carriage.position →
    t = u.frameEnded
      { u.carriage with target := some f.start, state := .atFrame, stepsDue := 0, nextStep := none }
      (decide ((u.scan.frames[u.scan.current + 1]?.map fun g => g.start) = some u.carriage.position))
  blocked : ∀ j f, u.jobs.attemptInProgress = true → u.jobs.current = some j →
    j.frames[u.scan.current + 1]? = some f → u.carriage.state = .tracking ∨ u.carriage.state = .atFrame →
    u.carriage.position < f.start ∧ u.carriage.limit = true ∨
      u.carriage.position ≠ f.start ∧ u.carriage.home = true ∧ 0 < u.carriage.position →
    t = u.frameEnded
      { u.carriage with
        target := some f.start, state := .fault, dirAway := decide (u.carriage.position < f.start)
        stepsDue := 0, nextStep := none, faultEvent := true } false

/-- The Job Controller takes the carriage fault of `v`, if there is one, and `t` is the end of the step (R113, R114):
it ends a running job, or, with an attempt in progress and the free value of log entry 25 so, its requests are then
still on their way. -/
structure State.Delivered (v t : State) : Prop where
  quiet : v.carriage.faultEvent = false → v.Ends t
  ignored : v.carriage.faultEvent = true → v.jobs.state.running = false ∨ v.jobs.requestsDue ≠ none →
    State.Ends { v with carriage := { v.carriage with faultEvent := false } } t
  ends : v.carriage.faultEvent = true → v.jobs.state.running = true → v.jobs.requestsDue = none →
    Config.faultRequestsLate v.crystal = false ∨ v.jobs.attemptInProgress = false →
    State.JobEnded { v with carriage := { v.carriage with faultEvent := false } } .carriageFault t
  goesOut : v.carriage.faultEvent = true → v.jobs.state.running = true → v.jobs.requestsDue = none →
    Config.faultRequestsLate v.crystal = true → v.jobs.attemptInProgress = true →
    State.Ends
      { v with
        carriage := { v.carriage with faultEvent := false }
        jobs := { v.jobs with endCause := some .carriageFault, requestsDue := some { freeAhead := none } } } t

/-- The Scan Unit takes a limit-truncation, which makes `t` of `u` (R38, R62): with no line in progress the frame ends;
a line of which nothing has been sampled is given back first; any other goes on to its line-complete. -/
structure State.Truncated (u t : State) : Prop where
  other : u.scan.state ≠ .scanning → t = u
  ends : u.scan.state = .scanning → u.scan.line = none → u.FrameEnds t
  givesBack : ∀ l, u.scan.state = .scanning → u.scan.line = some l → l.positions = 0 →
    State.FrameEnds
      { u with
        ring :=
          { u.ring with
            slots := u.ring.slots.modify l.slot fun _ => { state := .free, frame := 0, line := 0 }
            writeIndex := if u.ring.writeIndex = 0 then u.ring.slots.length - 1 else u.ring.writeIndex - 1 }
        scan :=
          { u.scan with
            line := none, fifo := [], pair := none, blackRefs := [], whiteRefs := [], truncating := false
            nextLine := l.line }
        gate :=
          { u.gate with
            port := scanWordDropped u.gate.port } } t
  goesOn : ∀ l, u.scan.state = .scanning → u.scan.line = some l → 0 < l.positions →
    t = { u with scan := { u.scan with truncating := true } }

/-! ## Takes and completions (11_mailboxes.md) -/

/-- `t` is `u` after one completion has been handed to the Return side (R185, R188): with an empty Backlog and
the slot at the post index FREE it is posted at once, its four words going to that Return entry; otherwise it
joins the Backlog. -/
structure State.Handed (u : State) (c : Completion) (t : State) : Prop where
  posted : u.mailbox.backlog = [] → u.mailbox.slots[u.mailbox.postIndex]? = some .free →
    t = { u with
      mailbox :=
        { u.mailbox with
          slots := u.mailbox.slots.set u.mailbox.postIndex .posting
          postIndex :=
            if u.mailbox.postIndex + 1 < u.mailbox.slots.length then u.mailbox.postIndex + 1 else 0
          attn := (u.mailbox.slots.set u.mailbox.postIndex .posting).any (· == .full)
          resetSeen := false }
      gate :=
        { u.gate with
          ops := u.gate.ops ++
            [{ kind := .posting (some u.mailbox.postIndex) c.quiet
               todo := (wordsFrom (u.returnAddr u.mailbox.postIndex) (c.words u.mailbox.resetSeen)).map .wr
               got := [] }] } }
  waits : u.mailbox.backlog ≠ [] ∨ u.mailbox.slots[u.mailbox.postIndex]? ≠ some .free →
    t = { u with mailbox := { u.mailbox with backlog := u.mailbox.backlog ++ [c] } }

/-- Completions handed on one after another. -/
def State.HandedAll (u : State) : List Completion → State → Prop
  | [], t => t = u
  | c :: cs, t => ∃ v, u.Handed c v ∧ v.HandedAll cs t

/-- The Backlog `cs` is posted from `u`, oldest first, while the slot at the post index is FREE, and the rest of it stays
(R186). -/
def State.BacklogPosted (u : State) : List Completion → State → Prop
  | [], t => t = u
  | c :: cs, t =>
    (u.mailbox.slots[u.mailbox.postIndex]? = some .free → ∃ v, u.Handed c v ∧ v.BacklogPosted cs t) ∧
    (u.mailbox.slots[u.mailbox.postIndex]? ≠ some .free →
      t = { u with mailbox := { u.mailbox with backlog := c :: cs } })

/-- The state once the last word of Send entry e has been read: the word is done, `rest` are the operations
left, and the entry's note is cleared, with the writes to its action byte that came before the read (R182,
R183, R189). -/
def State.entryTaken (s : State) (e : Nat) (rest : List Op) (stale : Bool) : State :=
  { s with
    mailbox := { s.mailbox with noted := if stale = true then s.mailbox.noted else s.mailbox.noted.filter (· != e) }
    gate :=
      { s.gate with
        port := none, ops := rest
        toMailbox :=
          if stale = true then s.gate.toMailbox else s.gate.toMailbox.filter (· != .send e) } }

/-- `t` is `u` after the chain whose head lies at `addr` has been refused (R104, R184). -/
def State.ChainRefused (u : State) (take : Take) (addr : Nat) (why : RefusalReason) (t : State) : Prop :=
  ∃ v, State.Handed
      { u with
        jobs := { u.jobs with refusals := min (u.jobs.refusals + 1) 65535, lastRefusal := some why } }
      { addr := addr, status := .refused, reason := some why, ok := 0, failed := 0, quiet := false
        chainEnd := true } v ∧
    State.Ends (v.entryFreed take) t

/-- `u` once the current job has left: its guards gone, the lamp off (R119). -/
def State.jobLeft (u : State) : State :=
  { u with
    jobs :=
      { u.jobs with
        state := .idle, current := none, mountLamp := false, progress := [], retryList := [], scanSigs := []
        startInFlight := none, attemptInProgress := false, requestsDue := none }
    gate := { u.gate with guards := (u.gate.guards.take 2 ++ List.replicate 12 none).take 12 }
    scan := { u.scan with state := .idle, lamp := false, warm := none } }

/-! ## The bus and the port (09, R155, R157 to R160, R163) -/

/-- A host write to the word at `a` is guarded for a reason (R157, R158). -/
def State.covered (s : State) (a : Nat) : DropReason → Prop
  | .ring => ∃ l, s.layout.inForce = some l ∧ s.jobs.current ≠ none ∧ l.ringBase ≤ a ∧
      a < l.ringBase + 1456 * l.ringCount
  | .history => ∃ l, s.layout.inForce = some l ∧ l.directoryBase ≤ a ∧
      a < l.directoryBase + 64 * l.directoryCount ∧ 48 ≤ (a - l.directoryBase) % 64
  | r => ∃ g, some g ∈ s.gate.guards ∧ g.reason = r ∧ g.base ≤ a ∧ a < g.base + g.length

/-- The first reason that covers the word at `a`, in the order of R157. -/
def State.firstGuard (s : State) (a : Nat) (why : DropReason) : Prop :=
  s.covered a why ∧ ∀ r, r.code < why.code → ¬ s.covered a r

/-- What the drained write `w` hands on (R156): the Send entry and the Return entry whose action byte it writes, the
generation word and the Profile Area word that it writes. -/
structure State.HandedOn (s : State) (w : HostWrite) (sends rets : List MailboxWrite)
    (gens profiles : List LayoutWrite) : Prop where
  once : sends.Nodup ∧ rets.Nodup ∧ gens.Nodup ∧ profiles.Nodup
  send : ∀ x, x ∈ sends ↔ ∃ l e, s.layout.inForce = some l ∧ e < l.sendCount ∧ w.addr = l.sendBase + 8 * e + 4 ∧
    w.be.getLsbD 0 = true ∧ x = .send e
  ret : ∀ x, x ∈ rets ↔ ∃ l n, s.layout.inForce = some l ∧ n < l.returnCount ∧
    w.addr = l.returnBase + 16 * n + 12 ∧ w.be.getLsbD 0 = true ∧ x = .ret n (byteOf w.data 0)
  gen : ∀ x, x ∈ gens ↔ w.addr = 0x404 ∧ x = .generation
  profile : ∀ x, x ∈ profiles ↔ ∃ l n, s.layout.inForce = some l ∧ l.profileBase ≤ w.addr ∧
    w.addr < l.profileBase + 1024 ∧ n = (w.addr - l.profileBase) / 4 ∧ x = .profile n w.data w.be

/-- The command reports that the word in progress on the port is done. -/
def PortWord.endedBy : PortWord → Instr → Bool
  | .scanEntry _ _, .scanWordWritten | .scanHeader _ _, .scanWordWritten => true
  | .prefetch _ _ _, .prefetchWordArrived | .hostRead, .hostReadData | .hostWrite, .hostWriteDrain => true
  | .slipLog, .slipLogWordWritten => true
  | .control, .controlWordDone | .control, .startEntry | .control, .abortEntry _ _ | .control, .freeEntry
  | .control, .badActionEntry | .control, .tcbMemberRead | .control, .jobResultsWritten
  | .control, .abortedResultsWritten | .control, .directoryReadDone | .control, .historyReadDone
  | .control, .returnPostingDone | .control, .layoutBlockRead | .control, .loadProfileWord => true
  | _, _ => false

/-- The word `w` in progress goes on as `x`: the same word, or the same with its result no longer wanted, for a line
dropped (R32) or a slot left (R66). -/
def PortWord.goesOnAs (w x : PortWord) : Prop :=
  x = w ∨ (∃ a n live, w = .prefetch a n live ∧ x = .prefetch a n false) ∨
    (∃ a live, w = .scanEntry a live ∧ x = .scanEntry a false) ∨
    (∃ a live, w = .scanHeader a live ∧ x = .scanHeader a false)

/-- The command may leave the requests of an end cause on their way: a cause given so, or a command that may give a
carriage-fault. -/
def leavesRequests : Instr → Bool
  | .tachEvent _ _ | .homingStep | .homingFault | .positionStep | .limitAsserted | .homeAsserted | .trackStep
  | .scanWordWritten | .directoryReadDone => true
  | .abortEntry l _ | .clampOpen _ l | .stopKey l => l
  | _ => false

/-! ## The Status Page (12, Status Page and Code values) -/

/-- The value of a word whose fields, given as lowest bit, width and value, are each written saturated, every other bit
being 0 (R191, R192). -/
def fieldsValue (fields : List (Nat × Nat × Nat)) : Nat :=
  (fields.map fun x => 2 ^ x.1 * min x.2.2 (2 ^ x.2.1 - 1)).sum

/-- The fields of word w of the Status Page, as the table of 12 gives them. A code is the place of its value in the list
of its set; what is shown for none is that of R192. -/
def State.statusFields (s : State) (w : Nat) : List (Nat × Nat × Nat) :=
  match w with
  | 0 => [(0, 8, s.clock.time.seconds), (8, 8, s.clock.time.minutes), (16, 8, s.clock.time.hours),
      (24, 1, s.clock.time.isSet.toNat)]
  | 1 => [(0, 32, s.clock.uptime)]
  | 2 => [(0, 8, if s.layout.load ≠ none then 1 else if s.layout.inForce = none then 0 else 2),
      (8, 8, [none, some .accepted, some .refusedInvalid, some .refusedBusy].idxOf s.layout.lastResult),
      (16, 8, [none, some .badVersion, some .badCount, some .misaligned, some .outsideTop, some .overlap,
        some .busy].idxOf s.layout.lastReason),
      (24, 1, s.layout.reload.toNat)]
  | 3 => [(0, 32, (s.layout.inForce.map fun l => l.generation.toNat).getD 0)]
  | 4 => [(0, 32, s.layout.generationRead.toNat)]
  | 5 => [(0, 16, s.layout.refusals), (16, 16, s.layout.partials)]
  | 6 => [(0, 16, s.layout.parities), (16, 16, s.layout.ranges)]
  | 7 => [(0, 16, s.layout.lastRefusedWord.getD 0xFFFF),
      (16, 8, [none, some .partialBytes, some .parity, some .range].idxOf s.layout.lastRefusalKind)]
  | 8 => [(0, 16, s.gate.dropped),
      (16, 8, [none, some .statusPage, some .preview, some .ring, some .history, some .tcb,
        some .toneBank].idxOf s.gate.droppedReason)]
  | 9 => [(0, 32, s.gate.droppedAddr)]
  | 10 => [(0, 8, [DrumState.stopped, .ramping, .settling, .inBand, .bandWarning, .faultWait, .latched,
        .parking].idxOf s.drum.state),
      (8, 8, match s.drum.target with
        | none => 0
        | some .rpm60 => 60
        | some .rpm90 => 90
        | some .rpm120 => 120),
      (16, 8, s.drum.retryCount), (24, 1, s.drum.flagStall.toNat), (25, 1, s.drum.flagSlip.toNat),
      (26, 1, s.drum.flagOvercurrent.toNat), (27, 1, s.drum.brake.toNat),
      (28, 1, if s.drum.state = .latched ∧ s.drum.spinRequest ≠ none then 1 else 0)]
  | 11 => [(0, 16, s.drum.measured), (16, 16, s.drum.duty)]
  | 12 => [(0, 16, s.drum.stallEvents), (16, 16, s.drum.slipEvents)]
  | 13 => [(0, 16, s.drum.overcurrentEvents), (16, 16, s.drum.turnErrors)]
  | 14 => [(0, 8, [CarriageState.unhomed, .homing, .positioning, .atFrame, .tracking, .fault].idxOf s.carriage.state),
      (8, 1, s.carriage.homed.toNat), (16, 16, s.carriage.position)]
  | 15 => [(0, 8, [ScannerState.idle, .warming, .ready, .scanning, .frameDone].idxOf s.scan.state),
      (8, 1, s.scan.lamp.toNat), (16, 8, s.scan.current), (24, 1, s.line.pairDefaulted.toNat)]
  | 16 => [(0, 16, s.scan.nextLine), (16, 16, s.scan.holds)]
  | 17 => [(0, 16, s.scan.stalls), (16, 16, s.scan.overruns)]
  | 18 => [(0, 16, (s.scan.lastPair.map fun x => x.1).getD 0xFFFF),
      (16, 16, (s.scan.lastPair.map fun x => x.2).getD 0xFFFF)]
  | 19 => [(0, 16, s.line.hWhite), (16, 16, s.line.hBlack)]
  | 20 => [(0, 8, s.ring.writeIndex), (8, 8, s.ring.sendFrame), (16, 16, s.ring.sendLine)]
  | 21 => [(0, 8, s.ring.repeatQueue.length), (8, 8, s.ring.latch.getD 0xFF),
      (16, 8, [none, some .queueBusy, some .limitReached, some .emptyRange,
        some .linesGone].idxOf s.ring.lastRefusal)]
  | 22 => [(0, 16, s.ring.gaps), (16, 16, s.ring.starves)]
  | 23 => [(0, 16, s.ring.grants), (16, 16, s.ring.refusals)]
  | 24 => [(0, 8, lineStates.idxOf s.line.state), (8, 8, s.line.dialCursor), (16, 1, s.line.loopShown.toNat),
      (24, 8, s.line.turnCount)]
  | 25 => [(0, 8, [none, some .ready, some .notReady, some .repeatLines,
        some .halt].idxOf (s.line.lastTone.map fun x => x.1)),
      (8, 8, (s.line.lastTone.map fun x => lineStates.idxOf x.2).getD 0),
      (16, 8, [none, some .sent, some .noAnswer, some .notReady, some .lineLost, some .drumFault, some .halted,
        some .carriageFault, some .aborted, some .operatorStop, some .mediaRemoved].idxOf s.line.lastOutcome),
      (24, 8, [Detail.none, .bandLost, .stall, .slip, .overcurrent, .drumNotReady, .noIndex, .carriageNotReady,
        .scannerNotReady, .carriageEvent].idxOf s.line.lastDetail)]
  | 26 => [(0, 8, [JobState.idle, .mountWait, .attempting, .retryWait, .finishing].idxOf s.jobs.state),
      (8, 8, match s.jobs.endCause with
        | none => 0
        | some .carriageFault => 7
        | some .aborted => 8
        | some .operatorStop => 9
        | some .mediaRemoved => 10),
      (16, 8, s.jobs.queue.length), (24, 2, [Mount.fresh, .opened, .stale].idxOf s.jobs.mount),
      (26, 1, s.jobs.clampClosed.toNat)]
  | 27 => [(0, 32, ((s.jobs.current.bind fun j => j.members.head?).map fun m => m.addr).getD 0)]
  | 28 => [(0, 16, s.jobs.refusals),
      (16, 8, [none, some .badAddress, some .frameOutOfRange, some .badSpeed, some .badSlots, some .badPitch,
        some .badReferences, some .badDestination, some .ringTooSmall, some .chainTooLong, some .chainMismatch,
        some .duplicate, some .busy, some .badAction].idxOf s.jobs.lastRefusal)]
  | 29 => [(0, 8, (s.jobs.currentDest.map fun x => x.1).getD 0xFF),
      (8, 8, (s.jobs.currentDest.map fun x => x.2).getD 0),
      (16, 8, (s.jobs.progress.filter fun d => d.progress == .final).length), (24, 8, s.jobs.progress.length)]
  | 30 => [(0, 8, s.jobs.retryList.length), (8, 1, s.jobs.lineAtRest.toNat), (16, 16, s.jobs.directoryFaults)]
  | 31 => [(0, 32, (s.jobs.retryList.head?.map fun x => x.2).getD 0)]
  | 32 => [(0, 8, [PrinterState.idle, .printing, .paperOut].idxOf s.slips.printer), (8, 8, s.slips.queue.length),
      (16, 8, s.slips.logIndex)]
  | 33 => [(0, 16, s.slips.lastComposed), (16, 16, s.slips.lastPrinted)]
  | 34 => [(0, 16, s.slips.unprinted), (16, 16, s.slips.reprints)]
  | 35 => [(0, 16, s.slips.lost), (16, 16, s.slips.lastLogged)]
  | 36 => [(0, 8, s.mailbox.takeIndex), (8, 1, s.mailbox.take.isSome.toNat), (16, 8, s.mailbox.postIndex),
      (24, 8, s.mailbox.backlog.length)]
  | 37 => [(0, 8, (s.mailbox.slots.filter fun x => x == .full).length),
      (8, 8, (s.mailbox.slots.filter fun x => x == .fullQuiet).length), (16, 1, s.mailbox.attn.toNat),
      (24, 1, s.mailbox.resetSeen.toNat)]
  | _ => []
where
  /-- The line states in the order of their codes. -/
  lineStates : List LineState :=
    [.onHook, .seizeWait, .dialing, .answerWait, .startTone, .readyWait, .phasing, .picture, .separator, .stopTone,
      .releaseGuard]

/-! ## Loads (10, R172, R176) -/

/-- Word w of the Profile Area holds a value. -/
def holdsValue (w : Nat) : Prop := w ≤ 25 ∨ (32 ≤ w ∧ w ≤ 47) ∨ (64 ≤ w ∧ w ≤ 133)

/-- The range of value word w (R177), codes by their place in their lists (12, Code values). -/
def valueAllowed (w v : Nat) : Prop :=
  match w with
  | 0 | 1 | 2 | 3 | 4 | 5 => v ≤ 1023
  | 6 => 1 ≤ v ∧ v ≤ 5000
  | 7 => 2 ≤ v ∧ v ≤ 9
  | 8 | 14 => v ≤ 1
  | 9 => 1 ≤ v ∧ v ≤ 200
  | 10 | 11 | 12 => v = 0 ∨ (100 ≤ v ∧ v ≤ 1190)
  | 13 => v = 2 ∨ v = 4 ∨ v = 6
  | 15 => v ≤ 600
  | 16 => 5 ≤ v ∧ v ≤ 60
  | 17 | 18 | 19 => v ≤ 4
  | 20 => 5 ≤ v ∧ v ≤ 100
  | 21 => 1 ≤ v ∧ v ≤ 7
  | 22 => 100 ≤ v ∧ v ≤ 1000
  | 23 => v = 2 ∨ v = 4 ∨ v = 6 ∨ v = 8
  | 24 => 1 ≤ v ∧ v ≤ 8
  | 25 => 4 ≤ v ∧ v ≤ 64
  | 32 | 40 => 500 ≤ v ∧ v ≤ 10000
  | 33 | 34 => 20 ≤ v ∧ v ≤ 200
  | 35 | 38 => 5 ≤ v ∧ v ≤ 120
  | 36 => 2 ≤ v ∧ v ≤ 8
  | 37 | 39 => 1 ≤ v ∧ v ≤ 10
  | 41 => 100 ≤ v ∧ v ≤ 2000
  | 42 => v ≤ 15
  | 43 | 44 | 45 | 46 => 400 ≤ v ∧ v ≤ 3000
  | 47 => v ≤ 100
  | _ => False

/-- The values that the shadow holds for words 0 to 47 (R177); words 26 to 31 hold none. -/
def Profile.values (p : Profile) : List Nat :=
  [ p.drum.ff60, p.drum.ff90, p.drum.ff120, p.drum.kp, p.drum.ki, p.drum.dutyMax, p.drum.band, p.drum.lossLimit
  , [RampMode.linear, .staircase].idxOf p.drum.rampMode, p.drum.slew, p.drum.stair0, p.drum.stair1, p.drum.stair2
  , p.drum.hold, [ParkMode.coast, .brake].idxOf p.drum.parkMode, p.drum.parkDelay, p.drum.spinupS
  , policies.idxOf p.drum.stallPolicy, policies.idxOf p.drum.slipPolicy, policies.idxOf p.drum.overcurrentPolicy
  , p.drum.retryTime, p.drum.retryLimit, p.drum.stallMs, p.drum.ratio, p.drum.deglitch, p.drum.ocCount
  , 0, 0, 0, 0, 0, 0
  , p.line.seizeWait, p.line.breakMs, p.line.makeMs, p.line.answerTimeout, p.line.windows, p.line.startToneTime
  , p.line.readyWait, p.line.stopToneTime, p.line.releaseGuard, p.line.loopLoss, p.line.repeatLimit
  , p.line.fBlack, p.line.fWhite, p.line.fStart, p.line.fStop, p.lampWarmUp ]
where
  /-- The fault policies in the order of their codes. -/
  policies : List Policy := [.off, .report, .retry, .latchCoast, .latchBrake]

/-- The capture of `data` at word w makes `q` of the shadow `p`, none for a field out of its range (R176, R177): a value
word's bits 0 to 30 become its value; a tone bank word's bits 0 to 15 and 16 to 30 become two entries of its bank, a
slip header word's bytes, the last without its parity bit, four characters. Nothing else of the shadow changes. -/
structure Profile.Captured (p : Profile) (w : Nat) (data : Word) (q : Option Profile) : Prop where
  value : ∀ v, w < 64 → v = data.toNat % 2147483648 → valueAllowed w v →
    ∃ r, q = some r ∧ r.values = p.values.set w v ∧ r.bank0 = p.bank0 ∧ r.bank1 = p.bank1 ∧ r.header = p.header
  outside : ∀ v, w < 64 → v = data.toNat % 2147483648 → ¬ valueAllowed w v → q = none
  tones : ∀ i a b, 64 ≤ w → w < 128 → i = (w - 64) % 32 → a = data.toNat % 65536 → b = data.toNat / 65536 % 32768 →
    q =
      if 255 < a ∨ 255 < b then none
      else if w < 96 then some { p with bank0 := (p.bank0.set (2 * i) a).set (2 * i + 1) b }
      else some { p with bank1 := (p.bank1.set (2 * i) a).set (2 * i + 1) b }
  text : ∀ i a b c d, 128 ≤ w → w < 134 → i = 4 * (w - 128) → a = data.toNat % 256 → b = data.toNat / 256 % 256 →
    c = data.toNat / 65536 % 256 → d = data.toNat / 16777216 % 128 →
    q =
      if ∃ x ∈ [a, b, c, d], x < 32 ∨ 126 < x then none
      else
        some
          { p with
            header := (((p.header.set i a).set (i + 1) b).set (i + 2) c).set (i + 3) d }

/-- What a capture that changes the profile words from `old` to `new` at time `t` makes of the Regulator `d` (01, Faults;
log entry 16): a kind turned OFF stops being watched, and one turned on is watched afresh. -/
structure Drum.Watched (old new : DrumProfile) (t : Nat) (d e : Drum) : Prop where
  rest : e =
    { d with
      stallTimer := e.stallTimer, spinUp := e.spinUp, stallDue := e.stallDue, spinUpDue := e.spinUpDue
      slipRun := e.slipRun, slipDue := e.slipDue, ocRun := e.ocRun, overcurrentDue := e.overcurrentDue }
  stallOff : new.stallPolicy = .off →
    e.stallTimer = none ∧ e.spinUp = none ∧ e.stallDue = false ∧ e.spinUpDue = false
  stallOn : new.stallPolicy ≠ .off → old.stallPolicy = .off →
    e.stallTimer = (if 0 < d.duty then some t else none) ∧
      e.spinUp = (if d.state = .ramping ∨ d.state = .settling then some t else none) ∧
      e.stallDue = d.stallDue ∧ e.spinUpDue = d.spinUpDue
  stallKept : new.stallPolicy ≠ .off → old.stallPolicy ≠ .off →
    e.stallTimer = d.stallTimer ∧ e.spinUp = d.spinUp ∧ e.stallDue = d.stallDue ∧ e.spinUpDue = d.spinUpDue
  slip : new.slipPolicy = .off ∨ old.slipPolicy = .off → e.slipRun = 0 ∧ e.slipDue = false
  slipKept : new.slipPolicy ≠ .off → old.slipPolicy ≠ .off → e.slipRun = d.slipRun ∧ e.slipDue = d.slipDue
  current : new.overcurrentPolicy = .off ∨ old.overcurrentPolicy = .off → e.ocRun = 0 ∧ e.overcurrentDue = false
  currentKept : new.overcurrentPolicy ≠ .off → old.overcurrentPolicy ≠ .off →
    e.ocRun = d.ocRun ∧ e.overcurrentDue = d.overcurrentDue

/-- Word w is a word of a tone bank that a guard covers (R172). -/
def State.bankGuarded (s : State) (w : Nat) : Prop :=
  64 ≤ w ∧ w < 128 ∧ ∃ g, some g ∈ s.gate.guards ∧ g.reason = .toneBank ∧ g.bank = (w - 64) / 32

/-- Word w of a load arrives as `data`, which leaves the shadow `p`, the Regulator `d` and Layout and Profile `ly`
(R172, R176): a word that holds no value, or of a guarded tone bank, is passed over; any other is captured or
refused. -/
structure State.WordOfLoad (s : State) (w : Nat) (data : Word) (p : Profile) (d : Drum) (ly : LayoutUnit) :
    Prop where
  passed : ¬ holdsValue w ∨ s.bankGuarded w → p = s.profile ∧ d = s.drum ∧ ly = s.layout
  captured : ∀ q, holdsValue w → ¬ s.bankGuarded w → evenParity data = true → s.profile.capture w data = some q →
    p = q ∧ s.drum.Watched s.profile.drum q.drum s.now d ∧ ly = s.layout
  parity : holdsValue w → ¬ s.bankGuarded w → evenParity data = false →
    p = s.profile ∧ d = s.drum ∧ ly =
      { s.layout with
        lastRefusedWord := some w, lastRefusalKind := some .parity, parities := min (s.layout.parities + 1) 65535 }
  range : holdsValue w → ¬ s.bankGuarded w → evenParity data = true → s.profile.capture w data = none →
    p = s.profile ∧ d = s.drum ∧ ly =
      { s.layout with
        lastRefusedWord := some w, lastRefusalKind := some .range, ranges := min (s.layout.ranges + 1) 65535 }

/-! ## Numbers in the slip text (08, R145) -/

/-- The number that digits to a base stand for. -/
def numeralValue (base : Nat) (cs : List Nat) : Nat :=
  cs.foldl (fun v c => base * v + (if c < 58 then c - 48 else c - 55)) 0

/-- `cs` is `n` in `width` digits to the base 10 or 16, 0 to 9 and A to F. -/
structure Numeral (base width n : Nat) (cs : List Nat) : Prop where
  length : cs.length = width
  digit : ∀ c ∈ cs, (48 ≤ c ∧ c ≤ 57) ∨ (base = 16 ∧ 65 ≤ c ∧ c ≤ 70)
  value : numeralValue base cs = n

/-! ## Invariants -/

/-- At most one slot of a table is in a state. -/
def atMostOne (st : SlotState) (l : List RingSlot) : Bool := decide ((l.filter (·.state == st)).length ≤ 1)

/-- The tables of the Line Ring (R60): a slot FILLING is that of the line in progress, a slot SENDING is the one picked,
and a slot is picked only in PICTURE. -/
structure State.SlotsLegal (s : State) : Prop where
  filling : ∀ (n : Nat) (e : RingSlot), s.ring.slots[n]? = some e → e.state = .filling →
    ∃ l, s.scan.line = some l ∧ l.slot = n
  sending : ∀ (n : Nat) (e : RingSlot), s.ring.slots[n]? = some e → e.state = .sending → s.ring.picked = some n
  picture : s.ring.picked ≠ none → s.line.state = .picture

/-- The tables of the job (R110, R124, R129, R134): the destination ATTEMPTING is that of the start in flight or of the
attempt in progress, of which there is at most one, in ATTEMPTING or RETRY_WAIT alone; the Retry List holds the
destinations in RETRY_WAIT, each once. -/
structure State.AttemptsLegal (s : State) : Prop where
  one : ∀ n : Nat, (∃ d, s.jobs.progress[n]? = some d ∧ d.progress = .attempting) ↔
    (s.jobs.startInFlight = some n ∨ (s.jobs.attemptInProgress = true ∧ s.record.destSlot = n))
  apart : s.jobs.startInFlight = none ∨ s.jobs.attemptInProgress = false
  runs : s.jobs.startInFlight ≠ none ∨ s.jobs.attemptInProgress = true →
    s.jobs.state = .attempting ∨ s.jobs.state = .retryWait
  once : (s.jobs.retryList.map (·.1)).Nodup
  waits : ∀ n : Nat, n ∈ s.jobs.retryList.map (·.1) ↔ ∃ d, s.jobs.progress[n]? = some d ∧ d.progress = .retryWait

/-- An operation of a take: the read of the entry or of a member, or the results of a job aborted from the queue. -/
def OpKind.ofTake : OpKind → Bool
  | .sendRead _ | .memberRead | .abortedResults _ => true
  | _ => false

/-- The room that the Backlog needs (R187): eight completions for the take in progress and eight for the job that runs
or finishes stay within sixteen; a chain has at most eight members, and each take and each finish has one operation
that ends it. -/
structure State.BacklogLegal (s : State) : Prop where
  room : s.mailbox.backlog.length + (if s.mailbox.take.isSome = true then 8 else 0) +
    (if s.jobs.state ∈ [.attempting, .retryWait, .finishing] then 8 else 0) ≤ 16
  queued : ∀ j ∈ s.jobs.queue, j.members.length ≤ 8
  current : ∀ j, s.jobs.current = some j → j.members.length ≤ 8
  aborted : ∀ op ∈ s.gate.ops, ∀ j, op.kind = .abortedResults j → j.members.length ≤ 8
  fetching : ∀ t head members a, s.mailbox.take = some t → t.phase = .fetching head members a → members.length < 8
  takes : (s.gate.ops.filter fun op => op.kind.ofTake).length ≤ if s.mailbox.take.isSome = true then 1 else 0
  results : (s.gate.ops.filter fun op => decide (op.kind = .results)).length ≤
    if s.jobs.state = .finishing then 1 else 0
  causes : s.jobs.requestsDue ≠ none →
    s.jobs.endCause ≠ none ∧ (s.jobs.state = .attempting ∨ s.jobs.state = .retryWait)

/-- ATTN is asserted exactly when some Return slot is FULL (R188). -/
def State.attnLegal (s : State) : Bool := s.mailbox.attn == s.mailbox.slots.any (· == .full)

/-- The MOUNT lamp is lit exactly in MOUNT_WAIT (R121). -/
def State.lampLegal (s : State) : Bool := s.jobs.mountLamp == (s.jobs.state == .mountWait)

/-- The relay is closed only while the Line Unit is in neither ON_HOOK nor RELEASE_GUARD (R96). -/
def State.relayLegal (s : State) : Bool :=
  s.line.relay == !(s.line.state == .onHook || s.line.state == .releaseGuard)

/-- The SEND lamp is lit exactly while the line is seized (R79, R96). -/
def State.sendLampLegal (s : State) : Bool := s.line.sendLamp == s.line.relay

/-- The posted-write buffer holds 0 to 2 writes (09, the Gate's table). -/
def State.bufferLegal (s : State) : Bool := decide (s.gate.buffer.length ≤ 2)

/-- The uptime stays within 32 bits (R140). -/
def State.uptimeLegal (s : State) : Bool := decide (s.clock.uptime ≤ 4294967295)

/-- Every value of the Profile Shadow lies in the range that R177 gives it. -/
structure Profile.Legal (p : Profile) : Prop where
  duties : p.drum.ff60 ≤ 1023 ∧ p.drum.ff90 ≤ 1023 ∧ p.drum.ff120 ≤ 1023 ∧ p.drum.kp ≤ 1023 ∧
    p.drum.ki ≤ 1023 ∧ p.drum.dutyMax ≤ 1023
  band : 1 ≤ p.drum.band ∧ p.drum.band ≤ 5000 ∧ 2 ≤ p.drum.lossLimit ∧ p.drum.lossLimit ≤ 9
  ramp : 1 ≤ p.drum.slew ∧ p.drum.slew ≤ 200 ∧ p.drum.hold ∈ [2, 4, 6]
  stair : ∀ v ∈ [p.drum.stair0, p.drum.stair1, p.drum.stair2], v = 0 ∨ (100 ≤ v ∧ v ≤ 1190)
  times : p.drum.parkDelay ≤ 600 ∧ 5 ≤ p.drum.spinupS ∧ p.drum.spinupS ≤ 60 ∧ 5 ≤ p.drum.retryTime ∧
    p.drum.retryTime ≤ 100 ∧ 100 ≤ p.drum.stallMs ∧ p.drum.stallMs ≤ 1000
  counts : 1 ≤ p.drum.retryLimit ∧ p.drum.retryLimit ≤ 7 ∧ p.drum.ratio ∈ [2, 4, 6, 8] ∧
    1 ≤ p.drum.deglitch ∧ p.drum.deglitch ≤ 8 ∧ 4 ≤ p.drum.ocCount ∧ p.drum.ocCount ≤ 64
  dial : 500 ≤ p.line.seizeWait ∧ p.line.seizeWait ≤ 10000 ∧ 20 ≤ p.line.breakMs ∧ p.line.breakMs ≤ 200 ∧
    20 ≤ p.line.makeMs ∧ p.line.makeMs ≤ 200 ∧ 5 ≤ p.line.answerTimeout ∧ p.line.answerTimeout ≤ 120
  tones : 2 ≤ p.line.windows ∧ p.line.windows ≤ 8 ∧ 1 ≤ p.line.startToneTime ∧ p.line.startToneTime ≤ 10 ∧
    5 ≤ p.line.readyWait ∧ p.line.readyWait ≤ 120 ∧ 1 ≤ p.line.stopToneTime ∧ p.line.stopToneTime ≤ 10
  release : 500 ≤ p.line.releaseGuard ∧ p.line.releaseGuard ≤ 10000 ∧ 100 ≤ p.line.loopLoss ∧
    p.line.loopLoss ≤ 2000 ∧ p.line.repeatLimit ≤ 15
  freqs : ∀ f ∈ [p.line.fBlack, p.line.fWhite, p.line.fStart, p.line.fStop], 400 ≤ f ∧ f ≤ 3000
  lamp : p.lampWarmUp ≤ 100
  banks : p.bank0.length = 64 ∧ p.bank1.length = 64 ∧ ∀ v ∈ p.bank0 ++ p.bank1, v ≤ 255
  header : p.header.length = 24 ∧ ∀ c ∈ p.header, 32 ≤ c ∧ c ≤ 126

end Sys2Proof.Machine
end

