-- ==== Sys2Proof/Certificates/Slice0/Obligations.lean ====
section
/-! DEFINITION. The statements about the LD-2418, for the provers. Each docstring names the rules it rests on.
`State.Ends u t` says that `t` is `u` but for what the end of every step may do: a free memory port granted, a
held read sorted again, Status Page marks and Status Page words (Safety.lean); so a conclusion `Ends u t` gives
the command's whole effect, its frame among it. -/

open Sys2Proof Sys2Proof.Machine

/-! ## The machine -/

/-- A step takes the command at the front of the queue and runs exec on it with the queue's rest. -/
def Obligations.StepRunsTheFrontCommand : Prop :=
  ∀ (c : Instr) (q : List Instr) (s : State), s.pending = c :: q →
    step s = exec c { s with pending := q }

/-- MODEL'S CHOICE (log entries 1, 23, 25 and 27): every command answers a next state from every state, takes no time
and leaves the queue of waiting commands alone; with no command waiting, a step is one count of the crystal, and,
but for the requests of an end cause that are on their way, nothing else but the end of every step. -/
def Obligations.EveryStepAnswers : Prop :=
  (∀ (c : Instr) (s : State),
    ∃ t, exec c s = .next t ∧ t.pending = s.pending ∧ t.crystal = s.crystal) ∧
  (∀ s : State, s.pending = [] →
    ∃ t, step s = .next t ∧ t.pending = [] ∧ t.crystal = s.crystal + 1 ∧
      (s.jobs.requestsDue = none → State.Ends { s with crystal := s.crystal + 1 } t))
/-! ## The Drum Regulator (01_the_drum.md) -/

/-- R1: an INDEX pulse sets the index-armed flag, and what each tach event then makes of the interval number, the
index-armed and turn-synchronised flags, the turn error counter and the two lengths, in every state of the part; and
what no tach event touches. Model's choice in it: the first tach event ends no interval (log entry 11). -/
def Obligations.TachEventNumbersTheIntervals : Prop :=
  (∀ s : State, s.inReset = false →
    ∃ t, exec .indexPulse s = .next t ∧
      State.Ends { s with drum := { s.drum with indexArmed := true } } t) ∧
  (∀ (cells : Cells) (scanFirst : Bool) (s : State), s.inReset = false →
    ∃ t, exec (.tachEvent cells scanFirst) s = .next t ∧
      (s.drum.indexArmed = true →
        t.drum.interval = some 0 ∧ t.drum.indexArmed = false ∧ t.drum.synced = true ∧
        t.drum.turnErrors =
          if s.drum.synced = true ∧ s.drum.interval ≠ some 255 then min (s.drum.turnErrors + 1) 65535
          else s.drum.turnErrors) ∧
      (s.drum.indexArmed = false → s.drum.synced = true → s.drum.interval = some 255 →
        t.drum.interval = some 0 ∧ t.drum.indexArmed = false ∧ t.drum.synced = true ∧
        t.drum.turnErrors = min (s.drum.turnErrors + 1) 65535) ∧
      (∀ n, s.drum.indexArmed = false → s.drum.synced = true → s.drum.interval = some n → n < 255 →
        t.drum.interval = some (n + 1) ∧ t.drum.indexArmed = false ∧ t.drum.synced = true ∧
        t.drum.turnErrors = s.drum.turnErrors) ∧
      (s.drum.indexArmed = false → s.drum.synced = false →
        t.drum.interval = s.drum.interval ∧ t.drum.indexArmed = false ∧ t.drum.synced = false ∧
        t.drum.turnErrors = s.drum.turnErrors) ∧
      (∀ u, s.drum.lastTach = some u →
        t.drum.lenLast = min 4000000 (s.now - u) ∧ t.drum.lenPrev = s.drum.lenLast) ∧
      t.clock = s.clock ∧ t.profile = s.profile ∧ t.layout = s.layout ∧
      (s.jobs.requestsDue = none → t.mailbox = s.mailbox) ∧
      t.pending = s.pending ∧ (∀ a, s.statusByte a = false → t.mem.byte a = s.mem.byte a))

/-- R1 to R3, R6, R14, R15, R22, R23, R33, R34, R39, R41, R44, R45, R61, R63 to R66, R87 to R92: a tach event that ends
an interval of a synchronised turn, whole. What is due in the interval falls first: its reference sample or its slot
events. Then the interval, the regulation sample, the slip comparison and the stall and rest timers; the reference
moment at the end of interval 11; and white at interval 8 of a phasing turn, or the INDEX, which the Scan Unit and the
Line Unit take in the order of the operand. Model's choices in it: a closed sample waits for its own
REGULATION_SAMPLE, and a slip for its SLIP_DETECTED (log entry 2); a step away from a switch releases it (log entry
6); a line cut short counts as scanned, and takes no stall after the last line (log entries 17 and 35), and is given
back at a truncation (log entry 18); whose slots per interval fall (log entry 20); when the requests of a carriage-fault
reach their units (log entry 25); the ending state of an attempt that ends at the INDEX at which the line moves (log
entry 36); and the phasing turn count at the end of phasing (log entry 43). -/
def Obligations.TachEventsInFull : Prop :=
  ∀ (cells : Cells) (scanFirst : Bool) (s : State) (n u len : Nat) (isIndex exceeds : Bool) (drum : Drum),
    s.awake = true → s.drum.synced = true → s.drum.interval = some n → s.drum.lastTach = some u →
    len = min 4000000 (s.now - u) → isIndex = decide (s.drum.indexArmed = true ∨ n = 255) →
    exceeds =
      decide
        (s.profile.drum.slipPolicy ≠ .off ∧
          s.profile.drum.ratio * min len s.drum.lenLast < max len s.drum.lenLast) →
    drum =
      { s.drum with
        interval := if isIndex = true then some 0 else some (n + 1)
        indexArmed := false
        turnErrors :=
          if s.drum.indexArmed = decide (n = 255) then s.drum.turnErrors
          else min (s.drum.turnErrors + 1) 65535
        lenPrev := s.drum.lenLast, lenLast := len, lastTach := some s.now
        sampleStart :=
          match s.drum.sampleStart with
          | some start => if s.drum.sampleCount + 1 < 32 then some start else some s.now
          | none => some s.now
        sampleCount :=
          if s.drum.sampleStart.isSome = true ∧ s.drum.sampleCount + 1 < 32 then s.drum.sampleCount + 1 else 0
        closedSample :=
          match s.drum.sampleStart with
          | some start =>
            if s.drum.sampleCount + 1 < 32 then s.drum.closedSample else some (min 4000000 (s.now - start))
          | none => s.drum.closedSample
        stallTimer := s.drum.stallTimer.map fun _ => s.now
        rest := if s.drum.state = .parking then some (s.now + 1000000) else s.drum.rest
        slipRun :=
          if s.drum.state = .settling ∨ s.drum.state = .inBand ∨ s.drum.state = .bandWarning then
            (if exceeds then s.drum.slipRun + 1 else 0)
          else s.drum.slipRun
        slipDue :=
          s.drum.slipDue ||
            (decide (s.drum.state = .settling ∨ s.drum.state = .inBand ∨ s.drum.state = .bandWarning) &&
              decide (exceeds ∧ s.profile.drum.deglitch ≤ s.drum.slipRun + 1)) } →
    ∃ v w t, exec (.tachEvent cells scanFirst) s = .next t ∧
      (n < 16 → v = { s with scan := s.scan.referred n (cells.toList.getD 0 0) }) ∧
      (16 ≤ n → s.slotsPerInterval = none → v = s) ∧
      (∀ k, 16 ≤ n → s.slotsPerInterval = some k →
        State.SlotsFall n k cells (List.range' s.line.slotsFallen (k - s.line.slotsFallen)) s v) ∧
      w =
        { v with
          drum := drum
          scan := { (if n = 11 then v.scan.paired else v.scan) with refTaken := false }
          line := { v.line with slotsFallen := 0 } } ∧
      (isIndex = false →
        State.Ends (if n = 7 ∧ s.line.state = .phasing then w.toned s.line.hWhite else w) t) ∧
      (isIndex = true →
        ∃ x, State.Indexed scanFirst w x ∧
          (x.carriage.truncationEvent = false →
            State.Ends { x with drum := { x.drum with bandLostSignal := false } } t) ∧
          (x.carriage.truncationEvent = true →
            ∃ y, State.Truncated { x with carriage := { x.carriage with truncationEvent := false } } y ∧
              State.Delivered { y with drum := { y.drum with bandLostSignal := false } } t))

/-- R3, R8, R9, R11, R12: a closed sample sets the measured speed. In a closed-loop state it runs the loop once and
tracks the band. In RAMPING by STAIRCASE a qualifying sample takes the drum to the next step, up or down, and at the
target to SETTLING; a sample that does not qualify leaves the ref and sets the duty again. Elsewhere it does no more.
Model's choice in it: band entry and the loss of the band wait for their own commands (log entry 2). -/
def Obligations.RegulationSamples : Prop :=
  (∀ (s : State) (v : Speed) (pm : Nat), s.inReset = false → s.drum.target = some v →
    s.drum.closedSample = some pm → 0 < pm →
    s.drum.state = .settling ∨ s.drum.state = .inBand ∨ s.drum.state = .bandWarning →
    ∀ (e i q : Int) (duty : Nat), e = pm - v.period →
      i = max (-65535) (min (s.drum.integral + e) 65535) →
      q = (s.profile.drum.kp * e + s.profile.drum.ki * i).tdiv 1024 →
      (duty : Int) = max 0 (min (feedForward s.profile.drum v.ref + q) s.profile.drum.dutyMax) →
      ∃ t, exec .regulationSample s = .next t ∧
        State.Ends
          { s with
            drum :=
              { s.drum with
                closedSample := none, measured := (150000000 + pm) / (2 * pm), integral := i, duty := duty
                stallTimer :=
                  if duty = 0 then none
                  else if s.drum.duty = 0 then
                    (if s.profile.drum.stallPolicy = .off then none else some s.now)
                  else s.drum.stallTimer
                state :=
                  if s.drum.state = .inBand ∧ (s.profile.drum.band : Int) < |e| then .bandWarning
                  else if s.drum.state = .bandWarning ∧ |e| ≤ (s.profile.drum.band : Int) then .inBand
                  else s.drum.state
                inBandCount :=
                  if s.drum.state = .settling then
                    (if |e| ≤ (s.profile.drum.band : Int) then s.drum.inBandCount + 1 else 0)
                  else s.drum.inBandCount
                outOfBandRun :=
                  if s.drum.state = .inBand ∧ (s.profile.drum.band : Int) < |e| then 1
                  else if s.drum.state = .bandWarning then
                    (if |e| ≤ (s.profile.drum.band : Int) then 0 else s.drum.outOfBandRun + 1)
                  else s.drum.outOfBandRun
                lossDue :=
                  decide
                    (s.drum.state = .bandWarning ∧ (s.profile.drum.band : Int) < |e| ∧
                      s.profile.drum.lossLimit ≤ s.drum.outOfBandRun + 1) } } t) ∧
  (∀ (s : State) (v : Speed) (pm next period : Nat), s.inReset = false → s.drum.state = .ramping →
    s.drum.rampMode = .staircase → s.drum.target = some v → s.drum.closedSample = some pm → 0 < pm →
    period = (150000000 + s.drum.ref) / (2 * s.drum.ref) →
    (100 * ((pm : Int) - period).natAbs ≤ s.profile.drum.hold * period →
        StairStep s.profile.drum s.drum.ref v.ref next →
      ∃ t, exec .regulationSample s = .next t ∧
        State.Ends
          { s with
            drum :=
              Drum.dutied s.profile.drum s.now (min (feedForward s.profile.drum next) s.profile.drum.dutyMax)
                { s.drum with
                  closedSample := none, measured := (150000000 + pm) / (2 * pm), ref := next
                  state := if next = v.ref then .settling else .ramping
                  integral := if next = v.ref then 0 else s.drum.integral
                  inBandCount := if next = v.ref then 0 else s.drum.inBandCount
                  rampTick := if next = v.ref then none else s.drum.rampTick } } t) ∧
    (s.profile.drum.hold * period < 100 * ((pm : Int) - period).natAbs →
      ∃ t, exec .regulationSample s = .next t ∧
        State.Ends
          { s with
            drum :=
              Drum.dutied s.profile.drum s.now
                (min (feedForward s.profile.drum s.drum.ref) s.profile.drum.dutyMax)
                { s.drum with closedSample := none, measured := (150000000 + pm) / (2 * pm) } } t)) ∧
  (∀ (s : State) (pm : Nat), s.inReset = false → s.drum.closedSample = some pm → 0 < pm →
    s.drum.state ∈ [.stopped, .faultWait, .latched, .parking] ∨
      (s.drum.state = .ramping ∧ s.drum.rampMode = .linear) →
    ∃ t, exec .regulationSample s = .next t ∧
      State.Ends
        { s with
          drum := { s.drum with closedSample := none, measured := (150000000 + pm) / (2 * pm) } } t)

/-- R12: band entry at 8 in-band samples, and the loss of the band, which outside PHASING, PICTURE and
SEPARATOR ends no attempt. -/
def Obligations.BandEntryAndBandLost : Prop :=
  ∀ s : State, s.awake = true →
    (s.drum.state = .settling ∧ 8 ≤ s.drum.inBandCount →
      ∃ t, exec .bandEntry s = .next t ∧
        State.Ends
          { s with
            drum := { s.drum with state := .inBand, inBandCount := 0, retryCount := 0, spinUp := none } } t) ∧
    (s.drum.state = .bandWarning ∧ s.drum.lossDue = true ∧ s.line.state.sending = false →
      ∃ t, exec .bandLost s = .next t ∧
        State.Ends
          { s with
            drum :=
              { s.drum with
                state := .settling, outOfBandRun := 0, inBandCount := 0, lossDue := false
                spinUp := if s.profile.drum.stallPolicy = .off then none else some s.now } } t)

/-- R6 to R10, R18: the ramp tick, the end of the rest in PARKING, and the end of the wait after a fault, which enters
RAMPING from ref 0: by LINEAR with the first tick 100 ms later, by STAIRCASE with its first step, at the target in
SETTLING. The feed-forward is the curve through its three points. Model's choices in it: a periodic timer goes on from
the moment it was due (log entry 1), the duty is set at the entry to RAMPING (log entry 15), and a STALL policy of OFF
keeps its timers stopped (log entry 16). -/
def Obligations.RampTickRestAndFaultWait : Prop :=
  (∀ (p : DrumProfile) (ref : Nat), p.ff60 ≤ 1023 → p.ff90 ≤ 1023 → p.ff120 ≤ 1023 →
    (ref ≤ 600 → feedForward p ref = p.ff60 * ref / 600) ∧
    (600 ≤ ref → ref ≤ 900 →
      (feedForward p ref : Int) = p.ff60 + ((p.ff90 : Int) - p.ff60) * ((ref : Int) - 600) / 300) ∧
    (900 ≤ ref → ref ≤ 1200 →
      (feedForward p ref : Int) = p.ff90 + ((p.ff120 : Int) - p.ff90) * ((ref : Int) - 900) / 300)) ∧
  ∀ (s : State) (due : Nat), s.inReset = false → due ≤ s.now →
    (∀ (v : Speed) (ref : Nat), s.drum.state = .ramping → s.drum.rampTick = some due →
      s.drum.target = some v →
      ref = (if s.drum.ref < v.ref then min v.ref (s.drum.ref + s.profile.drum.slew)
        else max v.ref (s.drum.ref - s.profile.drum.slew)) →
      ∃ t d, exec .rampTick s = .next t ∧ State.Ends { s with drum := d } t ∧
        d = { s.drum with
          ref := ref, duty := min (feedForward s.profile.drum ref) s.profile.drum.dutyMax
          rampTick := if ref = v.ref then none else some (due + 100000)
          state := if ref = v.ref then .settling else .ramping
          integral := if ref = v.ref then 0 else s.drum.integral
          inBandCount := if ref = v.ref then 0 else s.drum.inBandCount
          stallTimer := d.stallTimer } ∧
        (d.duty = 0 → d.stallTimer = none) ∧
        (0 < d.duty → s.drum.duty = 0 → s.profile.drum.stallPolicy ≠ .off → d.stallTimer = some s.now) ∧
        (0 < d.duty → 0 < s.drum.duty → d.stallTimer = s.drum.stallTimer)) ∧
    (s.drum.state = .parking → s.drum.rest = some due →
      ∃ t, exec .parkRestExpiry s = .next t ∧
        State.Ends
          { s with
            drum :=
              { s.drum with
                state := .stopped, brake := false, rest := none, spinUp := none
                sampleStart := none, sampleCount := 0, closedSample := none, measured := 0 } } t) ∧
    (∀ v, s.drum.state = .faultWait → s.drum.wait = some due → s.drum.target = some v →
      ∃ t e, exec .faultWaitExpiry s = .next t ∧ State.Ends { s with drum := e } t ∧
        Drum.RampEntered s.profile.drum s.now v { s.drum with ref := 0 } e)

/-- R13, R16: an ILIM trip in the on-time ends the on-time, and at a PWM period's end a tripped period adds to
the overcurrent run and one without a trip empties it. Model's choices in it: the phase of the PWM periods (log
entry 13), a policy of OFF (log entry 16), and that a trip outside the on-time does nothing (log entry 42). -/
def Obligations.CurrentTripAndPwmPeriod : Prop :=
  ∀ s : State, s.inReset = false →
    (s.drum.brake = false ∧ s.drum.pwm.tripped = false ∧ s.drum.pwm.start ≤ s.crystal ∧
        (s.crystal - s.drum.pwm.start) * 1024 < s.drum.pwm.duty * 200 →
      ∃ t, exec .ilimTrip s = .next t ∧
        State.Ends { s with drum := { s.drum with pwm := { s.drum.pwm with tripped := true } } } t ∧
        ∀ c, t.drum.pwmOn c = false) ∧
    (s.drum.brake = true ∨ s.drum.pwm.tripped = true ∨
        s.drum.pwm.duty * 200 ≤ (s.crystal - s.drum.pwm.start) * 1024 →
      ∃ t, exec .ilimTrip s = .next t ∧ State.Ends s t) ∧
    (s.drum.pwm.start + 200 ≤ s.crystal →
      ∃ t, exec .pwmPeriodEnd s = .next t ∧
        State.Ends
          { s with
            drum :=
              { s.drum with
                pwm := { duty := s.drum.duty, start := s.drum.pwm.start + 200, tripped := false }
                ocRun :=
                  if s.drum.pwm.tripped = true ∧ s.profile.drum.overcurrentPolicy ≠ .off then
                    s.drum.ocRun + 1
                  else 0
                overcurrentDue :=
                  s.drum.overcurrentDue ||
                    decide
                      (s.drum.pwm.tripped = true ∧ s.profile.drum.overcurrentPolicy ≠ .off ∧
                        s.profile.drum.ocCount ≤ s.drum.ocRun + 1) } } t)

/-- R14 to R18: each detection counts and flags its fault and applies its policy; here while no turn is being
sent, so that no attempt ends by it. Model's choices in it: a detection waits for its own command (log entry 2), what a
policy of OFF stops (log entry 16), and that a running spin-up timer is judged by the SPINUP_S in force (log entry
44). -/
def Obligations.FaultDetections : Prop :=
  ∀ s : State, s.awake = true → s.line.state.sending = false →
    (s.drum.slipDue = true →
      ∃ t e, exec .slipDetected s = .next t ∧ State.Ends { s with drum := e } t ∧
        Drum.PolicyApplied s.profile.drum s.now s.profile.drum.slipPolicy
          { s.drum with
            slipRun := 0, slipDue := false, slipEvents := min (s.drum.slipEvents + 1) 65535
            flagSlip := true } e) ∧
    (s.drum.overcurrentDue = true →
      ∃ t e, exec .overcurrentDetected s = .next t ∧ State.Ends { s with drum := e } t ∧
        Drum.PolicyApplied s.profile.drum s.now s.profile.drum.overcurrentPolicy
          { s.drum with
            ocRun := 0, overcurrentDue := false
            overcurrentEvents := min (s.drum.overcurrentEvents + 1) 65535
            flagOvercurrent := true } e) ∧
    (s.drum.stallDue = true ∨ (∃ u, s.drum.stallTimer = some u ∧ u + 1000 * s.profile.drum.stallMs ≤ s.now) →
      ∃ t e, exec .stallTimeout s = .next t ∧ State.Ends { s with drum := e } t ∧
        Drum.PolicyApplied s.profile.drum s.now s.profile.drum.stallPolicy
          { s.drum with
            stallDue := false
            stallTimer :=
              if s.profile.drum.stallPolicy = .report ∧ 0 < s.drum.duty then some s.now else none
            stallEvents := min (s.drum.stallEvents + 1) 65535, flagStall := true } e) ∧
    (s.drum.spinUpDue = true ∨ (∃ u, s.drum.spinUp = some u ∧ u + 1000000 * s.profile.drum.spinupS ≤ s.now) →
      ∃ t e, exec .spinupTimeout s = .next t ∧ State.Ends { s with drum := e } t ∧
        Drum.PolicyApplied s.profile.drum s.now s.profile.drum.stallPolicy
          { s.drum with
            spinUp := none, spinUpDue := false
            stallDue := s.drum.stallDue || hasRun s.drum.stallTimer (1000 * s.profile.drum.stallMs) s.now
            stallTimer :=
              if s.profile.drum.stallPolicy = .report ∧ 0 < s.drum.duty then some s.now
              else s.drum.stallTimer
            stallEvents := min (s.drum.stallEvents + 1) 65535, flagStall := true } e)

/-- R12, R14, R17, R18, R88: while turns are sent, the loss of the band, and a detection with any policy but REPORT,
end the attempt with DRUM_FAULT and the stop tone, the event counted and flagged and its policy applied; with REPORT
the event is counted and flagged, and the attempt goes on. Model's choices in it: a detection waits for its own command
(log entry 2), the policy is applied before the Line Unit takes the event (log entry 19), what a policy of OFF stops (log
entry 16), and that a running spin-up timer is judged by the SPINUP_S in force (log entry 44). -/
def Obligations.DrumFaultsEndTheCall : Prop :=
  ∀ s : State, s.awake = true → s.line.state.sending = true →
    (s.drum.state = .bandWarning ∧ s.drum.lossDue = true →
      ∃ t, exec .bandLost s = .next t ∧
        State.AttemptEnded
          { s with
            drum :=
              { s.drum with
                state := .settling, outOfBandRun := 0, inBandCount := 0, lossDue := false
                spinUp := if s.profile.drum.stallPolicy = .off then none else some s.now } }
          .drumFault .bandLost true t) ∧
    ∀ (command : Instr) (policy : Policy) (detail : Detail) (d : Drum),
      (command = .slipDetected ∧ s.drum.slipDue = true ∧ policy = s.profile.drum.slipPolicy ∧ detail = .slip ∧
          d = { s.drum with
            slipRun := 0, slipDue := false, slipEvents := min (s.drum.slipEvents + 1) 65535, flagSlip := true }) ∨
        (command = .overcurrentDetected ∧ s.drum.overcurrentDue = true ∧
          policy = s.profile.drum.overcurrentPolicy ∧ detail = .overcurrent ∧
          d = { s.drum with
            ocRun := 0, overcurrentDue := false
            overcurrentEvents := min (s.drum.overcurrentEvents + 1) 65535, flagOvercurrent := true }) ∨
        (command = .stallTimeout ∧ policy = s.profile.drum.stallPolicy ∧ detail = .stall ∧
          (s.drum.stallDue = true ∨
            ∃ u, s.drum.stallTimer = some u ∧ u + 1000 * s.profile.drum.stallMs ≤ s.now) ∧
          d = { s.drum with
            stallDue := false
            stallTimer := if policy = .report ∧ 0 < s.drum.duty then some s.now else none
            stallEvents := min (s.drum.stallEvents + 1) 65535, flagStall := true }) ∨
        (command = .spinupTimeout ∧ policy = s.profile.drum.stallPolicy ∧ detail = .stall ∧
          (s.drum.spinUpDue = true ∨
            ∃ u, s.drum.spinUp = some u ∧ u + 1000000 * s.profile.drum.spinupS ≤ s.now) ∧
          d = { s.drum with
            spinUp := none, spinUpDue := false
            stallDue := s.drum.stallDue || hasRun s.drum.stallTimer (1000 * s.profile.drum.stallMs) s.now
            stallTimer := if policy = .report ∧ 0 < s.drum.duty then some s.now else s.drum.stallTimer
            stallEvents := min (s.drum.stallEvents + 1) 65535, flagStall := true }) →
      (policy ≠ .report →
        ∃ t e, exec command s = .next t ∧ Drum.PolicyApplied s.profile.drum s.now policy d e ∧
          State.AttemptEnded { s with drum := e } .drumFault detail true t) ∧
      (policy = .report → ∃ t, exec command s = .next t ∧ State.Ends { s with drum := d } t)


/-! ## The Carriage Drive (02_carriage_and_scanning.md) -/

/-- R25, R26, R27: a homing step while HOME is not asserted; the end of homing at HOME, with the first positioning step,
the fault of a positioning that LIMIT blocks, DIR then being away, or, at target 0, the arrival; and the fault after
4,200 steps. Model's choice in it: a step away from a switch releases it (log entry 6). -/
def Obligations.HomingStepsAndHomingFault : Prop :=
  ∀ (s : State) (due : Nat), s.awake = true → s.carriage.state = .homing →
    s.carriage.nextStep = some due → due ≤ s.now →
    (s.carriage.home = false → s.carriage.homingSteps < 4200 →
      ∃ t, exec .homingStep s = .next t ∧
        State.Ends
          { s with
            carriage :=
              { s.carriage with
                homingSteps := s.carriage.homingSteps + 1, dirAway := false, limit := false
                nextStep := some (due + 2500) } } t) ∧
    (∀ p, s.carriage.home = true → s.carriage.limit = false → s.carriage.target = some p → 0 < p →
      ∃ t, exec .homingStep s = .next t ∧
        State.Ends
          { s with
            carriage :=
              { s.carriage with
                state := .positioning, homed := true, position := 1, dirAway := true, home := false
                stepsDue := 0, nextStep := some (due + 2500) } } t) ∧
    (∀ p, s.carriage.home = true → s.carriage.limit = true → s.carriage.target = some p → 0 < p →
        s.jobs.state.running = false →
      ∃ t, exec .homingStep s = .next t ∧
        State.Ends
          { s with
            carriage :=
              { s.carriage with
                state := .fault, homed := true, position := 0, dirAway := true, stepsDue := 0
                nextStep := none } } t) ∧
    (s.carriage.home = true → s.carriage.target = some 0 → s.scan.state ≠ .frameDone →
      ∃ t, exec .homingStep s = .next t ∧
        State.Ends
          { s with
            carriage :=
              { s.carriage with
                state := .atFrame, homed := true, position := 0, stepsDue := 0, nextStep := none } } t) ∧
    (s.carriage.home = false → 4200 ≤ s.carriage.homingSteps → s.jobs.state.running = false →
      ∃ t, exec .homingFault s = .next t ∧
        State.Ends
          { s with
            carriage := { s.carriage with state := .fault, nextStep := none, stepsDue := 0 } } t)

/-- R26 to R29, R38, R39, R62, R131: a positioning step either way, the fault at a switch found asserted, and the arrival,
which a scanner in FRAME_DONE notes when the position is the next frame's start; a tracking step, the next 2,000 µs
after it while steps are due, and at LIMIT, where the steps due are dropped instead, the truncation of the frame.
Model's choices in it: a step away from a switch releases it (log entry 6); a line cut short in the dead zone is given
back by the truncation (log entry 18); and when the requests of a carriage-fault that follows it reach their units (log
entry 25). -/
def Obligations.PositionAndTrackSteps : Prop :=
  (∀ (s : State) (due p : Nat), s.awake = true → s.carriage.state = .positioning →
    s.carriage.nextStep = some due → due ≤ s.now → s.carriage.target = some p →
    (s.carriage.position < p → s.carriage.limit = false →
        (s.carriage.home = true → s.carriage.position = 0) →
      ∃ t, exec .positionStep s = .next t ∧
        State.Ends
          { s with
            carriage :=
              { s.carriage with
                position := s.carriage.position + 1, dirAway := true, home := false
                nextStep := some (due + 2500) } } t) ∧
    (p < s.carriage.position → s.carriage.home = false →
      ∃ t, exec .positionStep s = .next t ∧
        State.Ends
          { s with
            carriage :=
              { s.carriage with
                position := s.carriage.position - 1, dirAway := false, limit := false
                nextStep := some (due + 2500) } } t) ∧
    (s.carriage.position ≠ p → s.jobs.state.running = false →
        (s.carriage.home = true ∧ 0 < s.carriage.position) ∨
          (s.carriage.limit = true ∧ s.carriage.position < p) →
      ∃ t, exec .positionStep s = .next t ∧
        State.Ends
          { s with carriage := { s.carriage with state := .fault, nextStep := none, stepsDue := 0 } } t) ∧
    (s.carriage.position = p →
      ∃ t, exec .arrival s = .next t ∧
        State.Ends
          { s with
            carriage := { s.carriage with state := .atFrame, nextStep := none, stepsDue := 0 }
            scan :=
              { s.scan with
                arrivalNoted :=
                  s.scan.arrivalNoted || (s.scan.state == .frameDone
                    && (s.scan.frames[s.scan.current + 1]?.map fun f => f.start) == some p) } } t)) ∧
  (∀ (s : State) (due n : Nat), s.awake = true → s.carriage.state = .tracking →
    s.carriage.nextStep = some due → due ≤ s.now → s.carriage.stepsDue = n + 1 →
    (s.carriage.limit = false →
      ∃ t, exec .trackStep s = .next t ∧
        State.Ends
          { s with
            carriage :=
              { s.carriage with
                position := s.carriage.position + 1, dirAway := true, home := false, stepsDue := n
                nextStep := if n = 0 then none else some (due + 2000) } } t) ∧
    (s.carriage.limit = true →
      ∃ t v, exec .trackStep s = .next t ∧
        State.Truncated
          { s with carriage := { s.carriage with state := .atFrame, nextStep := none, stepsDue := 0 } } v ∧
        State.Delivered v t))

/-- R27, R29, R38, R62, R131: LIMIT and HOME becoming asserted while the carriage moves, and while it does not. LIMIT in
TRACKING stops the carriage and truncates the frame; a frame that follows it may fault the carriage at once. Model's
choices in it: the first step of the positioning that follows releases a switch it steps away from (log entry 6); a
line cut short in the dead zone is given back by the truncation (log entry 18); and when the requests of a
carriage-fault reach their units (log entry 25). -/
def Obligations.LimitAndHomeAsserted : Prop :=
  ∀ s : State, s.awake = true →
    (s.carriage.limit = false → s.carriage.state = .positioning → s.carriage.dirAway = true →
        s.jobs.state.running = false →
      ∃ t, exec .limitAsserted s = .next t ∧
        State.Ends
          { s with
            carriage := { s.carriage with limit := true, state := .fault, nextStep := none, stepsDue := 0 } }
          t) ∧
    (s.carriage.limit = false → s.carriage.state = .tracking →
      ∃ t v, exec .limitAsserted s = .next t ∧
        State.Truncated
          { s with
            carriage := { s.carriage with limit := true, state := .atFrame, nextStep := none, stepsDue := 0 } } v ∧
        State.Delivered v t) ∧
    (s.carriage.limit = false → s.carriage.state ≠ .tracking →
        (s.carriage.state = .positioning → s.carriage.dirAway = false) →
      ∃ t, exec .limitAsserted s = .next t ∧
        State.Ends { s with carriage := { s.carriage with limit := true } } t) ∧
    (s.carriage.home = false → s.carriage.state = .positioning → 0 < s.carriage.position →
        s.jobs.state.running = false →
      ∃ t, exec .homeAsserted s = .next t ∧
        State.Ends
          { s with
            carriage := { s.carriage with home := true, state := .fault, nextStep := none, stepsDue := 0 } }
          t) ∧
    (s.carriage.home = false → (s.carriage.state = .positioning → s.carriage.position = 0) →
      ∃ t, exec .homeAsserted s = .next t ∧
        State.Ends { s with carriage := { s.carriage with home := true } } t)

/-- R25, R27, R93, R113, R114: a carriage fault in ATTEMPTING or RETRY_WAIT ends the job: the homing fault, a positioning
step at a switch, LIMIT on the way out and HOME found too early. Between attempts the job ends at once. With an attempt
in progress it does so too, the cut first, or the end cause is set and the requests of the job's end go on their way:
RequestsOnTheirWay says how these reach their units. Model's choice in it: that a free value chooses between the two,
and that the requests on their way stand until the moment is over (log entry 25). -/
def Obligations.CarriageFaultEndsTheJob : Prop :=
  ∀ (s : State) (due : Nat) (command : Instr) (c : Carriage), s.awake = true → s.jobs.state.running = true →
    (command = .homingFault ∧ s.carriage.state = .homing ∧ s.carriage.nextStep = some due ∧ due ≤ s.now ∧
        s.carriage.home = false ∧ 4200 ≤ s.carriage.homingSteps ∧ c = s.carriage) ∨
      (∃ p, command = .positionStep ∧ s.carriage.state = .positioning ∧ s.carriage.nextStep = some due ∧
        due ≤ s.now ∧ s.carriage.target = some p ∧ s.carriage.position ≠ p ∧
        ((s.carriage.home = true ∧ 0 < s.carriage.position) ∨
          (s.carriage.limit = true ∧ s.carriage.position < p)) ∧ c = s.carriage) ∨
      (command = .limitAsserted ∧ s.carriage.limit = false ∧ s.carriage.state = .positioning ∧
        s.carriage.dirAway = true ∧ c = { s.carriage with limit := true }) ∨
      (command = .homeAsserted ∧ s.carriage.home = false ∧ s.carriage.state = .positioning ∧
        0 < s.carriage.position ∧ c = { s.carriage with home := true }) →
    ∃ t u, exec command s = .next t ∧
      u = { s with carriage := { c with state := .fault, nextStep := none, stepsDue := 0 } } ∧
      (s.jobs.attemptInProgress = false ∨ Config.faultRequestsLate s.crystal = false →
        State.JobEnded u .carriageFault t ∧ t.carriage = u.carriage) ∧
      (s.jobs.attemptInProgress = true → Config.faultRequestsLate s.crystal = true →
        State.Ends
          { u with
            jobs := { s.jobs with endCause := some .carriageFault, requestsDue := some { freeAhead := none } } } t)
/-! ## The Scan Unit and the tone path (02_carriage_and_scanning.md, 03_the_tone_path.md) -/

/-- R23, R31: the warm-up's end, and a reference sample halfway through an interval of the patches. Model's
choice in it: the conversion of CELL is the command's operand (log entry 7). -/
def Obligations.WarmUpAndReferenceSamples : Prop :=
  ∀ s : State, s.inReset = false →
    (∀ due, s.scan.state = .warming → s.scan.warm = some due → due ≤ s.now →
      ∃ t, exec .warmUpExpiry s = .next t ∧
        State.Ends { s with scan := { s.scan with state := .ready, warm := none } } t) ∧
    (∀ (cell : Sample) (l : LineInProgress) (n u : Nat), s.scan.state = .scanning → s.scan.line = some l →
      l.sampled = false → s.drum.interval = some n → s.scan.refTaken = false → s.drum.lastTach = some u →
      u + s.drum.lenLast / 2 ≤ s.now →
      (2 ≤ n ∧ n ≤ 5 →
        ∃ t, exec (.referenceSample cell) s = .next t ∧
          State.Ends
            { s with
              scan := { s.scan with blackRefs := s.scan.blackRefs ++ [cell.toNat], refTaken := true } } t) ∧
      (8 ≤ n ∧ n ≤ 11 →
        ∃ t, exec (.referenceSample cell) s = .next t ∧
          State.Ends
            { s with
              scan := { s.scan with whiteRefs := s.scan.whiteRefs ++ [cell.toNat], refTaken := true } } t))

/-- R22, R35, R36, R46 to R49, R51, R56, R57, R66, R67: a slot event that is due, in every state: the Scan Unit takes
it, then the sender, so that a turn both scanned and sent has both effects; one that is not due does nothing. A
prefetched word joins the buffer with its number, and one whose slot has been left is discarded. Model's choices in it:
a command whose cause is not present does nothing (log entry 2); the conversion of CELL is the command's operand (log
entry 7); and the slots per interval are the scanner's where scanner and sender differ (log entry 20). -/
def Obligations.SlotEvents : Prop :=
  (∀ (cell : Sample) (s : State) (n u k i j : Nat), s.inReset = false → s.drum.interval = some n → 16 ≤ n →
    s.slotsPerInterval = some k → s.line.slotsFallen = i → i < k → s.drum.lastTach = some u →
    u + i * s.drum.lenLast / k ≤ s.now → j = (n - 16) * k + i →
    ∃ t m x, exec (.slotEvent cell) s = .next t ∧ State.SlotScanned j cell s m ∧ State.SlotSent j m x ∧
      State.Ends { x with line := { x.line with slotsFallen := i + 1 } } t) ∧
  (∀ (cell : Sample) (s : State), s.inReset = false →
    (∀ n u k, s.drum.interval = some n → 16 ≤ n → s.slotsPerInterval = some k → s.line.slotsFallen < k →
      s.drum.lastTach = some u → s.now < u + s.line.slotsFallen * s.drum.lenLast / k) →
    ∃ t, exec (.slotEvent cell) s = .next t ∧ State.Ends s t) ∧
  (∀ (s : State) (a word : Nat), s.inReset = false →
    (s.gate.port = some (.prefetch a word true) →
      ∃ t, exec .prefetchWordArrived s = .next t ∧
        State.Ends
          { s with
            gate := { s.gate with port := none }
            ring := { s.ring with buffer := s.ring.buffer ++ [(word, s.mem.word a)], fetch := word + 1 } }
          t) ∧
    (s.gate.port = some (.prefetch a word false) →
      ∃ t, exec .prefetchWordArrived s = .next t ∧
        State.Ends { s with gate := { s.gate with port := none } } t))

/-- R32, R36, R37: the word that the scan writer asks for: the FIFO's first entry once it is closed; with the FIFO empty
and sampling over, header word 0 to 3, in the format of the Line Ring slot header, each field written saturated (R192).
A FIFO entry's word reaches memory and leaves the FIFO; a header word reaches memory, and the fourth is line-complete,
which fills the slot, if no attempt's end has freed it; a word of a dropped line reaches memory and counts for nothing.
Only the bytes that the word's byte enables name are stored. -/
def Obligations.ScanWordsReachMemory : Prop :=
  (∀ (s : State) (ly : Layout), s.layout.inForce = some ly →
    (∀ e rest, s.scan.fifo = e :: rest → e.closed = true →
      s.scanRequest = some (.scanEntry e.access true)) ∧
    (∀ e rest, s.scan.fifo = e :: rest → e.closed = false → s.scanRequest = none) ∧
    (∀ l, s.scan.fifo = [] → s.scan.line = some l → l.sampled = true → l.headerWritten < 4 →
      ∃ word : Word,
        s.scanRequest =
          some (.scanHeader
            { addr := ly.ringBase + 1456 * l.slot + 4 * l.headerWritten, be := 15, data := word } true) ∧
        word.toNat =
          match l.headerWritten with
          | 0 => min s.scan.header.frame 255 + 65536 * min s.scan.header.line 65535
          | 1 => min s.scan.header.black 65535 + 65536 * min s.scan.header.white 65535
          | 2 => (if s.scan.header.heldRefs = true then 1 else 0) + (if s.scan.header.overrun = true then 2 else 0)
          | _ => min s.scan.header.size 65535) ∧
    (s.scan.fifo = [] → (∀ l, s.scan.line = some l → l.sampled = false ∨ 4 ≤ l.headerWritten) →
      s.scanRequest = none)) ∧
  ∀ (s : State) (x : Access), s.awake = true →
    (∀ e rest, s.gate.port = some (.scanEntry x true) → s.scan.fifo = e :: rest →
      ∃ t, exec .scanWordWritten s = .next t ∧
        State.Ends
          { s with
            mem := s.mem.write x, gate := { s.gate with port := none }
            scan := { s.scan with fifo := rest } } t ∧
        ∀ a, s.statusByte a = false → x.touches a = false → t.mem.byte a = s.mem.byte a) ∧
    (∀ l, s.gate.port = some (.scanHeader x true) → s.scan.line = some l → l.headerWritten < 3 →
      ∃ t, exec .scanWordWritten s = .next t ∧
        State.Ends
          { s with
            mem := s.mem.write x, gate := { s.gate with port := none }
            scan := { s.scan with line := some { l with headerWritten := l.headerWritten + 1 } } } t ∧
        ∀ a, s.statusByte a = false → x.touches a = false → t.mem.byte a = s.mem.byte a) ∧
    (∀ l f, s.gate.port = some (.scanHeader x true) → s.scan.line = some l → l.headerWritten = 3 →
        s.scan.frames[s.scan.current]? = some f → l.line + 1 ≠ f.count → s.scan.truncating = false →
      ∃ t, exec .scanWordWritten s = .next t ∧
        State.Ends
          { s with
            mem := s.mem.write x, gate := { s.gate with port := none }
            ring := if (s.ring.slot l.slot).state = .filling then s.ring.setState l.slot .filled else s.ring
            scan := { s.scan with line := none, linesDone := s.scan.linesDone + 1 } } t ∧
        ∀ a, s.statusByte a = false → x.touches a = false → t.mem.byte a = s.mem.byte a) ∧
    (s.gate.port = some (.scanEntry x false) ∨ s.gate.port = some (.scanHeader x false) →
      ∃ t, exec .scanWordWritten s = .next t ∧
        State.Ends { s with mem := s.mem.write x, gate := { s.gate with port := none } } t ∧
        ∀ a, s.statusByte a = false → x.touches a = false → t.mem.byte a = s.mem.byte a)

/-- R37, R38, R39, R40, R62, R126, R131: the line-complete of a frame's last line, or of the line that a truncation let
go on, fills its slot and ends the frame: FRAME_DONE with the lines scanned and the scan signature, noted in the
frame-done record while a call is active, tracking ended, and the carriage sent to the frame that follows. Model's
choices in it: the first step of that positioning releases a switch it steps away from (log entry 6), and when the
requests of a carriage-fault in it reach their units (log entry 25). -/
def Obligations.TheLastLineEndsTheFrame : Prop :=
  ∀ (s : State) (x : Access) (l : LineInProgress) (f : Frame), s.awake = true →
    s.gate.port = some (.scanHeader x true) → s.scan.line = some l → l.headerWritten = 3 →
    s.scan.frames[s.scan.current]? = some f → l.line + 1 = f.count ∨ s.scan.truncating = true →
    ∃ t v, exec .scanWordWritten s = .next t ∧
      State.FrameEnds
        { s with
          mem := s.mem.write x, gate := { s.gate with port := none }
          ring := if (s.ring.slot l.slot).state = .filling then s.ring.setState l.slot .filled else s.ring
          scan := { s.scan with line := none, linesDone := s.scan.linesDone + 1 } } v ∧
      State.Delivered v t

/-- R48, whole: the straight curve of a BYPASS_TONE frame, for every Profile: the tone banks are not read. -/
def Obligations.BypassToneIsTheStraightCurve : Prop :=
  ∀ (p : Profile) (f : Frame) (pair : Nat × Nat) (j sample l : Nat), f.bypassTone = true →
    f.testWedge = false → levelIndex sample pair.1 pair.2 = l →
    lineLevel p f pair j sample = (2 * 255 * l + 63) / 126 ∧ (l = 0 → lineLevel p f pair j sample = 0) ∧
    (l = 63 → lineLevel p f pair j sample = 255) ∧ (l = 49 → lineLevel p f pair j sample = 198) ∧
    (l = 32 → lineLevel p f pair j sample = 130)

/-- R46, R49, R51 to R53: the level index of an accepted pair is 63·d/span rounded half up; it runs from 0 at or below
black to 63 at or above white and never falls as the sample rises; the wedge runs from 0 to 255 whatever the sample,
the pair and the Profile; the half-period of a fixed tone is 2,000,000/F rounded half up, and that of a picture level
is the same of its exact frequency Dn/255; it lies between those of white and of black, is theirs at the ends, never
rises with the level, and stays within the counts that a tone request may name. -/
def Obligations.LevelsWedgeAndHalfPeriods : Prop :=
  (∀ b w s : Nat, b + 64 ≤ w →
    levelIndex s b w = (2 * 63 * min (s - b) (w - b) + (w - b)) / (2 * (w - b)) ∧
    levelIndex s b w ≤ 63 ∧ (s ≤ b → levelIndex s b w = 0) ∧ (w ≤ s → levelIndex s b w = 63) ∧
    ∀ s', s ≤ s' → levelIndex s b w ≤ levelIndex s' b w) ∧
  (∀ (p : Profile) (f : Frame) (pair : Nat × Nat) (j sample : Nat), f.testWedge = true → 2 ≤ f.k → f.k ≤ 6 →
    j < 240 * f.k →
    lineLevel p f pair j sample = 256 * j / (240 * f.k) ∧ lineLevel p f pair j sample ≤ 255 ∧
    (j + 1 = 240 * f.k → lineLevel p f pair j sample = 255)) ∧
  (∀ f : Nat, fixedHalf f = (4000000 + f) / (2 * f)) ∧
  (∀ fb fw y dn : Nat, fb ≤ fw → dn = 255 * fb + (fw - fb) * y →
    pictureHalf fb fw y = (1020000000 + dn) / (2 * dn)) ∧
  (∀ fb fw y : Nat, 400 ≤ fb → fb + 200 ≤ fw → fw ≤ 3000 → y ≤ 255 →
    fixedHalf fw ≤ pictureHalf fb fw y ∧ pictureHalf fb fw y ≤ fixedHalf fb ∧
    pictureHalf fb fw 0 = fixedHalf fb ∧ pictureHalf fb fw 255 = fixedHalf fw ∧
    667 ≤ pictureHalf fb fw y ∧ pictureHalf fb fw y ≤ 5000 ∧
    ∀ z, y ≤ z → z ≤ 255 → pictureHalf fb fw z ≤ pictureHalf fb fw y)

/-- R56: the signature register finds every frame that differs in one level: two frames of one length that
differ in exactly one level have different signatures. -/
def Obligations.OneWrongLevelChangesTheSignature : Prop :=
  ∀ (r : Sig) (before after : List Nat) (x y : Nat), x < 256 → y < 256 → x ≠ y →
    (before ++ x :: after).foldl sigFeed r ≠ (before ++ y :: after).foldl sigFeed r

/-! ## The Line Unit and the Line Ring (04_the_line_ring.md, 05_calls.md) -/

/-- R54: the toggle of CARRIER: the level changes, the half-cycle goes on from where it was due, and a pending
half-period is taken. Model's choice in it: a half-cycle goes on from when the last one was due (log entry 1). -/
def Obligations.CarrierToggles : Prop :=
  ∀ s : State, s.inReset = false → s.line.relay = true → s.line.carrier.mode = .tone →
    s.line.carrier.since + s.line.carrier.half ≤ s.crystal →
    ∃ t, exec .carrierToggle s = .next t ∧
      State.Ends
        { s with
          line :=
            { s.line with
              carrier :=
                { s.line.carrier with
                  level := !s.line.carrier.level, since := s.line.carrier.since + s.line.carrier.half
                  half := s.line.carrier.pending.getD s.line.carrier.half, pending := none } } } t

/-- R79 to R82, R85: DIALING begins with the first symbol; a break is followed by a make, or after the last
break of a digit by the pause of 700 ms; a make by the next break or the next symbol, a digit or a pause, and after
the last symbol ANSWER_WAIT is entered. Model's choice in it: a dial timer goes on from the moment the last one was
due (log entry 1). -/
def Obligations.DialingBreakByBreak : Prop :=
  ∀ (s : State) (due : Nat) (p : LineProfile) (call : CallInfo), s.inReset = false → due ≤ s.now →
    s.line.snapshot = some p → s.line.call = some call →
    (s.line.state = .seizeWait → s.line.seizeTimer = some due →
      ∃ t, exec .seizeWaitExpiry s = .next t ∧
        State.Ends
          { s with
            line :=
              { s.line with
                state := .dialing, seizeTimer := none, dialCursor := 0
                carrier := s.line.carrier.pulseRequest }.symbolBegun p s.now call.dial[0]? } t) ∧
    (∀ n, s.line.state = .dialing → s.line.dialTimer = some due → s.line.dialPhase = some .brk →
        s.line.breaksLeft = n →
      ∃ t, exec .dialBreakEnd s = .next t ∧
        State.Ends
          { s with
            line :=
              { s.line with
                dialPhase := some .mk
                dialTimer := some (due + (if n = 0 then 700000 else 1000 * p.makeMs))
                loopTimer := if s.line.loop = true then none else some due } } t) ∧
    (∀ n, s.line.state = .dialing → s.line.dialTimer = some due → s.line.dialPhase = some .mk →
        s.line.breaksLeft = n + 1 →
      ∃ t, exec .dialMakeEnd s = .next t ∧
        State.Ends
          { s with
            line :=
              { s.line with
                dialPhase := some .brk, breaksLeft := n, loopTimer := none
                dialTimer := some (due + 1000 * p.breakMs) } } t) ∧
    (s.line.state = .dialing → s.line.dialTimer = some due → s.line.dialPhase = some .mk →
        s.line.breaksLeft = 0 →
      ∃ t, exec .dialMakeEnd s = .next t ∧
        State.Ends
          { s with
            line :=
              { s.line with dialCursor := s.line.dialCursor + 1 }.symbolBegun p due
                call.dial[s.line.dialCursor + 1]? } t)

/-- R82, R98: LOOP is watched while the relay is closed and no break is being dialed; the loss of it for the
snapshot's time releases the line, and ends an attempt in progress with LINE_LOST, without a stop tone. Model's
choice in it: the level that the Status Page shows follows LOOP_CHANGE only while the relay is closed (log entry
22). -/
def Obligations.LoopWatch : Prop :=
  ∀ (s : State) (present : Bool), s.awake = true →
    (s.line.loop ≠ present →
      ∃ t, exec (.loopChange present) s = .next t ∧
        State.Ends
          { s with
            line :=
              { s.line with
                loop := present, loopShown := if s.line.relay = true then present else s.line.loopShown
                loopTimer :=
                  if s.line.relay = true ∧ s.line.dialPhase ≠ some .brk then
                    (if present = true then none else some s.now)
                  else s.line.loopTimer } } t) ∧
    (∀ u, s.line.relay = true → s.line.loopTimer = some u → u + 1000 * s.line.snap.loopLoss ≤ s.now →
      (s.line.state = .stopTone →
        ∃ t, exec .loopLoss s = .next t ∧
          State.Ends
            { s with
              line :=
                { s.line with
                  state := .releaseGuard, relay := false, sendLamp := false
                  carrier := s.line.carrier.stop, monitor := .stopped, loopTimer := none
                  stopToneTimer := none, seizeTimer := none, dialTimer := none, dialPhase := none
                  breaksLeft := 0, answerTimer := none, startToneTimer := none, readyTimer := none
                  guardTimer := some (s.now + 1000 * s.line.snap.releaseGuard) } } t) ∧
      (s.line.state ∈ [.seizeWait, .dialing, .answerWait, .startTone, .readyWait, .phasing, .picture, .separator] →
        ∃ t, exec .loopLoss s = .next t ∧ State.AttemptEnded s .lineLost .none false t))

/-- R83, R84: the end of a tone window puts its count of crossings into a band and makes the run longer, or starts a
new one. A run as long as the profile's windows, its flag clear, is a recognition: it sets the flag, and the tone
waits for the Line Unit to take it. Model's choices in it: the count of crossings is the command's operand, and a
recognition waits for its own TONE_RECOGNISED (log entries 7 and 2). -/
def Obligations.ToneWindows : Prop :=
  ∀ (s : State) (crossings due count : Nat) (used : Bool) (band : Option Tone), s.inReset = false →
    s.line.relay = true → s.line.monitor.windowEnd = some due → due ≤ s.now →
    band =
      (if 80 ≤ crossings ∧ crossings ≤ 88 then some Tone.ready
        else if 64 ≤ crossings ∧ crossings ≤ 72 then some Tone.notReady
        else if 48 ≤ crossings ∧ crossings ≤ 56 then some Tone.repeatLines
        else if 32 ≤ crossings ∧ crossings ≤ 40 then some Tone.halt
        else none) →
    count = (if band = none then 0 else if band = s.line.monitor.band then s.line.monitor.count + 1 else 1) →
    used = (decide (band ≠ none ∧ band = s.line.monitor.band) && s.line.monitor.recognised) →
    ∃ t, exec (.toneWindowEnd crossings) s = .next t ∧
      State.Ends
        { s with
          line :=
            { s.line with
              monitor :=
                { windowEnd := some (due + 40000), band := band, count := count
                  recognised := used || decide (band ≠ none ∧ s.line.snap.windows ≤ count) }
              toneDue :=
                if band ≠ none ∧ used = false ∧ s.line.snap.windows ≤ count then band else s.line.toneDue } } t

/-- R84 to R86, R91: the Line Unit takes a recognition, and shows the tone with the state it is then in, acted on or
not. READY in ANSWER_WAIT answers the call; NOT_READY there, and HALT while turns are sent, end the attempt without a
stop tone; in the other states, RELEASE_GUARD among them, it is only shown. Model's choice in it: a recognition waits
for its own command (log entry 2). -/
def Obligations.ToneRecognitions : Prop :=
  ∀ (s : State) (tone : Tone), s.awake = true → s.line.toneDue = some tone →
    (s.line.state = .answerWait → tone = .ready →
      ∃ t, exec .toneRecognised s = .next t ∧
        State.Ends
          { s with
            record := { s.record with answered := true }
            line :=
              { s.line with
                toneDue := none, lastTone := some (tone, s.line.state), state := .startTone, answerTimer := none
                startToneTimer := some (s.now + 1000000 * s.line.snap.startToneTime)
                carrier := s.line.carrier.toneRequest s.line.relay s.crystal s.line.hStart } } t) ∧
    ((s.line.state = .answerWait ∧ tone = .notReady) ∨
        ((s.line.state = .phasing ∨ s.line.state = .picture ∨ s.line.state = .separator) ∧ tone = .halt) →
      ∃ t, exec .toneRecognised s = .next t ∧
        State.AttemptEnded
          { s with line := { s.line with toneDue := none, lastTone := some (tone, s.line.state) } }
          (if tone = .halt then .halted else .notReady) .none false t) ∧
    (s.line.state ∈ [.onHook, .seizeWait, .dialing, .startTone, .readyWait, .stopTone, .releaseGuard] ∨
        (s.line.state = .answerWait ∧ tone ≠ .ready ∧ tone ≠ .notReady) ∨
        ((s.line.state = .phasing ∨ s.line.state = .separator) ∧ tone ≠ .halt) ∨
        (s.line.state = .picture ∧ tone ≠ .halt ∧ tone ≠ .repeatLines) →
      ∃ t, exec .toneRecognised s = .next t ∧
        State.Ends
          { s with line := { s.line with toneDue := none, lastTone := some (tone, s.line.state) } } t)

/-- R68, R69, R91: the decision on a REPEAT in PICTURE, by its conditions in order. A refusal is counted with
its reason; a grant queues the slots of the last lines whose first send has begun, at most the window's number,
in increasing line order: a SENT slot of them becomes HELD, and the SENDING slot is marked. -/
def Obligations.RepeatDecisions : Prop :=
  ∀ (s : State) (call : CallInfo) (first n : Nat), s.awake = true → s.line.toneDue = some .repeatLines →
    s.line.state = .picture → s.line.call = some call →
    first = (s.record.frames[s.ring.sendFrame]?.map fun e => e.firstSent).getD 0
      + (if s.ring.picked.isSome = true ∧ s.ring.firstSend = true then 1 else 0) →
    n = min call.window first →
    (∀ why, why =
        (if s.ring.repeatQueue ≠ [] then some RepeatRefusal.queueBusy
          else if s.line.snap.repeatLimit ≤ s.line.grantsUsed then some RepeatRefusal.limitReached
          else if n = 0 then some RepeatRefusal.emptyRange
          else if ∃ i, i < n ∧ s.ring.repeatSlot (first - n + i) = none then some RepeatRefusal.linesGone
          else none) →
      (why ≠ none →
        ∃ t, exec .toneRecognised s = .next t ∧
          State.Ends
            { s with
              line := { s.line with toneDue := none, lastTone := some (.repeatLines, .picture) }
              ring := { s.ring with refusals := min (s.ring.refusals + 1) 65535, lastRefusal := why }
              record := { s.record with repeatsRefused := min (s.record.repeatsRefused + 1) 65535 } } t) ∧
      (why = none →
        ∃ t slots, exec .toneRecognised s = .next t ∧ slots.length = n ∧
          (∀ i slot, i < n → s.ring.repeatSlot (first - n + i) = some slot → slots[i]? = some slot) ∧
          State.Ends
            { s with
              ring :=
                { s.ring with
                  slots :=
                    s.ring.slots.mapIdx fun m e =>
                      if m ∈ slots ∧ e.state = .sent then { e with state := .held } else e
                  marked := s.ring.marked || slots.any fun m => (s.ring.slot m).state != .sent
                  repeatQueue := slots, grants := min (s.ring.grants + 1) 65535 }
              record := { s.record with repeatsServed := min (s.record.repeatsServed + 1) 65535 }
              line :=
                { s.line with
                  toneDue := none, lastTone := some (.repeatLines, .picture)
                  grantsUsed := s.line.grantsUsed + 1 } } t))

/-- R85 to R87, R95, R96, R127: the answer timeout ends the attempt with NO_ANSWER and no stop tone; the ready wait's
end, with the outcome that names the first of the three conditions that fails, and the stop tone: the drum not ready,
the carriage not AT_FRAME or at another position than frame 0's start, the scanner not READY, or no INDEX. The ends of
the start tone, of the stop tone, and of the release guard, at which the line is at rest and the next attempt begins.
Model's choice in it: the record of an attempt that ended CARRIAGE_FAULT ends the job without a next destination (log
entry 29). -/
def Obligations.TimersOfTheCall : Prop :=
  (∀ (s : State) (due : Nat), s.awake = true → due ≤ s.now →
    (s.line.state = .answerWait → s.line.answerTimer = some due →
      ∃ t, exec .answerTimeout s = .next t ∧ State.AttemptEnded s .noAnswer .none false t) ∧
    (s.line.state = .readyWait → s.line.readyTimer = some due →
      (s.drum.state ≠ .inBand ∧ s.drum.state ≠ .bandWarning →
        ∃ t, exec .readyWaitExpiry s = .next t ∧ State.AttemptEnded s .drumFault .drumNotReady true t) ∧
      (s.drum.state = .inBand ∨ s.drum.state = .bandWarning →
        (s.carriage.state ≠ .atFrame ∨ (∀ f rest, s.line.frames = f :: rest → s.carriage.position ≠ f.start) →
          ∃ t, exec .readyWaitExpiry s = .next t ∧
            State.AttemptEnded s .carriageFault .carriageNotReady true t) ∧
        (∀ f rest, s.line.frames = f :: rest → s.carriage.state = .atFrame → s.carriage.position = f.start →
          (s.scan.state ≠ .ready →
            ∃ t, exec .readyWaitExpiry s = .next t ∧
              State.AttemptEnded s .carriageFault .scannerNotReady true t) ∧
          (s.scan.state = .ready →
            ∃ t, exec .readyWaitExpiry s = .next t ∧ State.AttemptEnded s .drumFault .noIndex true t))))) ∧
  (∀ (s : State) (due : Nat), s.inReset = false → due ≤ s.now →
    (s.line.state = .startTone → s.line.startToneTimer = some due →
      ∃ t, exec .startToneExpiry s = .next t ∧
        State.Ends
          { s with
            line :=
              { s.line with
                state := .readyWait, startToneTimer := none
                readyTimer := some (s.now + 1000000 * s.line.snap.readyWait) } } t) ∧
    (s.line.state = .stopTone → s.line.stopToneTimer = some due →
      ∃ t, exec .stopToneExpiry s = .next t ∧
        State.Ends
          { s with
            line :=
              { s.line with
                state := .releaseGuard, relay := false, sendLamp := false
                carrier := s.line.carrier.stop, monitor := .stopped, loopTimer := none
                stopToneTimer := none, seizeTimer := none, dialTimer := none, dialPhase := none
                breaksLeft := 0, answerTimer := none, startToneTimer := none, readyTimer := none
                guardTimer := some (s.now + 1000 * s.line.snap.releaseGuard) } } t) ∧
    (s.line.state = .releaseGuard → s.line.guardTimer = some due →
      ∃ t x, exec .releaseGuardExpiry s = .next t ∧
        State.Looked
          { s with
            line := { s.line with state := .onHook, guardTimer := none }
            jobs := { s.jobs with lineAtRest := true } } x ∧
        State.Ends x t))

/-- R57, R64, R88 to R90, R92: at the end of phasing PICTURE begins with its first picture turn, the frame's send
signature fresh; a drum that is not ready ends the attempt instead. Model's choices in it: the end of phasing waits for
its own command (log entry 2), and an attempt whose last frame ends at once ends in PICTURE, or in SEPARATOR where that
had been entered (log entry 36). -/
def Obligations.PhasingEndBeginsThePicture : Prop :=
  ∀ (s : State) (call : CallInfo), s.awake = true → s.line.state = .phasing → s.line.call = some call →
    call.phasing ≤ s.line.turnCount →
    (s.drum.state.turns →
      ∃ t x, exec .phasingEnd s = .next t ∧
        State.PictureTurn { s with line := { s.line with state := .picture, sendSig := 1 } } x ∧
        State.Ends { x with drum := { x.drum with bandLostSignal := false } } t) ∧
    (¬ s.drum.state.turns →
      ∃ t, exec .phasingEnd s = .next t ∧ State.AttemptEnded s .drumFault .drumNotReady true t)


/-! ## Send entries, chains and jobs (06_transmission_control_blocks_and_the_job_queue.md, 11_mailboxes.md) -/

/-- R100, R183, R184, R191: a Send entry that has been read is acted on by its action byte: FREE ends the take;
START begins the fetch of the chain at the address in word 0, or refuses it with BAD_ADDRESS; a code above 2
refuses the entry with BAD_ACTION. Model's choice in it: the read forgets the writes to that entry that were handed on
before it (log entry 12). -/
def Obligations.SendEntriesAreTaken : Prop :=
  ∀ (s u : State) (e x action : Nat) (w : Word) (rest : List Op) (take : Take) (l : Layout),
    s.inReset = false → s.gate.port = some .control →
    s.gate.ops = { kind := .sendRead e, todo := [.rd x], got := [w] } :: rest →
    s.mailbox.take = some take → s.layout.inForce = some l → action = (s.mem.word x).toNat % 256 →
    u = s.entryTaken e rest take.stale →
    (action = 0 → ∃ t, exec .freeEntry s = .next t ∧ State.Ends (u.entryFreed take) t) ∧
    (action = 1 → w.toNat % 16 = 0 → w.toNat + 128 ≤ l.memoryTop →
      ∃ t, exec .startEntry s = .next t ∧
        State.Ends
          { u with
            mailbox := { u.mailbox with take := some { take with phase := .fetching none [] w.toNat } }
            gate :=
              { u.gate with
                ops := rest ++
                  [{ kind := .memberRead, todo := (List.range 32).map fun i => .rd (w.toNat + 4 * i)
                     got := [] }] } } t) ∧
    (action = 1 → w.toNat % 16 ≠ 0 ∨ l.memoryTop < w.toNat + 128 →
      ∃ t, exec .startEntry s = .next t ∧ u.ChainRefused take w.toNat .badAddress t) ∧
    (2 < action →
      ∃ t v, exec .badActionEntry s = .next t ∧
        State.Handed u
          { addr := w.toNat, status := .refused, reason := some .badAction, ok := 0, failed := 0
            quiet := false, chainEnd := true } v ∧
        State.Ends (v.entryFreed take) t)

/-- R101, R102, R104: a chain member that has been read is checked field by field in order, the head for its
destinations, a later member against the head. The first failure refuses the chain with its reason and the
head's address; the refusal counter counts it. -/
def Obligations.MembersAreCheckedInOrder : Prop :=
  ∀ (s : State) (x a : Nat) (got : List Word) (rest : List Op) (take : Take) (l : Layout)
    (head : Option ChainHead) (members : List Member) (why : RefusalReason),
    s.inReset = false → s.gate.port = some .control →
    s.gate.ops = { kind := .memberRead, todo := [.rd x], got := got } :: rest →
    s.mailbox.take = some take → take.phase = .fetching head members a → s.layout.inForce = some l →
    memberRefusal l.directoryCount head (readTcb (got ++ [s.mem.word x])) = some why →
    ∃ t, exec .tcbMemberRead s = .next t ∧
      State.ChainRefused { s with gate := { s.gate with port := none, ops := rest } } take
        ((members.head?.map fun y => y.addr).getD a) why t

/-- R100 to R107: a member that passes its checks joins the chain, the head giving its clamped values. With a link the
next member is fetched, unless it would be the ninth or its address fails; with a link of 0 the chain-level checks are
made in their order, and a chain that passes joins the queue by its URGENT flag. With the Job Controller IDLE it becomes
current at once, in MOUNT_WAIT, with the MOUNT lamp lit and its guards in the Guard List. Model's choice in it: the end
cause of the job before it is shown until then (log entry 33). -/
def Obligations.ChainsAreFetchedAndQueued : Prop :=
  ∀ (s u : State) (x a first : Nat) (got : List Word) (rest : List Op) (take : Take) (l : Layout) (m : Tcb)
    (head : Option ChainHead) (members all : List Member) (h : ChainHead) (job : Job),
    s.inReset = false → s.gate.port = some .control →
    s.gate.ops = { kind := .memberRead, todo := [.rd x], got := got } :: rest →
    s.mailbox.take = some take → take.phase = .fetching head members a → s.layout.inForce = some l →
    m = readTcb (got ++ [s.mem.word x]) → memberRefusal l.directoryCount head m = none →
    (∀ c, head = some c → h = c) → (∀ v, head = none → speedOfCode m.speedCode = some v → h = m.clamped v) →
    all = members ++ [m.kept a] → first = (members.head?.map fun y => y.addr).getD a →
    job =
      { members := all, speed := h.speed, k := h.k, phasing := h.phasing, delay := h.delay
        window := h.window, retryLimit := h.retryLimit, retryInterval := h.retryInterval
        urgent := h.urgent, destinations := h.destinations } →
    u = { s with gate := { s.gate with port := none, ops := rest } } →
    (m.link ≠ 0 →
      (8 ≤ all.length → ∃ t, exec .tcbMemberRead s = .next t ∧ u.ChainRefused take first .chainTooLong t) ∧
      (all.length < 8 → ¬ addressPasses l.memoryTop all m.link →
        ∃ t, exec .tcbMemberRead s = .next t ∧ u.ChainRefused take first .badAddress t) ∧
      (all.length < 8 → addressPasses l.memoryTop all m.link →
        ∃ t, exec .tcbMemberRead s = .next t ∧
          State.Ends
            { u with
              mailbox := { u.mailbox with take := some { take with phase := .fetching (some h) all m.link } }
              gate :=
                { u.gate with
                  ops := rest ++
                    [{ kind := .memberRead, todo := (List.range 32).map fun i => .rd (m.link + 4 * i)
                       got := [] }] } } t)) ∧
    (m.link = 0 →
      (∀ why, why =
          (if l.ringCount < h.delay + h.window + 2 then some RefusalReason.ringTooSmall
            else if ∃ y ∈ all, ∃ j ∈ s.jobs.queue ++ s.jobs.current.toList, ∃ z ∈ j.members, z.addr = y.addr then
              some .duplicate
            else if 16 ≤ s.jobs.queue.length then some .busy
            else none) →
        (∀ r, why = some r → ∃ t, exec .tcbMemberRead s = .next t ∧ u.ChainRefused take first r t) ∧
        (why = none →
          ∃ t v, exec .tcbMemberRead s = .next t ∧ State.JobQueued job u v ∧ State.Ends (v.entryFreed take) t)))

/-- R115, R116, R165: an ABORT of the current job ends it ABORTED; of a queued job removes it and issues the
writes of its results, one operation to a member, in the format that JobsFinishAndTheDrumIsParked gives, after which
its completions are handed on; of a job that is finishing, or of no job, is answered NOT_FOUND. The FREE of the entry
may enter the control requester's list ahead of the Job Controller's operations of the same moment (R165). With `late`,
the requests to an attempt in progress are still on their way: see RequestsOnTheirWay. Model's choices in it: the
orders of one moment are the command's operands (log entry 8); the read of the entry forgets the writes to it that were
handed on before (log entry 12); and a chain's results are one operation to a member (log entry 38). -/
def Obligations.AbortsByTheDesk : Prop :=
  (∀ (s u : State) (e x a : Nat) (w : Word) (rest : List Op) (take : Take) (late : Bool) (ahead : Nat),
    s.awake = true →
    s.gate.port = some .control → s.gate.ops = { kind := .sendRead e, todo := [.rd x], got := [w] } :: rest →
    s.mailbox.take = some take → (s.mem.word x).toNat % 256 = 2 → a = w.toNat →
    u = s.entryTaken e rest take.stale →
    (∀ before j after, s.jobs.queue = before ++ j :: after →
        (∀ i ∈ before, ∀ y ∈ i.members, y.addr ≠ a) → (∃ y ∈ j.members, y.addr = a) →
      ∃ t, exec (.abortEntry late ahead) s = .next t ∧
        State.Ends
          { u with
            jobs := { u.jobs with queue := before ++ after }
            mailbox := { u.mailbox with take := some { take with phase := .aborting } }
            gate :=
              { u.gate with
                ops := rest ++
                  resultOps (.abortedResults j) (some .aborted) (j.tableOf .final (some .notSent) (some .aborted))
                    (List.replicate j.members.length 1) j } } t) ∧
    ((∀ i ∈ s.jobs.queue, ∀ y ∈ i.members, y.addr ≠ a) →
      (∀ j, s.jobs.current = some j → (∃ y ∈ j.members, y.addr = a) → s.jobs.state ≠ .finishing →
          late = false ∨ s.jobs.attemptInProgress = false →
        ∃ t v, exec (.abortEntry late ahead) s = .next t ∧ State.JobOver u .aborted v ∧
          State.Ends ((v.entryFreed take).slideLast rest.length ahead) t) ∧
      ((∀ j, s.jobs.current = some j → s.jobs.state = .finishing ∨ ∀ y ∈ j.members, y.addr ≠ a) →
        ∃ t v, exec (.abortEntry late ahead) s = .next t ∧
          State.Handed u
            { addr := a, status := .notFound, reason := none, ok := 0, failed := 0, quiet := false
              chainEnd := true } v ∧
          State.Ends (v.entryFreed take) t))) ∧
  (∀ (s : State) (j : Job) (x : Access) (got : List Word) (rest : List Op) (take : Take),
    s.inReset = false → s.gate.port = some .control →
    s.gate.ops = { kind := .abortedResults j, todo := [.wr x], got := got } :: rest →
    s.mailbox.take = some take →
    ∃ t v, exec .abortedResultsWritten s = .next t ∧
      State.HandedAll
        { s with mem := s.mem.write x, gate := { s.gate with port := none, ops := rest } }
        (j.members.mapIdx fun i y =>
          { addr := y.addr, status := .ended .aborted, reason := none, ok := 0
            failed := j.destinations.length, quiet := decide (i + 1 < j.members.length)
            chainEnd := decide (i + 1 = j.members.length) }) v ∧
      State.Ends (v.entryFreed take) t)

/-- R5, R93, R108, R109, R111, R112, R127: the clamp's openings and closings make the mount state; an opening while a
job is attempting or waiting for a retry parks the drum by brake and ends the job MEDIA_REMOVED, the attempt by
the loss of the band when the Line Unit takes that first; a closing that makes the mount FRESH, with the Backlog
empty, takes a job out of MOUNT_WAIT and begins its first attempt. The stop key ends a job OPERATOR_STOP there, and
elsewhere does nothing. With `late`, the requests to an attempt in progress are still on their way: see
RequestsOnTheirWay. Model's choices in it: the order of two events of one moment is the command's operand (log entry
8), and a chain's results are one operation to a member (log entry 38). -/
def Obligations.ClampAndStopKey : Prop :=
  ∀ s : State, s.awake = true →
    (s.jobs.clampClosed = true → s.jobs.state.running = false →
      ∀ first late, ∃ t, exec (.clampOpen first late) s = .next t ∧
        State.Ends { s with jobs := { s.jobs with clampClosed := false, mount := .opened } } t) ∧
    (∀ first late drum, s.jobs.clampClosed = true → s.jobs.state.running = true →
        late = false ∨ s.jobs.attemptInProgress = false →
        drum =
          (if s.drum.state = .stopped then { s.drum with spinRequest := none }
            else if s.drum.state = .parking ∨ s.drum.state = .latched then
              { s.drum with spinRequest := none, brake := true }
            else
              { s.drum with
                state := .parking, duty := 0, brake := true, spinRequest := none, ref := 0, integral := 0
                spinUp := none, wait := none, rampTick := none, stallTimer := none
                rest := some (s.now + 1000000) }) →
        (s.drum.state ≠ .inBand ∧ s.drum.state ≠ .bandWarning) ∨ s.line.state.sending = false ∨
          (first = false ∧ s.jobs.attemptInProgress = true) →
      ∃ t, exec (.clampOpen first late) s = .next t ∧
        State.JobEnded
          { s with jobs := { s.jobs with clampClosed := false, mount := .opened }, drum := drum }
          .mediaRemoved t ∧ t.jobs.mount = .opened ∧ t.jobs.clampClosed = false) ∧
    (s.jobs.clampClosed = true → s.jobs.state.running = true → s.jobs.attemptInProgress = true →
        s.drum.state = .inBand ∨ s.drum.state = .bandWarning → s.line.state.sending = true →
      ∃ t, exec (.clampOpen true false) s = .next t ∧ t.record.outcome = some .drumFault ∧
        t.record.detail = .bandLost ∧ t.jobs.endCause = some .mediaRemoved ∧ t.jobs.mount = .opened ∧
        t.drum.state = .parking ∧ t.drum.brake = true ∧ t.line.state = .stopTone ∧
        t.jobs.attemptInProgress = false ∧ (∀ d ∈ t.jobs.progress, d.progress = .final) ∧
        ∃ x, State.AttemptOver
            { s with
              jobs := { s.jobs with clampClosed := false, mount := .opened, endCause := some .mediaRemoved }
              drum :=
                { s.drum with
                  state := .parking, duty := 0, brake := true, spinRequest := none, ref := 0, integral := 0
                  spinUp := none, wait := none, rampTick := none, stallTimer := none
                  rest := some (s.now + 1000000) } }
            .drumFault .bandLost true x ∧
          State.Ends (x.closedBy .mediaRemoved) t) ∧
    (s.jobs.clampClosed = false → s.jobs.mount = .opened → s.jobs.state ≠ .mountWait ∨ s.mailbox.backlog ≠ [] →
      ∃ t, exec .clampClose s = .next t ∧
        State.Ends { s with jobs := { s.jobs with clampClosed := true, mount := .fresh } } t) ∧
    (s.jobs.clampClosed = false → s.jobs.mount = .stale →
      ∃ t, exec .clampClose s = .next t ∧
        State.Ends { s with jobs := { s.jobs with clampClosed := true } } t) ∧
    (s.jobs.clampClosed = false → s.jobs.mount = .opened → s.jobs.state = .mountWait → s.mailbox.backlog = [] →
      ∃ t x, exec .clampClose s = .next t ∧
        State.Looked
          { s with
            jobs :=
              { s.jobs with clampClosed := true, mount := .fresh, state := .attempting, mountLamp := false } } x ∧
        State.Ends x t) ∧
    (∀ late, s.jobs.state.running = true → late = false ∨ s.jobs.attemptInProgress = false →
      ∃ t, exec (.stopKey late) s = .next t ∧ State.JobEnded s .operatorStop t) ∧
    (∀ late, s.jobs.state.running = false → ∃ t, exec (.stopKey late) s = .next t ∧ State.Ends s t)

/-- R93, R111 to R114, R116, R132, R133: while the requests of an end cause are on their way to an attempt in progress,
an attempt end of the same moment is taken first, with its own outcome, and its record under the end cause: a
destination that would be tried again or given up is NOT_SENT. A second cause is ignored. When the moment is over, the
requests reach their units, and the attempt still in progress ends with the cause's outcome. How the requests of a
carriage fault go on their way stands in CarriageFaultEndsTheJob. Model's choices in it: the order of one moment is the
command's operand, and a moment lasts until the queue of commands is empty (log entries 8 and 25); the read of the
ABORT's entry forgets the writes to it that were handed on before (log entry 12). -/
def Obligations.RequestsOnTheirWay : Prop :=
  (∀ s : State, s.awake = true → s.jobs.attemptInProgress = true →
    (s.jobs.state.running = true →
      ∃ t, exec (.stopKey true) s = .next t ∧
        State.Ends
          { s with
            jobs := { s.jobs with endCause := some .operatorStop, requestsDue := some { freeAhead := none } } } t) ∧
    (∀ first, s.jobs.state.running = true → s.jobs.clampClosed = true →
      ∃ t, exec (.clampOpen first true) s = .next t ∧
        State.Ends
          { s with
            jobs :=
              { s.jobs with
                clampClosed := false, mount := .opened, endCause := some .mediaRemoved
                requestsDue := some { freeAhead := none } } } t) ∧
    (∀ (e x : Nat) (w : Word) (rest : List Op) (take : Take) (j : Job) (ahead : Nat) (u : State),
        s.gate.port = some .control → s.gate.ops = { kind := .sendRead e, todo := [.rd x], got := [w] } :: rest →
        s.mailbox.take = some take → (s.mem.word x).toNat % 256 = 2 → u = s.entryTaken e rest take.stale →
        (∀ i ∈ s.jobs.queue, ∀ y ∈ i.members, y.addr ≠ w.toNat) → s.jobs.current = some j →
        (∃ y ∈ j.members, y.addr = w.toNat) → s.jobs.state ≠ .finishing →
      ∃ t, exec (.abortEntry true ahead) s = .next t ∧
        State.Ends
          { u with
            jobs := { u.jobs with endCause := some .aborted, requestsDue := some { freeAhead := some ahead } } }
          t)) ∧
  (∀ (s : State) (cause : Cause) (r : LateEnd), s.inReset = false → s.jobs.requestsDue = some r →
    s.jobs.endCause = some cause → s.jobs.attemptInProgress = true → s.carriage.arrivalEvent = false →
    s.carriage.truncationEvent = false → s.carriage.faultEvent = false → s.drum.bandLostSignal = false →
    (∀ due, s.line.state = .answerWait → s.line.answerTimer = some due → due ≤ s.now →
      ∃ t, exec .answerTimeout s = .next t ∧ State.AttemptEnded s .noAnswer .none false t) ∧
    (∀ u, s.line.relay = true → s.line.loopTimer = some u → u + 1000 * s.line.snap.loopLoss ≤ s.now →
        s.line.state.attempting = true →
      ∃ t, exec .loopLoss s = .next t ∧ State.AttemptEnded s .lineLost .none false t) ∧
    (s.line.state.sending = true → s.drum.state = .bandWarning → s.drum.lossDue = true →
      ∃ t, exec .bandLost s = .next t ∧
        State.AttemptEnded
          { s with
            drum :=
              { s.drum with
                state := .settling, outOfBandRun := 0, inBandCount := 0, lossDue := false
                spinUp := if s.profile.drum.stallPolicy = .off then none else some s.now } }
          .drumFault .bandLost true t) ∧
    (∀ late, ∃ t, exec (.stopKey late) s = .next t ∧ State.Ends s t) ∧
    (s.pending = [] → s.line.state.attempting = true →
      ∃ t y, step s = .next t ∧
        State.AttemptEnded s cause.outcome cause.detail (!s.line.state.unanswered) y ∧
        State.Ends { y with crystal := s.crystal + 1 } t))

/-- R107, R117 to R120: the results area of each member holds the end cause and the scan signature in word 12, and two
words for each destination from byte 64, their counts saturated (R192), zeros beyond the destination count (R191). When
the last results word has reached memory the members' completions are handed on in chain order, with a status from the
count of the destinations to which the frame was sent; the job's guards go and the lamp goes off. With an empty queue
the Job Controller is IDLE and the drum parked by the profile's park mode; with a job queued that job is current, and
the park-delay timer starts, or with no delay the drum is parked. After MEDIA_REMOVED the drum is left. The timer's end
parks the drum in any state; where that loses the band while turns are sent, the attempt ends. Model's choices in it:
the end cause stays shown in IDLE (log entry 33); a PARK sent at once stops a timer that still runs (log entry 37); and
a chain's results are one operation to a member (log entry 38). -/
def Obligations.JobsFinishAndTheDrumIsParked : Prop :=
  (∀ (ds : List Dest) (m : Nat),
    okCount ds m =
      (ds.filter fun d => decide (∃ e ∈ d.frames[m]?, e.check ≠ SigCheck.notCompared)).length) ∧
  (∀ (last : OpKind) (cause : Option Cause) (ds : List Dest) (sigs : List Sig) (j : Job) (m : Nat) (x : Member)
    (o : Op), j.members[m]? = some x → (resultOps last cause ds sigs j)[m]? = some o →
    (resultOps last cause ds sigs j).length = j.members.length ∧ o.todo.length = 17 ∧
    o.kind = (if m + 1 = j.members.length then last else .memberResults) ∧
    o.todo[0]? =
      some (.wr
        { addr := x.addr + 48, be := 15
          data :=
            BitVec.ofNat 32
              ((match cause with
                | none => 0
                | some .carriageFault => 7
                | some .aborted => 8
                | some .operatorStop => 9
                | some .mediaRemoved => 10) + 65536 * (sigs.getD m 1).toNat) }) ∧
    (∀ i d firstSent sig, i < 8 → ds[i]? = some d →
      (firstSent, sig) = (match d.frames[m]? with | some e => (e.firstSent, e.sig) | none => (0, 1)) →
      o.todo[2 * i + 1]? =
        some (.wr
          { addr := x.addr + 64 + 8 * i, be := 15
            data :=
              BitVec.ofNat 32
                ((d.final.map FinalOutcome.code).getD 0 + 256 * (d.lastOutcome.map AttemptOutcome.code).getD 0
                  + 4096 * d.lastDetail.code + 65536 * min d.attempts 15 + 1048576 * min firstSent 4095) }) ∧
      o.todo[2 * i + 2]? =
        some (.wr
          { addr := x.addr + 68 + 8 * i, be := 15
            data :=
              BitVec.ofNat 32 (sig.toNat + 65536 * min d.served 255 + 16777216 * min d.refused 255) })) ∧
    (∀ i, i < 8 → ds.length ≤ i →
      o.todo[2 * i + 1]? = some (.wr { addr := x.addr + 64 + 8 * i, be := 15, data := 0 }) ∧
      o.todo[2 * i + 2]? = some (.wr { addr := x.addr + 68 + 8 * i, be := 15, data := 0 }))) ∧
  (∀ (s v y : State) (j : Job) (x : Access) (got : List Word) (rest : List Op), s.inReset = false →
    s.line.state.sending = false → s.noEvents = true →
    s.gate.port = some .control → s.gate.ops = { kind := .results, todo := [.wr x], got := got } :: rest →
    s.jobs.current = some j → s.scan.state ≠ .scanning → s.scan.state ≠ .frameDone →
    State.HandedAll { s with mem := s.mem.write x, gate := { s.gate with port := none, ops := rest } }
      (j.members.mapIdx fun i y =>
        { addr := y.addr
          status :=
            match s.jobs.endCause with
            | some c => .ended c
            | none =>
              if okCount s.jobs.progress i = s.jobs.progress.length then .doneAll
              else if 0 < okCount s.jobs.progress i then .donePartial else .failed
          reason := none, ok := okCount s.jobs.progress i
          failed := s.jobs.progress.length - okCount s.jobs.progress i
          quiet := decide (i + 1 < j.members.length), chainEnd := decide (i + 1 = j.members.length) }) v →
    y =
      { v.jobLeft with
        drum :=
          if s.jobs.endCause = some .mediaRemoved ∨ (s.jobs.queue ≠ [] ∧ 0 < s.profile.drum.parkDelay) then v.drum
          else { v.drum.park v.profile.drum v.now v.profile.drum.parkMode with bandLostSignal := false }
        jobs :=
          { v.jobLeft.jobs with
            parkTimer :=
              if s.jobs.endCause = some .mediaRemoved then v.jobs.parkTimer
              else if s.jobs.queue ≠ [] ∧ 0 < s.profile.drum.parkDelay then
                some (s.now + 1000000 * s.profile.drum.parkDelay)
              else none } } →
    (s.jobs.queue = [] → ∃ t, exec .jobResultsWritten s = .next t ∧ State.Ends y t) ∧
    (∀ job q, s.jobs.queue = job :: q →
      ∃ t, exec .jobResultsWritten s = .next t ∧ State.Ends (y.jobBegun job q) t)) ∧
  (∀ (s u : State) (due : Nat) (d : Drum), s.awake = true → s.jobs.parkTimer = some due → due ≤ s.now →
    (s.drum.state = .stopped → d = { s.drum with spinRequest := none }) →
    (s.drum.state = .parking ∨ s.drum.state = .latched →
      d = { s.drum with
        spinRequest := none, brake := s.drum.brake || decide (s.profile.drum.parkMode = .brake) }) →
    (s.drum.state.regulating = true ∨ s.drum.state = .faultWait →
      d = { s.drum with
        state := .parking, duty := 0, brake := decide (s.profile.drum.parkMode = .brake)
        spinRequest := none, ref := 0, integral := 0, spinUp := none, wait := none
        rampTick := none, stallTimer := none, rest := some (s.now + 1000000) }) →
    u = { s with jobs := { s.jobs with parkTimer := none }, drum := d } →
    (s.line.state.sending = false ∨ (s.drum.state ≠ .inBand ∧ s.drum.state ≠ .bandWarning) →
      ∃ t, exec .parkDelayExpiry s = .next t ∧ State.Ends u t) ∧
    (s.line.state.sending = true → s.drum.state = .inBand ∨ s.drum.state = .bandWarning →
      ∃ t, exec .parkDelayExpiry s = .next t ∧ State.AttemptEnded u .drumFault .bandLost true t))

/-! ## Destinations, attempts and retries (07_destinations_attempts_and_retries.md) -/

/-- R4, R24 to R26, R31, R50, R52, R78, R79, R123, R125, R129: when the Directory entry has arrived the attempt begins,
whole: the Attempt Record is opened, the destination's attempt is counted, SPIN goes to the drum and POSITION to the
carriage, in any state of theirs, lamp-on to the Scan Unit, from IDLE with or without a warm-up, or with the lamp on
already, and the CALL to the Line Unit, which takes its snapshot, forms the pair and the counts of the fixed tones, and
seizes the line. The words of a start that was abandoned have no effect. Model's choices in it: a step away from a
switch releases it (log entry 6); the duty is set at the entry to RAMPING (log entry 15); a STALL policy of OFF keeps
the spin-up timer stopped (log entry 16); when the requests of a carriage-fault reach their units (log entry 25); and
the current destination shown is set here (log entry 32). -/
def Obligations.TheDirectoryReadBeginsTheAttempt : Prop :=
  (∀ (s : State) (x n fb fw : Nat) (got : List Word) (rest : List Op) (j : Job) (f : Frame) (frames : List Frame)
    (d : Dest) (e : DirEntry) (p : LineProfile), s.awake = true → s.gate.port = some .control →
    s.gate.ops = { kind := .directoryRead true, todo := [.rd x], got := got } :: rest →
    s.jobs.startInFlight = some n → s.jobs.current = some j → s.jobs.progress[n]? = some d →
    j.frames = f :: frames → e = readDirEntry (got ++ [s.mem.word x]) → p = s.profile.line →
    (fb, fw) = (if p.fBlack + 200 ≤ p.fWhite then (p.fBlack, p.fWhite) else (1300, 2100)) →
    s.scan.state = .idle ∨ s.scan.state = .warming ∨ s.scan.state = .ready → s.line.state = .onHook →
    ∃ t v, exec .directoryReadDone s = .next t ∧
      Drum.Spun s.profile.drum s.now j.speed s.drum v.drum ∧
      Carriage.Positioned s.now f.start s.carriage v.carriage ∧
      v =
        { s with
          gate := { s.gate with port := none, ops := rest }
          record :=
            { s.record with
              destSlot := n, dirIndex := d.dirIndex, name := e.name, attemptNo := d.attempts + 1
              startTime := s.clock.time, startUptime := s.clock.uptime, frameCount := j.members.length
              captions := j.members.map fun y => y.caption
              frames := j.frames.map fun _ =>
                { firstSent := 0, short := 0, sig := 1, check := .notCompared, ended := false }
              repeatsServed := 0, repeatsRefused := 0, starves := 0, gaps := 0, answered := false
              outcome := none, detail := .none, endingState := .onHook, endUptime := 0 }
          jobs :=
            { s.jobs with
              progress := s.jobs.progress.set n { d with attempts := d.attempts + 1 }
              startInFlight := none, attemptInProgress := true, noRetry := e.noRetry, lineAtRest := false
              currentDest := some (n, d.attempts + 1), scanSigs := j.members.map fun _ => 1
              directoryFaults :=
                if e.corrected = true then min (s.jobs.directoryFaults + 1) 65535 else s.jobs.directoryFaults
              parkTimer := none }
          drum := v.drum, carriage := v.carriage
          scan :=
            { s.scan with
              frames := f :: frames, lastPair := none
              state :=
                if s.scan.state = .idle then (if s.profile.lampWarmUp = 0 then .ready else .warming)
                else s.scan.state
              lamp := if s.scan.state = .idle then true else s.scan.lamp
              warm :=
                if s.scan.state = .idle then
                  (if s.profile.lampWarmUp = 0 then none else some (s.now + 100000 * s.profile.lampWarmUp))
                else s.scan.warm }
          line :=
            { s.line with
              state := .seizeWait, relay := true, sendLamp := true, active := true, grantsUsed := 0
              call :=
                some
                  { dial := e.dial, frames := f :: frames, k := j.k, phasing := j.phasing, delay := j.delay
                    window := j.window }
              snapshot := some p, fBlack := fb, fWhite := fw
              pairDefaulted := decide (p.fWhite < p.fBlack + 200)
              hBlack := (4000000 + fb) / (2 * fb), hWhite := (4000000 + fw) / (2 * fw)
              hStart := (4000000 + p.fStart) / (2 * p.fStart), hStop := (4000000 + p.fStop) / (2 * p.fStop)
              seizeTimer := some (s.now + 1000 * p.seizeWait)
              loopTimer := if s.line.loop = true then none else some s.now
              toneDue := none
              monitor := { windowEnd := some (s.now + 40000), band := none, count := 0, recognised := false } } } ∧
      State.Delivered v t) ∧
  (∀ (s : State) (x : Nat) (got : List Word) (rest : List Op), s.inReset = false →
    s.gate.port = some .control →
    s.gate.ops = { kind := .directoryRead false, todo := [.rd x], got := got } :: rest →
    ∃ t, exec .directoryReadDone s = .next t ∧
      State.Ends { s with gate := { s.gate with port := none, ops := rest } } t)

/-- R128: the destination of the next attempt is the first UNTRIED one in list order; with none UNTRIED it is
that of the head of the Retry List when its due uptime has come; otherwise there is none. -/
def Obligations.TheNextDestination : Prop :=
  ∀ s : State,
    (∀ before d after, s.jobs.progress = before ++ d :: after → (∀ y ∈ before, y.progress ≠ .untried) →
      d.progress = .untried → s.chosen = some before.length) ∧
    ((∀ d ∈ s.jobs.progress, d.progress ≠ .untried) →
      (∀ n due rest, s.jobs.retryList = (n, due) :: rest →
        (due ≤ s.clock.uptime → s.chosen = some n) ∧ (s.clock.uptime < due → s.chosen = none)) ∧
      (s.jobs.retryList = [] → s.chosen = none))

/-- R127, R135, R140: the second tick counts the time of day and the uptime, and hands the uptime to the Job
Controller: a retry that falls due moves a job that waits for it to ATTEMPTING, whether or not the line is at rest,
and with the line at rest its attempt begins. Model's choice in it: the next tick falls a second after this one was
due (log entry 1). -/
def Obligations.TheClockTicks : Prop :=
  ∀ (s : State) (due uptime : Nat) (time : TimeOfDay), s.inReset = false → s.clock.nextTick = some due →
    due ≤ s.now → uptime = min (s.clock.uptime + 1) 4294967295 →
    time =
      (if s.clock.time.seconds < 59 then { s.clock.time with seconds := s.clock.time.seconds + 1 }
        else if s.clock.time.minutes < 59 then
          { s.clock.time with seconds := 0, minutes := s.clock.time.minutes + 1 }
        else if s.clock.time.hours < 23 then
          { s.clock.time with seconds := 0, minutes := 0, hours := s.clock.time.hours + 1 }
        else { s.clock.time with seconds := 0, minutes := 0, hours := 0 }) →
    ∃ t x, exec .clockTick s = .next t ∧
      State.Looked
        { s with
          clock := { time := time, uptime := uptime, nextTick := some (due + 1000000) }
          jobs :=
            { s.jobs with
              state :=
                if s.jobs.state = .retryWait ∧
                    (s.jobs.retryList.head?.map fun e => decide (e.2 ≤ uptime)) = some true
                then .attempting else s.jobs.state } } x ∧
      State.Ends x t

/-! ## Receipt slips (08_receipt_slips_and_the_desk_clock.md) -/

/-- R147 to R151: at the end of a character the next one of the head slip begins, unless SLIP_BUSY holds it;
after the last, the slip is printed, its number shown, and the next slip begins. SLIP_BUSY becoming inactive
begins the character that it held. The end of the paper stops the printer, with the character in its frame left
to finish for nothing; paper that has been present for a second starts the head slip again from its first line,
behind the REPRINT line when its printing had begun. Model's choices in it: where no character ends, the command
carries a level of SLIP_BUSY that has become active (log entry 7), and the character that paper ran out under (log
entry 31). -/
def Obligations.SlipCharactersAndPaper : Prop :=
  (∀ (s : State) (ch : TxChar) (p : Slip) (q : List Slip) (row : List Nat), s.inReset = false →
    s.slips.queue = p :: q →
    (s.slips.txd = some ch → ch.start + 10000 ≤ s.now → ch.orphan = false → s.slips.printer = .printing →
        (p.output s.slips.reprinting)[s.slips.cursorLine]? = some row →
      (∀ c busy, row[s.slips.cursorChar + 1]? = some c →
        ∃ t, exec (.slipCharacterEnd busy) s = .next t ∧
          State.Ends
            { s with
              slips :=
                { s.slips with
                  cursorChar := s.slips.cursorChar + 1, busy := busy
                  begun := s.slips.begun || !busy
                  txd :=
                    if busy = true then none
                    else some { code := BitVec.ofNat 7 c, start := s.now, orphan := false } } } t) ∧
      (∀ c below busy, s.slips.cursorChar + 1 = row.length →
          (p.output s.slips.reprinting)[s.slips.cursorLine + 1]? = some (c :: below) →
        ∃ t, exec (.slipCharacterEnd busy) s = .next t ∧
          State.Ends
            { s with
              slips :=
                { s.slips with
                  cursorLine := s.slips.cursorLine + 1, cursorChar := 0, busy := busy
                  begun := s.slips.begun || !busy
                  txd :=
                    if busy = true then none
                    else some { code := BitVec.ofNat 7 c, start := s.now, orphan := false } } } t) ∧
      (∀ busy, s.slips.cursorChar + 1 = row.length →
          s.slips.cursorLine + 1 = (p.output s.slips.reprinting).length → q = [] →
        ∃ t, exec (.slipCharacterEnd busy) s = .next t ∧
          State.Ends
            { s with
              slips :=
                { s.slips with
                  printer := .idle, queue := [], lastPrinted := p.seq, cursorLine := 0, cursorChar := 0
                  begun := false, reprinting := false, busy := busy, txd := none } } t) ∧
      (∀ busy next rest c above, s.slips.cursorChar + 1 = row.length →
          s.slips.cursorLine + 1 = (p.output s.slips.reprinting).length → q = next :: rest →
          (next.output false)[0]? = some (c :: above) →
        ∃ t, exec (.slipCharacterEnd busy) s = .next t ∧
          State.Ends
            { s with
              slips :=
                { s.slips with
                  printer := .printing, queue := next :: rest, lastPrinted := p.seq, cursorLine := 0
                  cursorChar := 0, begun := !busy, reprinting := false, busy := busy
                  txd :=
                    if busy = true then none
                    else some { code := BitVec.ofNat 7 c, start := s.now, orphan := false } } } t)) ∧
    (∀ busy, s.slips.txd = some ch → ch.start + 10000 ≤ s.now → ch.orphan = true →
      (s.slips.printer = .paperOut →
        ∃ t, exec (.slipCharacterEnd busy) s = .next t ∧
          State.Ends { s with slips := { s.slips with txd := none, busy := busy } } t) ∧
      (∀ c, s.slips.printer = .printing →
          (p.output s.slips.reprinting)[s.slips.cursorLine]? = some row →
          row[s.slips.cursorChar]? = some c →
        ∃ t, exec (.slipCharacterEnd busy) s = .next t ∧
          State.Ends
            { s with
              slips :=
                { s.slips with
                  busy := busy, begun := s.slips.begun || !busy
                  txd :=
                    if busy = true then none
                    else some { code := BitVec.ofNat 7 c, start := s.now, orphan := false } } } t)) ∧
    (∀ c, s.noEvents = true → s.slips.busy = true → s.slips.printer = .printing →
        s.slips.txd = none → (p.output s.slips.reprinting)[s.slips.cursorLine]? = some row →
        row[s.slips.cursorChar]? = some c →
      ∃ t, exec .slipBusyRelease s = .next t ∧
        State.Ends
          { s with
            slips :=
              { s.slips with
                busy := false, begun := true
                txd := some { code := BitVec.ofNat 7 c, start := s.now, orphan := false } } } t)) ∧
  (∀ (s : State) (busy : Bool), s.inReset = false → (∀ ch, s.slips.txd = some ch → s.now < ch.start + 10000) →
    ∃ t, exec (.slipCharacterEnd busy) s = .next t ∧
      State.Ends { s with slips := { s.slips with busy := s.slips.busy || busy } } t) ∧
  (∀ s : State, s.awake = true → s.slips.busy = false ∨ s.slips.printer ≠ .printing ∨ s.slips.txd ≠ none →
    ∃ t, exec .slipBusyRelease s = .next t ∧ State.Ends { s with slips := { s.slips with busy := false } } t) ∧
  (∀ s : State, s.awake = true →
    (s.slips.paper = true →
      ∃ t, exec .paperOut s = .next t ∧
        State.Ends
          { s with
            slips :=
              { s.slips with
                paper := false, printer := .paperOut, paperTimer := none
                txd := s.slips.txd.map fun ch => { ch with orphan := true } } } t) ∧
    (s.slips.paper = false → s.slips.printer = .paperOut →
      ∃ t, exec .paperPresent s = .next t ∧
        State.Ends { s with slips := { s.slips with paper := true, paperTimer := some s.now } } t) ∧
    (∀ u, s.slips.printer = .paperOut → s.slips.paperTimer = some u → u + 1000000 ≤ s.now →
      (s.slips.queue = [] →
        ∃ t, exec .paperReturnExpiry s = .next t ∧
          State.Ends { s with slips := { s.slips with printer := .idle, paperTimer := none } } t) ∧
      (∀ p q, s.slips.queue = p :: q →
        (s.slips.busy = true ∨ s.slips.txd ≠ none →
          ∃ t, exec .paperReturnExpiry s = .next t ∧
            State.Ends
              { s with
                slips :=
                  { s.slips with
                    printer := .printing, paperTimer := none, cursorLine := 0, cursorChar := 0
                    reprinting := s.slips.begun
                    reprints :=
                      if s.slips.begun = true then min (s.slips.reprints + 1) 65535 else s.slips.reprints } } t) ∧
        (∀ c above, s.slips.busy = false → s.slips.txd = none → s.slips.begun = false →
            (p.output false)[0]? = some (c :: above) →
          ∃ t, exec .paperReturnExpiry s = .next t ∧
            State.Ends
              { s with
                slips :=
                  { s.slips with
                    printer := .printing, paperTimer := none, cursorLine := 0, cursorChar := 0
                    reprinting := false, begun := true
                    txd := some { code := BitVec.ofNat 7 c, start := s.now, orphan := false } } } t) ∧
        (s.slips.busy = false → s.slips.txd = none → s.slips.begun = true →
          ∃ t, exec .paperReturnExpiry s = .next t ∧
            State.Ends
              { s with
                slips :=
                  { s.slips with
                    printer := .printing, paperTimer := none, cursorLine := 0, cursorChar := 0
                    reprinting := true, begun := true, reprints := min (s.slips.reprints + 1) 65535
                    txd := some { code := 82, start := s.now, orphan := false } } } t))))

/-- R145 to R147, R151: the text of a slip, line by line: the header; SEQ with the start time, marked UNSET when the
clock was not set; TO with the name, "?" for each character outside 32 to 126, and the attempt number; a line for
each frame, marked "!" for a signature that does not match; DUR and RPT, with their limits; and the outcome line.
Every printed line has exactly 24 characters, filled with spaces; each goes out with carriage return and line feed,
the REPRINT line first on a reprint, and three feed lines follow. -/
def Obligations.TheTextOfASlip : Prop :=
  ∀ (p : Slip) (r : AttemptRecord), r = p.record →
    (∀ line ∈ p.lines, line.length = 24 ∧
      ((∀ c ∈ p.header, 32 ≤ c ∧ c ≤ 126) → ∀ c ∈ line, 32 ≤ c ∧ c ≤ 126)) ∧
    p.lines.length = 5 + min r.captions.length r.frames.length ∧
    (p.header.length = 24 → p.lines[0]? = some p.header) ∧
    (∀ seq h m s, Numeral 10 5 p.seq seq → Numeral 10 2 r.startTime.hours h → Numeral 10 2 r.startTime.minutes m →
        Numeral 10 2 r.startTime.seconds s →
      p.lines[1]? = some
        (text "SEQ " ++ seq ++ text " " ++ h ++ text ":" ++ m ++ text ":" ++ s ++
          text (if r.startTime.isSet = true then "      " else " UNSET"))) ∧
    (∀ n, r.name.length = 12 → Numeral 10 1 r.attemptNo n →
      p.lines[2]? = some
        (text "TO " ++ (r.name.map fun c => if 32 ≤ c ∧ c ≤ 126 then c else 63) ++ text " TRY " ++ n ++
          text "   ")) ∧
    (∀ f caption e cs ls xs, r.captions[f]? = some caption → r.frames[f]? = some e → Numeral 10 8 caption cs →
        Numeral 10 4 e.firstSent ls → Numeral 16 4 e.sig.toNat xs →
      p.lines[3 + f]? = some
        (text "C" ++ cs ++ text " L" ++ ls ++ text " S" ++ xs ++
          text (if e.check = .mismatch then "!  " else "   "))) ∧
    (∀ d m s x y, d = min (r.endUptime - r.startUptime) 59999 → Numeral 10 3 (d / 60) m → Numeral 10 2 (d % 60) s →
        Numeral 10 2 (min r.repeatsServed 99) x → Numeral 10 2 (min r.repeatsRefused 99) y →
      p.lines[p.lines.length - 2]? = some
        (text "DUR " ++ m ++ text ":" ++ s ++ text " RPT " ++ x ++ text "/" ++ y ++ text "    ")) ∧
    (∀ o d (words : String), r.outcome = some o → (d = none ∨ d = some r.detail) →
        (o, d, words) ∈
          ([(.sent, none, "SENT COMPLETE"), (.noAnswer, none, "NO ANSWER"),
            (.notReady, none, "NOT READY AT RECEIVER"), (.lineLost, none, "LINE LOST"),
            (.drumFault, some .bandLost, "DRUM FAULT BAND LOST"), (.drumFault, some .stall, "DRUM FAULT STALL"),
            (.drumFault, some .slip, "DRUM FAULT SLIP"),
            (.drumFault, some .overcurrent, "DRUM FAULT OVERCURRENT"),
            (.drumFault, some .drumNotReady, "DRUM FAULT NOT READY"),
            (.drumFault, some .noIndex, "DRUM FAULT NO INDEX"), (.halted, none, "HALTED BY RECEIVER"),
            (.carriageFault, some .carriageNotReady, "CARRIAGE FAULT NOT READY"),
            (.carriageFault, some .scannerNotReady, "CARRIAGE FAULT SCANNER"),
            (.carriageFault, some .carriageEvent, "CARRIAGE FAULT EVENT"), (.aborted, none, "ABORTED BY DESK"),
            (.operatorStop, none, "STOPPED BY OPERATOR"), (.mediaRemoved, none, "PRINT REMOVED")] :
            List (AttemptOutcome × Option Detail × String)) →
      ∃ spaces, (∀ c ∈ spaces, c = 32) ∧ p.lines.getLast? = some (text words ++ spaces)) ∧
    p.output false = (p.lines.map fun line => line ++ [13, 10]) ++ [[10], [10], [10]] ∧
    p.output true = (text "REPRINT" ++ List.replicate 17 32 ++ [13, 10]) :: p.output false

/-- R142 to R144, R191, R192: an Attempt Record is composed into a slip when fewer than eight records wait to be
logged, and counted lost otherwise. The slip takes the next sequence number, the header of the moment and its print
flag; its record's 32 words, which lie as Memory Formats gives them, each narrow field saturated and each field
beyond the frame count 0, go to the entry at the write index, which moves on; the slip joins the Slip Queue, and
begins printing at once when the printer is IDLE, or is counted unprinted. -/
def Obligations.TheSlipLogRecord : Prop :=
  (∀ (p : Slip) (r : AttemptRecord) (w : Nat → Nat) (caption firstSent short sig check name : Nat → Nat),
    r = p.record → w = (fun i => (p.logWords.getD i 0).toNat) → name = (fun i => min (r.name.getD i 0) 255) →
    caption = (fun f => r.captions.getD f 0 % 134217728) →
    firstSent = (fun f => min ((r.frames[f]?.map fun e => e.firstSent).getD 0) 4095) →
    short = (fun f => min ((r.frames[f]?.map fun e => e.short).getD 0) 4095) →
    sig = (fun f => (r.frames[f]?.map fun e => e.sig.toNat).getD 0) →
    check = (fun f => (r.frames[f]?.map fun e =>
      if e.check = .isMatch then 1 else if e.check = .mismatch then 2 else 0).getD 0) →
    p.logWords.length = 32 ∧
    w 0 = min p.seq 65535 + 65536 * (if p.flag = .printPending then 1 else 2) + 16777216 * min r.frameCount 255 ∧
    w 1 = min r.dirIndex 255 + 256 * min r.destSlot 255 + 65536 * min r.attemptNo 255 +
      (if r.answered = true then 16777216 else 0) ∧
    (∀ i < 3, w (2 + i) =
      name (4 * i) + 256 * name (4 * i + 1) + 65536 * name (4 * i + 2) + 16777216 * name (4 * i + 3)) ∧
    w 5 = min r.startTime.seconds 255 + 256 * min r.startTime.minutes 255 + 65536 * min r.startTime.hours 255 +
      (if r.startTime.isSet = true then 16777216 else 0) ∧
    (r.startUptime < 4294967296 → w 6 = r.startUptime) ∧ (r.endUptime < 4294967296 → w 7 = r.endUptime) ∧
    (∀ f < 8, w (8 + f) = caption f + 268435456 * check f ∧ w (16 + f) = firstSent f + 65536 * short f) ∧
    (∀ i < 4, w (24 + i) = sig (2 * i) + 65536 * sig (2 * i + 1)) ∧
    (∀ o, r.outcome = some o →
      w 28 = o.code + 256 * r.detail.code + 65536 * r.endingState.code) ∧
    w 29 = min r.repeatsServed 65535 + 65536 * min r.repeatsRefused 65535 ∧
    w 30 = min r.starves 65535 + 65536 * min r.gaps 65535 ∧ w 31 = 0) ∧
  ([.sent, .noAnswer, .notReady, .lineLost, .drumFault, .halted, .carriageFault, .aborted, .operatorStop,
      .mediaRemoved].map AttemptOutcome.code = [1, 2, 3, 4, 5, 6, 7, 8, 9, 10] ∧
    [.none, .bandLost, .stall, .slip, .overcurrent, .drumNotReady, .noIndex, .carriageNotReady, .scannerNotReady,
      .carriageEvent].map Detail.code = [0, 1, 2, 3, 4, 5, 6, 7, 8, 9] ∧
    [.onHook, .seizeWait, .dialing, .answerWait, .startTone, .readyWait, .phasing, .picture, .separator, .stopTone,
      .releaseGuard].map LineState.code = [0, 1, 2, 3, 4, 5, 6, 7, 8, 9, 10]) ∧
  (∀ (t : Nat) (log : Option (Nat × Nat)) (header : List Nat) (r : AttemptRecord) (u v : SlipUnit) (p : Slip),
    p =
      { record := r, seq := u.nextSeq, header := header
        flag := if u.queue.length < 8 then .printPending else .notPrinted } →
    v =
      { u with
        nextSeq := if u.nextSeq < 65535 then u.nextSeq + 1 else 1, lastComposed := u.nextSeq
        logList :=
          match log with
          | some (base, _) =>
            u.logList ++
              [{ seq := u.nextSeq
                 todo := p.logWords.mapIdx fun i x => { addr := base + 128 * u.logIndex + 4 * i, be := 15, data := x } }]
          | none => u.logList
        logIndex :=
          match log with
          | some (_, count) => if u.logIndex + 1 < count then u.logIndex + 1 else 0
          | none => u.logIndex } →
    (8 ≤ u.logList.length → u.compose t log header r = { u with lost := min (u.lost + 1) 65535 }) ∧
    (u.logList.length < 8 →
      (8 ≤ u.queue.length →
        u.compose t log header r = { v with unprinted := min (u.unprinted + 1) 65535 }) ∧
      (u.queue.length < 8 → u.printer ≠ .idle → u.compose t log header r = { v with queue := u.queue ++ [p] }) ∧
      (∀ c above, u.queue = [] → u.printer = .idle → u.txd = none → (p.output false)[0]? = some (c :: above) →
        u.compose t log header r =
          { v with
            queue := [p], printer := .printing, cursorLine := 0, cursorChar := 0, begun := !u.busy
            reprinting := false
            txd :=
              if u.busy = true then none
              else some { code := BitVec.ofNat 7 c, start := t, orphan := false } })))

/-! ## Records read from memory (12_memory_formats.md) -/

/-- R101 to R103, R123, R191: each field of a TCB and of a Directory entry is read within the bits that Memory
Formats gives it, and no other bit is looked at. A symbol count of 0 is taken as 1 and one above 20 as 20, a symbol
code above 10 is dialed as PAUSE, and a read that needs either correction is marked. -/
def Obligations.RecordsAreReadFieldByField : Prop :=
  (∀ (ws : List Word) (w : Nat → Nat) (b : Nat → Nat) (t : Tcb), w = (fun i => (ws.getD i 0).toNat) →
    b = (fun i => w (i / 4) / 256 ^ (i % 4) % 256) → t = readTcb ws →
    t.link = w 0 ∧ t.caption = w 1 ∧ t.start = w 2 % 65536 ∧ t.count = w 2 / 65536 ∧
    t.pitch = b 12 ∧ t.k = b 13 ∧ t.speedCode = b 14 ∧ t.bank = b 15 % 2 ∧
    (t.urgent = true ↔ b 15 / 2 % 2 = 1) ∧ (t.bypassTone = true ↔ b 15 / 4 % 2 = 1) ∧
    (t.testWedge = true ↔ b 15 / 8 % 2 = 1) ∧
    t.phasing = b 16 ∧ t.delay = b 17 ∧ t.window = b 18 ∧ t.retryLimit = b 19 % 16 ∧ t.destCount = b 19 / 16 ∧
    t.black = w 5 % 1024 ∧ t.white = w 5 / 1024 % 1024 ∧ t.retryInterval = w 5 / 1048576 ∧
    t.destList.length = 8 ∧ ∀ i < 8, t.destList[i]? = some (b (24 + i))) ∧
  (∀ (ws : List Word) (b : Nat → Nat) (n : Nat) (e : DirEntry),
    b = (fun i => (ws.getD (i / 4) 0).toNat / 256 ^ (i % 4) % 256) →
    n = (if b 0 = 0 then 1 else if 20 < b 0 then 20 else b 0) → e = readDirEntry ws →
    e.dial.length = n ∧
    (∀ i < n, e.dial[i]? = some (if b (1 + i) < 10 then .digit (b (1 + i)) else .pause)) ∧
    (e.corrected = true ↔ b 0 = 0 ∨ 20 < b 0 ∨ ∃ i < n, 10 < b (1 + i)) ∧
    e.name.length = 12 ∧ (∀ i < 12, e.name[i]? = some (b (24 + i))) ∧
    (e.noRetry = true ↔ b 36 % 2 = 1))

/-! ## The Memory Gate (09_the_memory_path.md) -/

/-- R75, R154, R160 to R162, R164: a host read is taken when the bus carries no other cycle: it touches the word
that holds its byte, or, in the Preview Window, the same word of the latched slot, the latch set by a read of the first
word; it is held while that word has a write in the posted-write buffer, or lies in a slot that is FILLING. The latched
slot is one that holds the highest line of the scanned frame; no slot is latched only when no slot holds a line of it.
Every other command, save RESET, leaves the read as it is while it is not held or its hold goes on; at the step's end a
read whose hold has ended is sorted again. Its data is memory as it stands when the word is read. Model's choices in it:
the bus carries one host cycle at a time (log entry 24), and the low two bits of an address are dropped (log entry
23). -/
def Obligations.HostReadsAndTheirData : Prop :=
  (∀ (s u : State) (addr : Addr) (a : Nat) (latch : Option Nat), s.inReset = false → s.gate.read = none →
    s.gate.waiting = none → a = addr.toNat - addr.toNat % 4 →
    ((∃ l, s.layout.inForce = some l ∧ l.previewBase ≤ a ∧ a < l.previewBase + 4) →
      latch = s.ring.previewSlot s.scan.current) →
    ((∀ l, s.layout.inForce = some l → a < l.previewBase ∨ l.previewBase + 4 ≤ a) → latch = s.ring.latch) →
    u = { s with ring := { s.ring with latch := latch } } →
    ∃ q t, exec (.hostRead addr) s = .next t ∧ u.ReadSorted a q ∧ t.gate.read = some q ∧
      State.Ends { u with gate := { s.gate with read := some q } } t) ∧
  (∀ (s : State),
    (∀ n, s.ring.previewSlot s.scan.current = some n →
      n < s.ring.slots.length ∧ (s.ring.slot n).frame = s.scan.current ∧
      (s.ring.slot n).state ∈ [.filled, .sending, .sent, .held] ∧
      ∀ m < s.ring.slots.length, (s.ring.slot m).frame = s.scan.current →
        (s.ring.slot m).state ∈ [.filled, .sending, .sent, .held] →
        (s.ring.slot m).line ≤ (s.ring.slot n).line) ∧
    (s.ring.previewSlot s.scan.current = none →
      ∀ m < s.ring.slots.length, (s.ring.slot m).frame = s.scan.current →
        (s.ring.slot m).state ∉ [.filled, .sending, .sent, .held])) ∧
  (∀ (s : State) (addr : Addr), s.inReset = false → s.gate.read ≠ none ∨ s.gate.waiting ≠ none →
    ∃ t, exec (.hostRead addr) s = .next t ∧ State.Ends s t) ∧
  (∀ (c : Instr) (s t : State), s.inReset = false → exec c s = .next t → t.inReset = false →
    (c = .hostReadData → s.gate.port ≠ some .hostRead) →
    (∀ addr, c = .hostRead addr → s.gate.read ≠ none ∨ s.gate.waiting ≠ none) →
    State.ReadSettled { t with gate := { t.gate with read := s.gate.read } } t) ∧
  (∀ (s : State) (r : HostRead), s.inReset = false → s.gate.port = some .hostRead → s.gate.read = some r →
    ∃ t, exec .hostReadData s = .next t ∧
      State.Ends
        { s with gate := { s.gate with port := none, read := none, readData := s.mem.word r.target } } t)

/-- R155, R157 to R159: a host write is dropped, and counted with its address and reason, when it is guarded,
for the first reason that covers its word; otherwise it joins the posted-write buffer, or waits when the buffer
is full. A second cycle while the bus carries one does nothing. Model's choices in it: the bus carries one host
cycle at a time (log entry 24), and the low two bits of an address are dropped (log entry 23). -/
def Obligations.HostWritesAreGuardedAndPosted : Prop :=
  (∀ (s : State) (addr : Addr) (data : Word) (be : ByteEnables) (a : Nat),
    s.inReset = false → s.gate.read = none → s.gate.waiting = none → a = addr.toNat - addr.toNat % 4 →
    (∀ why, s.firstGuard a why →
      ∃ t, exec (.hostWrite addr data be) s = .next t ∧
        State.Ends
          { s with
            gate :=
              { s.gate with
                dropped := min (s.gate.dropped + 1) 65535, droppedAddr := a, droppedReason := some why } } t) ∧
    ((∀ r, ¬ s.covered a r) → s.gate.buffer.length < 2 →
      ∃ t, exec (.hostWrite addr data be) s = .next t ∧
        State.Ends
          { s with gate := { s.gate with buffer := s.gate.buffer ++ [{ addr := a, data := data, be := be }] } } t) ∧
    ((∀ r, ¬ s.covered a r) → 2 ≤ s.gate.buffer.length →
      ∃ t, exec (.hostWrite addr data be) s = .next t ∧
        State.Ends { s with gate := { s.gate with waiting := some { addr := a, data := data, be := be } } } t)) ∧
  (∀ (s : State) (addr : Addr) (data : Word) (be : ByteEnables), s.inReset = false →
    s.gate.read ≠ none ∨ s.gate.waiting ≠ none →
    ∃ t, exec (.hostWrite addr data be) s = .next t ∧ State.Ends s t)

/-- R155, R156: a posted write drains to memory, the bytes its byte enables name and no others, and is then
examined: one to a Send entry's or a Return entry's action byte is handed to the Mailbox Unit, one to the Layout
Block's generation word or to the Profile Area to Layout and Profile, and any other to nobody. The waiting write
takes the room: it is checked against the guards as they stand at that moment, and is dropped or posted. Model's
choice in it: the lists of writes handed on and not yet acted on (log entry 12). -/
def Obligations.HostWritesDrain : Prop :=
  ∀ (s u : State) (w : HostWrite) (rest : List HostWrite) (sends rets : List MailboxWrite)
    (gens profiles : List LayoutWrite), s.inReset = false → s.gate.port = some .hostWrite →
    s.gate.buffer = w :: rest → s.HandedOn w sends rets gens profiles →
    u =
      { s with
        mem := s.mem.write { addr := w.addr, be := w.be, data := w.data }
        gate :=
          { s.gate with
            port := none, buffer := rest, toMailbox := s.gate.toMailbox ++ sends ++ rets
            toLayout := s.gate.toLayout ++ gens ++ profiles } } →
    (s.gate.waiting = none → ∃ t, exec .hostWriteDrain s = .next t ∧ State.Ends u t) ∧
    (∀ x, s.gate.waiting = some x →
      (∀ why, s.firstGuard x.addr why →
        ∃ t, exec .hostWriteDrain s = .next t ∧
          State.Ends
            { u with
              gate :=
                { u.gate with
                  waiting := none, dropped := min (s.gate.dropped + 1) 65535, droppedAddr := x.addr
                  droppedReason := some why } } t) ∧
      ((∀ r, ¬ s.covered x.addr r) → rest.length < 2 →
        ∃ t, exec .hostWriteDrain s = .next t ∧
          State.Ends { u with gate := { u.gate with buffer := rest ++ [x], waiting := none } } t))

/-- R37, R66, R144, R163 to R165: a memory port that stands free after a step finds no requester asking; one that a
step grants goes to the first requester that asks, in this order: a scan writer with twelve closed entries or
more, a send prefetch with at most four words buffered, the host with a read that is not held before its writes,
the scan writer, the send prefetch, the control requester and the Slip Log writer. A word in progress is not
preempted: until the command that reports it done it stays on the port, though its result may no longer be wanted.
The word that the scan writer asks for is that of ScanWordsReachMemory; the send prefetch asks for the first word of the
line picked that it has not read and that is still to be sent, as long as its buffer has room. Model's choices in it:
the requests are those that the command has left (log entry 40), and the prefetch passes over the words of positions
already due (log entry 34). -/
def Obligations.TheArbiterGrantsThePort : Prop :=
  (∀ (s : State) (n next word : Nat) (call : CallInfo) (l : Layout), s.ring.picked = some n → s.line.call = some call →
    s.layout.inForce = some l →
    next =
      (match s.drum.interval with
        | some i => if i < 16 then 0 else (i - 16) * call.k + s.line.slotsFallen
        | none => 0) →
    word = max s.ring.fetch (next / 4) →
    s.prefetchWord =
      if word < 60 * call.k ∧ s.ring.buffer.length < 16 then
        some (.prefetch (l.ringBase + 1456 * n + 16 + 4 * word) word true)
      else none) ∧
  (∀ s : State, s.ring.picked = none ∨ s.line.call = none → s.prefetchWord = none) ∧
  ∀ (s t : State) (order : List (Option PortWord)), step s = .next t → t.inReset = false →
    order =
      [ if 12 ≤ (t.scan.fifo.filter fun e => e.closed).length then t.scanRequest else none
      , if t.ring.buffer.length ≤ 4 then t.prefetchWord else none
      , if t.gate.read.any (fun r => decide (r.held = none)) = true then some .hostRead
        else if t.gate.buffer ≠ [] then some .hostWrite else none
      , t.scanRequest
      , t.prefetchWord
      , if t.gate.ops ≠ [] then some .control else none
      , if t.slips.logList.head?.any (fun x => !x.todo.isEmpty) = true then some .slipLog else none ] →
    (t.gate.port = none → ∀ r ∈ order, r = none) ∧
    (∀ w, t.gate.port = some w →
      (∃ v, s.gate.port = some v ∧ v.goesOnAs w) ∨
      (∃ before after, order = before ++ some w :: after ∧ ∀ r ∈ before, r = none)) ∧
    (∀ v, s.gate.port = some v → (∀ c q, s.pending = c :: q → v.endedBy c = false) →
      ∃ w, t.gate.port = some w ∧ v.goesOnAs w)

/-- R166, R174, R191, R192: while a layout is in force a step marks the Status Page words whose values it has changed;
the acceptance of a layout marks all sixty-four. With no requester left at the port, the Status Writer writes the
lowest-numbered marked word, which clears its mark: the word written is the Status Page word that the state shows,
laid out field by field as the table of Memory Formats gives it, each field saturated and every other bit 0. Model's
choices in it: the write is made at once (log entry 10), and what a field shows where the rules name no value or no
moment: the loop while the relay is open (22), the destination and the end cause after an attempt and a job have ended
(32, 33), a due time above the top value (39), the byte that goes with no tone (41) and the phasing turn count where no
further turn begins (43). -/
def Obligations.TheStatusWriterKeepsThePage : Prop :=
  (∀ (c : Instr) (s t : State) (l : Layout) (marked : Nat → Bool), exec c s = .next t → s.inReset = false →
    t.inReset = false → s.gate.marks.length = 64 → s.mem.wf = true → t.layout.inForce = some l →
    marked = (fun w =>
      (c == .loadProfileWord && decide (s.layout.load ≠ t.layout.load ∧ t.layout.lastResult = some .accepted)) ||
        s.gate.marks.getD w false || decide (s.statusWord w ≠ t.statusWord w)) →
    t.gate.marks.length = 64 ∧
    (t.gate.port ≠ none → ∀ w < 64, t.gate.marks.getD w false = marked w) ∧
    (t.gate.port = none → ∀ m < 64, marked m = true → (∀ w < m, marked w = false) →
      (∀ w < 64, t.gate.marks.getD w false = (marked w && decide (w ≠ m))) ∧
      t.mem.word (l.statusBase + 4 * m) = t.statusWord m)) ∧
  (∀ s t : State, s.pending = [] → s.jobs.requestsDue = none → step s = .next t → s.inReset = false →
    s.gate.marks.length = 64 → s.mem.wf = true → ∀ l m, s.layout.inForce = some l → t.gate.port = none → m < 64 →
    s.gate.marks[m]? = some true → (∀ w < m, s.gate.marks[w]? = some false) →
    t.gate.marks = s.gate.marks.set m false ∧ t.mem.word (l.statusBase + 4 * m) = s.statusWord m) ∧
  ∀ (s : State) (w : Nat), (s.statusWord w).toNat = fieldsValue (s.statusFields w)

/-- R138, R144, R165: the words of an operation of the control requester are carried out one by one, in order,
and an operation whose last word is done leaves the list; operations of one moment may enter the list in either
order where their issuers differ, each issuer's own in the order it made them; the history read is followed by the
write-back of the outcome, the time of day, the caption and the counts; the Slip Log's words are written in order, and
the last one completes the record. Model's choices in it: the order of one moment is the command's operand (log entry
8), and the results of each member but the last are an operation of their own, whose end has no command of its own (log
entry 38). -/
def Obligations.WordsAreCarriedOutInOrder : Prop :=
  (∀ (base ahead : Nat) (ops : List Op),
    List.Perm (Machine.slideLast base ahead ops) ops ∧
      (Machine.slideLast base ahead ops).take base = ops.take base ∧
      ∀ who : Issuer,
        (Machine.slideLast base ahead ops).filter (·.kind.issuer == who) = ops.filter (·.kind.issuer == who)) ∧
  (∀ (s : State) (kind : OpKind) (w : OpWord) (todo : List OpWord) (got : List Word) (rest : List Op),
    s.inReset = false → s.gate.port = some .control →
    s.gate.ops = { kind := kind, todo := w :: todo, got := got } :: rest → kind ≠ .profileRead →
    kind = .freeWrite ∨ kind = .historyWrite ∨ kind = .memberResults ∨ todo ≠ [] →
    ∃ t, exec .controlWordDone s = .next t ∧
      State.Ends
        { s with
          mem :=
            match w with
            | .wr x => s.mem.write x
            | .rd _ => s.mem
          gate :=
            { s.gate with
              port := none
              ops :=
                if todo = [] then rest
                else
                  { kind := kind, todo := todo
                    got :=
                      match w with
                      | .wr _ => got
                      | .rd a => got ++ [s.mem.word a] } :: rest } } t) ∧
  (∀ (s : State) (x ok bad outcome caption : Nat) (sent : Bool) (time : TimeOfDay) (got : List Word)
    (rest : List Op), s.inReset = false → s.gate.port = some .control →
    s.gate.ops = { kind := .historyRead sent outcome time caption, todo := [.rd x], got := got } :: rest →
    got.length = 3 → ok = (s.mem.word x).toNat % 65536 → bad = (s.mem.word x).toNat / 65536 →
    12 ≤ x → outcome < 256 →
    ∃ t, exec .historyReadDone s = .next t ∧
      State.Ends
        { s with
          gate :=
            { s.gate with
              port := none
              ops :=
                { kind := .historyWrite, got := []
                  todo :=
                    [.wr { addr := x - 12, be := 15, data := BitVec.ofNat 32 outcome },
                      .wr { addr := x - 8, be := 15, data := time.word },
                      .wr { addr := x - 4, be := 15, data := BitVec.ofNat 32 caption },
                      .wr
                        { addr := x, be := 15
                          data :=
                            if sent = true then BitVec.ofNat 32 (min (ok + 1) 65535 + 65536 * bad)
                            else BitVec.ofNat 32 (ok + 65536 * min (bad + 1) 65535) }] } :: rest } } t) ∧
  (∀ (s : State) (seq : Nat) (x : Access) (todo : List Access) (rest : List LogRecord), s.inReset = false →
    s.gate.port = some .slipLog → s.slips.logList = { seq := seq, todo := x :: todo } :: rest →
    ∃ t, exec .slipLogWordWritten s = .next t ∧
      State.Ends
        { s with
          mem := s.mem.write x
          gate := { s.gate with port := none }
          slips :=
            { s.slips with
              logList := if todo = [] then rest else { seq := seq, todo := todo } :: rest
              lastLogged := if todo = [] then seq else s.slips.lastLogged } } t)

/-! ## The mailboxes (11_mailboxes.md) -/

/-- R182, R183: a write to a Send entry's action byte notes the entry; a take of the entry at the take index
begins when it is noted, a layout is ACTIVE, the Backlog empty and no take in progress, and reads the entry's
two words. Model's choice in it: the list of writes handed on and not yet acted on (log entry 12). -/
def Obligations.NotedEntriesAreTaken : Prop :=
  (∀ (s : State) (e : Nat) (rest : List MailboxWrite), s.inReset = false →
    s.gate.toMailbox = .send e :: rest →
    ∃ t, exec .sendActionWrite s = .next t ∧
      State.Ends
        { s with
          mailbox :=
            { s.mailbox with noted := if e ∈ s.mailbox.noted then s.mailbox.noted else s.mailbox.noted ++ [e] }
          gate := { s.gate with toMailbox := rest } } t) ∧
  (∀ (s : State) (l : Layout) (e : Nat), s.inReset = false → s.layout.inForce = some l → e = s.mailbox.takeIndex →
    (e ∈ s.mailbox.noted → s.layout.load = none → s.mailbox.backlog = [] → s.mailbox.take = none →
      ∃ t, exec .takeStart s = .next t ∧
        State.Ends
          { s with
            mailbox :=
              { s.mailbox with
                take := some { entryAddr := l.sendBase + 8 * e, stale := false, phase := .reading } }
            gate :=
              { s.gate with
                ops := s.gate.ops ++
                  [{ kind := .sendRead e, got := []
                     todo := [.rd (l.sendBase + 8 * e), .rd (l.sendBase + 8 * e + 4)] }] } } t) ∧
    (e ∉ s.mailbox.noted ∨ s.layout.load ≠ none ∨ s.mailbox.backlog ≠ [] ∨ s.mailbox.take ≠ none →
      ∃ t, exec .takeStart s = .next t ∧ State.Ends s t))

/-- R109, R129, R165, R185 to R188: a host's FREE frees a Return slot that is FULL or FULL_QUIET, any other write changes
nothing; the Backlog's completions are then posted, oldest first, while the slot at the post index is FREE, and its
emptying may take a job out of MOUNT_WAIT and begin its first attempt, whose Directory read and the postings of the same
moment enter the control requester's list in either order. The last word of a posting makes its slot FULL or
FULL_QUIET, and ATTN follows the table. Model's choices in it: the list of writes handed on and not yet acted on (log
entry 12), and that the order of one moment is the command's operand (log entry 8). -/
def Obligations.ReturnSlotsAreFreedAndFilled : Prop :=
  (∀ (s u : State) (n : Nat) (action : Byte) (rest : List MailboxWrite) (ahead : Nat), s.inReset = false →
    s.gate.toMailbox = .ret n action :: rest →
    (action ≠ 0 ∨ s.mailbox.slots[n]? ∉ [some .full, some .fullQuiet] →
        s.mailbox.backlog = [] ∨ s.mailbox.slots[s.mailbox.postIndex]? ≠ some .free →
      ∃ t, exec (.returnFreeWrite ahead) s = .next t ∧
        State.Ends { s with gate := { s.gate with toMailbox := rest } } t) ∧
    (action = 0 → s.mailbox.slots[n]? ∈ [some .full, some .fullQuiet] →
        u =
          { s with
            mailbox :=
              { s.mailbox with
                slots := s.mailbox.slots.set n .free, backlog := []
                attn := (s.mailbox.slots.set n .free).any (· == .full) }
            gate := { s.gate with toMailbox := rest } } →
      ∃ t v ps, exec (.returnFreeWrite ahead) s = .next t ∧ u.BacklogPosted s.mailbox.backlog v ∧
        v.gate.ops = s.gate.ops ++ ps ∧
        (s.mailbox.backlog = [] ∨ v.mailbox.backlog ≠ [] ∨ s.jobs.state ≠ .mountWait ∨ s.jobs.mount ≠ .fresh →
          State.Ends v t) ∧
        (s.mailbox.backlog ≠ [] → v.mailbox.backlog = [] → s.jobs.state = .mountWait → s.jobs.mount = .fresh →
          ∃ x, State.Looked { v with jobs := { v.jobs with state := .attempting, mountLamp := false } } x ∧
            (x.gate.ops = v.gate.ops → State.Ends x t) ∧
            ∀ q, x.gate.ops = v.gate.ops ++ [q] →
              State.Ends
                { x with
                  gate :=
                    { x.gate with
                      ops := s.gate.ops ++ ps.take (ps.length - ahead) ++ q :: ps.drop (ps.length - ahead) } } t))) ∧
  (∀ (s : State) (x : Access) (got : List Word) (rest : List Op) (slot : Option Nat) (quiet : Bool),
    s.inReset = false → s.gate.port = some .control →
    s.gate.ops = { kind := .posting slot quiet, todo := [.wr x], got := got } :: rest →
    (∀ n, slot = some n →
      ∃ t, exec .returnPostingDone s = .next t ∧
        State.Ends
          { s with
            mem := s.mem.write x
            mailbox :=
              { s.mailbox with
                slots := s.mailbox.slots.set n (if quiet = true then .fullQuiet else .full)
                attn := (s.mailbox.slots.set n (if quiet = true then .fullQuiet else .full)).any (· == .full) }
            gate := { s.gate with port := none, ops := rest, toMailbox := t.gate.toMailbox } } t ∧
        ∀ w, w ∈ t.gate.toMailbox ↔ w ∈ s.gate.toMailbox ∧ ∀ b, w ≠ .ret n b) ∧
    (slot = none →
      ∃ t, exec .returnPostingDone s = .next t ∧
        State.Ends
          { s with mem := s.mem.write x, gate := { s.gate with port := none, ops := rest } } t))

/-! ## Layout and Profile (10_layout_and_profile.md) -/

/-- R170, R171: a write to the generation word begins a load, or sets the reload flag while one is in progress.
The Layout Block's checks are made in order; the first failure refuses the load, and a reload flag that is set
begins the next one. A block that passes is the candidate, whose Profile Area is read next. Each of its words gives the
value that the table of The Layout Block names. Model's choice in it: the list of writes handed on and not yet acted on
(log entry 12). -/
def Obligations.LoadsAndTheirChecks : Prop :=
  (∀ (s : State) (rest : List LayoutWrite), s.inReset = false → s.gate.toLayout = .generation :: rest →
    (s.layout.load = none →
      ∃ t, exec .layoutGenerationWrite s = .next t ∧
        State.Ends
          { s with
            layout := { s.layout with load := some .block }
            gate :=
              { s.gate with
                toLayout := rest
                ops := s.gate.ops ++
                  [{ kind := .blockRead, todo := (List.range 16).map fun i => .rd (0x400 + 4 * i)
                     got := [] }] } } t) ∧
    (s.layout.load ≠ none →
      ∃ t, exec .layoutGenerationWrite s = .next t ∧
        State.Ends
          { s with
            layout := { s.layout with reload := true }
            gate := { s.gate with toLayout := rest } } t)) ∧
  (∀ (s : State) (x : Nat) (got : List Word) (rest : List Op) (l : Layout) (version : Nat)
    (word : Nat → Nat) (windows : List (Nat × Nat)) (refused : LoadReason → Prop),
    s.inReset = false → s.gate.port = some .control →
    s.gate.ops = { kind := .blockRead, todo := [.rd x], got := got } :: rest →
    word = (fun i => ((got ++ [s.mem.word x]).getD i 0).toNat) → version = word 0 →
    l =
      { generation := (got ++ [s.mem.word x]).getD 1 0, sendBase := word 2, sendCount := word 3
        returnBase := word 4, returnCount := word 5, ringBase := word 6, ringCount := word 7
        profileBase := word 8, logBase := word 9, logCount := word 10, statusBase := word 11
        directoryBase := word 12, directoryCount := word 13, previewBase := word 14, memoryTop := word 15 } →
    windows =
      [(l.sendBase, 8 * l.sendCount), (l.returnBase, 16 * l.returnCount), (l.ringBase, 1456 * l.ringCount),
        (l.profileBase, 1024), (l.logBase, 128 * l.logCount), (l.statusBase, 256),
        (l.directoryBase, 64 * l.directoryCount), (l.previewBase, 1456)] →
    (∀ why, refused why ↔
      ∃ t, exec .layoutBlockRead s = .next t ∧
        State.Ends
          { s with
            layout :=
              { s.layout with
                generationRead := l.generation
                load := if s.layout.reload = true then some .block else none, reload := false
                lastResult := some .refusedInvalid, lastReason := some why
                refusals := min (s.layout.refusals + 1) 65535 }
            gate :=
              { s.gate with
                port := none
                ops :=
                  if s.layout.reload = true then
                    rest ++
                      [{ kind := .blockRead, todo := (List.range 16).map fun i => .rd (0x400 + 4 * i)
                         got := [] }]
                  else rest } } t) →
    (version ≠ 1 → refused .badVersion) ∧
    (version = 1 →
      (l.sendCount < 4 ∨ 64 < l.sendCount ∨ l.returnCount < 4 ∨ 64 < l.returnCount ∨ l.ringCount < 4 ∨
          32 < l.ringCount ∨ l.logCount < 8 ∨ 256 < l.logCount ∨ l.directoryCount < 1 ∨
          32 < l.directoryCount → refused .badCount) ∧
      (4 ≤ l.sendCount ∧ l.sendCount ≤ 64 ∧ 4 ≤ l.returnCount ∧ l.returnCount ≤ 64 ∧ 4 ≤ l.ringCount ∧
          l.ringCount ≤ 32 ∧ 8 ≤ l.logCount ∧ l.logCount ≤ 256 ∧ 1 ≤ l.directoryCount ∧
          l.directoryCount ≤ 32 →
        (l.memoryTop % 16 ≠ 0 ∨ (∃ w ∈ windows, w.1 % 16 ≠ 0) → refused .misaligned) ∧
        (l.memoryTop % 16 = 0 → (∀ w ∈ windows, w.1 % 16 = 0) →
          (0x1000000 < l.memoryTop ∨ (∃ w ∈ windows, l.memoryTop < w.1 + w.2) → refused .outsideTop) ∧
          (l.memoryTop ≤ 0x1000000 → (∀ w ∈ windows, w.1 + w.2 ≤ l.memoryTop) →
            (¬ List.Pairwise (fun a b => a.1 + a.2 ≤ b.1 ∨ b.1 + b.2 ≤ a.1) ((0x400, 64) :: windows) →
              refused .overlap) ∧
            (List.Pairwise (fun a b => a.1 + a.2 ≤ b.1 ∨ b.1 + b.2 ≤ a.1) ((0x400, 64) :: windows) →
              ∃ t, exec .layoutBlockRead s = .next t ∧
                State.Ends
                  { s with
                    layout :=
                      { s.layout with
                        generationRead := l.generation, load := some (.profile l) }
                    gate :=
                      { s.gate with
                        port := none
                        ops := rest ++
                          [{ kind := .profileRead
                             todo := (List.range 134).map fun i => .rd (l.profileBase + 4 * i)
                             got := [] }] } } t))))))

/-- R172 to R174, R189: each word of the candidate's Profile Area is captured or refused as it arrives, but for a
word that holds no value or lies in a guarded tone bank. The last one ends the load: ACCEPTED, and every block takes
up the layout, when no job is current or queued and the Backlog is empty; else REFUSED_BUSY. A posting under way at
the acceptance completes into the old Return Mailbox, and a take under way ends there. A reload flag that is set
begins a further load at the end. Model's choices in it: hand-ons that a new layout clears (log entry 12), and what
a policy turned OFF stops (log entry 16). -/
def Obligations.ProfileWordsOfALoad : Prop :=
  ∀ (s u : State) (x w : Nat) (todo : List OpWord) (got : List Word) (rest more : List Op) (l : Layout)
    (data : Word) (p : Profile) (d : Drum) (ly : LayoutUnit), s.inReset = false → s.gate.port = some .control →
    s.gate.ops = { kind := .profileRead, todo := .rd x :: todo, got := got } :: rest →
    w = got.length → data = s.mem.word x → s.layout.load = some (.profile l) → s.WordOfLoad w data p d ly →
    u =
      { s with
        profile := p, drum := d, layout := ly
        gate :=
          { s.gate with
            port := none
            ops :=
              if todo = [] then rest
              else { kind := .profileRead, todo := todo, got := got ++ [data] } :: rest } } →
    more =
      (if s.layout.reload = true then
        [{ kind := .blockRead, todo := (List.range 16).map fun i => .rd (0x400 + 4 * i), got := [] }]
      else []) →
    (todo ≠ [] → ∃ t, exec .loadProfileWord s = .next t ∧ State.Ends u t) ∧
    (todo = [] → s.jobs.state ≠ .idle ∨ s.jobs.queue ≠ [] ∨ s.mailbox.backlog ≠ [] →
      ∃ t, exec .loadProfileWord s = .next t ∧
        State.Ends
          { u with
            layout :=
              { ly with
                load := if s.layout.reload = true then some .block else none, reload := false
                lastResult := some .refusedBusy, lastReason := some .busy
                refusals := min (s.layout.refusals + 1) 65535 }
            gate := { u.gate with ops := rest ++ more } } t) ∧
    (todo = [] → s.jobs.state = .idle → s.jobs.queue = [] → s.mailbox.backlog = [] →
      ∃ t, exec .loadProfileWord s = .next t ∧
        State.Ends
          { u with
            layout :=
              { ly with
                inForce := some l, load := if s.layout.reload = true then some .block else none, reload := false
                lastResult := some .accepted, lastReason := none }
            gate :=
              { u.gate with
                guards :=
                  [some { base := l.statusBase, length := 256, reason := .statusPage, bank := 0 },
                    some { base := l.previewBase, length := 1456, reason := .preview, bank := 0 }] ++
                    s.gate.guards.drop 2
                toMailbox := [], marks := List.replicate 64 true
                ops :=
                  (rest.map fun op =>
                    match op.kind with
                    | .posting _ quiet => { op with kind := .posting none quiet }
                    | _ => op) ++ more }
            ring :=
              { s.ring with
                slots := List.replicate l.ringCount { state := .free, frame := 0, line := 0 }
                writeIndex := 0, sendFrame := 0, sendLine := 0, picked := none, firstSend := false
                marked := false, repeatQueue := [], latch := none, buffer := [], fetch := 0 }
            mailbox :=
              { s.mailbox with
                takeIndex := 0, noted := [], slots := List.replicate l.returnCount .free, postIndex := 0
                attn := false, take := s.mailbox.take.map fun k => { k with stale := true } }
            slips := { s.slips with logIndex := 0 } } t)

/-- R19, R141, R176, R177, R179, R180: a drained write to the Profile Area is captured when all four of its bytes are
enabled, its word has even parity and its field is in range, into the value that its word holds and no other; the first
check that fails refuses it, counted and recorded by its kind. A write to a word that holds no value does nothing. The
action words set the clock, clear the drum's faults and clear the counters; a drum that leaves LATCHED takes the SPIN it
has recorded, and the Job Controller looks for the next attempt. Model's choices in it: the list of writes handed on
(log entry 12), and what a policy turned OFF stops (log entry 16). -/
def Obligations.CapturesAndActionWords : Prop :=
  ∀ (s u : State) (w ones : Nat) (data : Word) (be : ByteEnables) (rest : List LayoutWrite), s.inReset = false →
    s.gate.toLayout = .profile w data be :: rest → u = { s with gate := { s.gate with toLayout := rest } } →
    ones = ((List.range 32).filter fun i => data.getLsbD i).length →
    ∀ command : Instr, command =
        (if w = 136 then .clockSet else if w = 137 then .drumClear else if w = 138 then .counterClear
          else .profileCapture) →
    (holdsValue w ∨ w ∈ [136, 137, 138] →
      (be ≠ 15 →
        ∃ t, exec command s = .next t ∧
          State.Ends
            { u with
              layout :=
                { s.layout with
                  lastRefusedWord := some w, lastRefusalKind := some .partialBytes
                  partials := min (s.layout.partials + 1) 65535 } } t) ∧
      (be = 15 → ones % 2 = 1 →
        ∃ t, exec command s = .next t ∧
          State.Ends
            { u with
              layout :=
                { s.layout with
                  lastRefusedWord := some w, lastRefusalKind := some .parity
                  parities := min (s.layout.parities + 1) 65535 } } t)) ∧
    (¬ holdsValue w → w ∉ [136, 137, 138] → ∃ t, exec .profileCapture s = .next t ∧ State.Ends u t) ∧
    (∀ c ∈ [Instr.profileCapture, .clockSet, .drumClear, .counterClear], c ≠ command →
      ∃ t, exec c s = .next t ∧ State.Ends s t) ∧
    (holdsValue w → s.profile.Captured w data (s.profile.capture w data)) ∧
    (be = 15 → ones % 2 = 0 →
      ((holdsValue w ∧ s.profile.capture w data = none) ∨
          (w = 136 ∧ (23 < data.toNat / 65536 % 256 ∨ 59 < data.toNat / 256 % 256 ∨ 59 < data.toNat % 256)) ∨
          ((w = 137 ∨ w = 138) ∧ data.toNat % 2147483648 ≠ 1) →
        ∃ t, exec command s = .next t ∧
          State.Ends
            { u with
              layout :=
                { s.layout with
                  lastRefusedWord := some w, lastRefusalKind := some .range
                  ranges := min (s.layout.ranges + 1) 65535 } } t) ∧
      (∀ p, holdsValue w → s.profile.capture w data = some p →
        ∃ t d, exec .profileCapture s = .next t ∧
          s.drum.Watched s.profile.drum p.drum s.now d ∧ State.Ends { u with profile := p, drum := d } t) ∧
      (∀ hours minutes seconds, w = 136 → hours = data.toNat / 65536 % 256 → minutes = data.toNat / 256 % 256 →
          seconds = data.toNat % 256 → hours ≤ 23 → minutes ≤ 59 → seconds ≤ 59 →
        ∃ t, exec .clockSet s = .next t ∧
          State.Ends
            { u with
              clock :=
                { s.clock with
                  time := { hours := hours, minutes := minutes, seconds := seconds, isSet := true } } } t) ∧
      (w = 137 → data.toNat % 2147483648 = 1 →
        (s.drum.state ≠ .latched →
          ∃ t, exec .drumClear s = .next t ∧
            State.Ends
              { u with
                drum :=
                  { s.drum with
                    flagStall := false, flagSlip := false, flagOvercurrent := false, retryCount := 0 } } t) ∧
        (∀ d, s.drum.state = .latched →
            d =
              { s.drum with
                flagStall := false, flagSlip := false, flagOvercurrent := false, retryCount := 0
                state := .stopped, duty := 0, brake := false, slipRun := 0, ocRun := 0
                stallTimer := none, spinUp := none, rest := none, sampleStart := none, sampleCount := 0
                closedSample := none, measured := 0 } →
          ∃ t e x, exec .drumClear s = .next t ∧ (s.drum.spinRequest = none → e = d) ∧
            (∀ v, s.drum.spinRequest = some v → Drum.Spun s.profile.drum s.now v d e) ∧
            State.Looked { u with drum := e } x ∧ State.Ends x t)) ∧
      (w = 138 → data.toNat % 2147483648 = 1 →
        ∃ t, exec .counterClear s = .next t ∧
          State.Ends
            { u with
              drum :=
                { s.drum with stallEvents := 0, slipEvents := 0, overcurrentEvents := 0, turnErrors := 0 }
              scan := { s.scan with stalls := 0, overruns := 0, holds := 0 }
              ring := { s.ring with gaps := 0, starves := 0, grants := 0, refusals := 0, lastRefusal := none }
              jobs := { s.jobs with refusals := 0, lastRefusal := none, directoryFaults := 0 }
              slips := { s.slips with unprinted := 0, reprints := 0, lost := 0 }
              gate := { u.gate with dropped := 0, droppedReason := none }
              layout :=
                { s.layout with
                  refusals := 0, partials := 0, parities := 0, ranges := 0, lastRefusedWord := none
                  lastRefusalKind := none } } t))

/-! ## Reset (09_the_memory_path.md, R168; 10_layout_and_profile.md, R170) -/

/-- R21, R30, R43, R55, R77, R99, R122, R153, R168, R169, R181, R189: what RESET leaves in every block, from every
state: the values the rules state, memory as the last completed word left it, and the levels of the inputs. Model's
choices in it: the count of the carrier generator is the crystal since a stamp (log entry 1), the levels of the
inputs (log entry 5), the values of what the rules give no reset value (log entry 21), and the word in progress that
completes without being acted on (log entry 26). -/
def Obligations.ResetLeavesTheStatedValues : Prop :=
  ∀ s : State,
    ∃ t, exec .reset s = .next t ∧ t.inReset = true ∧ t.pending = s.pending ∧ t.crystal = s.crystal ∧
      t.drum =
        { indexArmed := false, interval := none, synced := false, lenLast := 0, lenPrev := 0, lastTach := none
          turnErrors := 0, sampleStart := none, sampleCount := 0, closedSample := none, measured := 0
          state := .stopped, duty := 0, brake := false, target := none, spinRequest := none, ref := 0
          integral := 0, inBandCount := 0, outOfBandRun := 0, rampMode := .linear, spinUp := none
          stallTimer := none, rampTick := none, wait := none, rest := none, slipRun := 0, ocRun := 0
          retryCount := 0, flagStall := false, flagSlip := false, flagOvercurrent := false, stallEvents := 0
          slipEvents := 0, overcurrentEvents := 0, bandLostSignal := false, slipDue := false
          overcurrentDue := false, lossDue := false, stallDue := false, spinUpDue := false
          pwm := { duty := 0, start := 0, tripped := false } } ∧
      t.carriage =
        { state := .unhomed, position := 0, homed := false, target := none, pitch := none, stepsDue := 0
          homingSteps := 0, nextStep := none, dirAway := false, home := s.carriage.home, limit := s.carriage.limit
          arrivalEvent := false, truncationEvent := false, faultEvent := false } ∧
      t.scan =
        { state := .idle, lamp := false, warm := none, frames := [], current := 0, nextLine := 0, line := none
          lastPair := none, pair := none, blackRefs := [], whiteRefs := [], refTaken := false, fifo := []
          header := { frame := 0, line := 0, black := 0, white := 0, heldRefs := false, overrun := false, size := 0 }
          sig := 1, arrivalNoted := false, linesDone := 0, truncating := false, stalls := 0, overruns := 0
          holds := 0 } ∧
      t.ring =
        { slots := [], writeIndex := 0, sendFrame := 0, sendLine := 0, picked := none, firstSend := false
          marked := false, repeatQueue := [], frameDone := [], latch := none, buffer := [], fetch := 0, gaps := 0
          starves := 0, grants := 0, refusals := 0, lastRefusal := none } ∧
      t.line =
        { state := .onHook, relay := false, sendLamp := false, active := false, snapshot := none, fBlack := 0
          fWhite := 0, pairDefaulted := false, hBlack := 0, hWhite := 0, hStart := 0, hStop := 0, call := none
          dialCursor := 0, dialPhase := none, breaksLeft := 0, dialTimer := none, seizeTimer := none
          answerTimer := none, startToneTimer := none, readyTimer := none, stopToneTimer := none
          guardTimer := none, loop := s.line.loop, loopTimer := none, loopShown := false
          monitor := { windowEnd := none, band := none, count := 0, recognised := false }
          toneDue := none, lastTone := none
          carrier := { mode := .still, level := false, half := 0, since := s.crystal, pending := none }
          turnCount := 0, slotsFallen := 0, lastLevel := 255, sendSig := 1, grantsUsed := 0, lastOutcome := none
          lastDetail := .none } ∧
      t.record =
        { destSlot := 0, dirIndex := 0, name := [], attemptNo := 0
          startTime := { hours := 0, minutes := 0, seconds := 0, isSet := false }
          startUptime := 0, frameCount := 0, captions := [], frames := [], repeatsServed := 0, repeatsRefused := 0
          starves := 0, gaps := 0, answered := false, outcome := none, detail := .none, endingState := .onHook
          endUptime := 0 } ∧
      t.jobs =
        { state := .idle, queue := [], current := none, endCause := none
          mount := (if s.jobs.clampClosed = true then .fresh else .opened)
          clampClosed := s.jobs.clampClosed, mountLamp := false, progress := [], retryList := [], scanSigs := []
          lineAtRest := true, startInFlight := none, attemptInProgress := false, noRetry := false
          parkTimer := none, currentDest := none, requestsDue := none, refusals := 0, lastRefusal := none
          directoryFaults := 0 } ∧
      t.slips =
        { nextSeq := 1, queue := [], logList := [], logIndex := 0, printer := .idle, cursorLine := 0
          cursorChar := 0, begun := false, reprinting := false, txd := none, busy := s.slips.busy
          paper := s.slips.paper, paperTimer := none, lastComposed := 0, lastPrinted := 0, lastLogged := 0
          unprinted := 0, reprints := 0, lost := 0 } ∧
      t.clock =
        { time := { hours := 0, minutes := 0, seconds := 0, isSet := false }, uptime := 0, nextTick := none } ∧
      t.profile = Profile.default ∧
      t.layout =
        { inForce := none, load := none, reload := false, generationRead := 0, lastResult := none
          lastReason := none, refusals := 0, partials := 0, parities := 0, ranges := 0, lastRefusedWord := none
          lastRefusalKind := none } ∧
      t.mailbox =
        { takeIndex := 0, noted := [], take := none, slots := [], postIndex := 0, backlog := [], attn := false
          resetSeen := true } ∧
      t.gate =
        { buffer := [], waiting := s.gate.waiting, guards := List.replicate 12 none, read := t.gate.read
          readData := t.gate.readData, port := none, marks := List.replicate 64 false, dropped := 0
          droppedAddr := 0, droppedReason := none, ops := [], toMailbox := [], toLayout := [] } ∧
      (∀ r, s.gate.read = some r →
        (s.gate.port = some .hostRead → t.gate.read = none ∧ t.gate.readData = s.mem.word r.target) ∧
        (s.gate.port ≠ some .hostRead →
          t.gate.read = some { addr := r.addr, target := r.addr, held := none } ∧
          t.gate.readData = s.gate.readData)) ∧
      (s.gate.read = none → t.gate.read = none ∧ t.gate.readData = s.gate.readData) ∧
      (s.gate.port = none ∨ s.gate.port = some .hostRead ∨ (∃ a n b, s.gate.port = some (.prefetch a n b)) →
        t.mem = s.mem) ∧
      (∀ x live, s.gate.port = some (.scanEntry x live) ∨ s.gate.port = some (.scanHeader x live) →
        t.mem = s.mem.write x) ∧
      (∀ w rest, s.gate.port = some .hostWrite → s.gate.buffer = w :: rest →
        t.mem = s.mem.write { addr := w.addr, be := w.be, data := w.data }) ∧
      (∀ kind x todo got rest, s.gate.port = some .control →
        s.gate.ops = { kind := kind, todo := .wr x :: todo, got := got } :: rest → t.mem = s.mem.write x) ∧
      (∀ kind a todo got rest, s.gate.port = some .control →
        s.gate.ops = { kind := kind, todo := .rd a :: todo, got := got } :: rest → t.mem = s.mem) ∧
      (∀ seq x todo rest, s.gate.port = some .slipLog →
        s.slips.logList = { seq := seq, todo := x :: todo } :: rest → t.mem = s.mem.write x)

/-- R140, R150, R155, R168, R170: the release of reset accepts the write that waits, lets a read that waits ask
for the port, examines SLIP_PAPER, starts the clock's second and begins the first load. MODEL'S CHOICE (log
entry 13): the PWM period begins at the release. -/
def Obligations.TheReleaseBeginsTheFirstLoad : Prop :=
  ∀ s : State, s.inReset = true → s.layout.inForce = none → s.gate.buffer = [] →
    (∀ g ∈ s.gate.guards, g = none) →
    ∃ t, exec .resetRelease s = .next t ∧
      State.Ends
        { s with
          inReset := false
          clock := { s.clock with nextTick := some (s.now + 1000000) }
          drum := { s.drum with pwm := { s.drum.pwm with start := s.crystal } }
          slips :=
            if s.slips.paper = true then s.slips
            else
              { s.slips with
                printer := .paperOut, paperTimer := none
                txd := s.slips.txd.map fun ch => { ch with orphan := true } }
          layout := { s.layout with load := some .block }
          gate :=
            { s.gate with
              buffer := s.gate.waiting.toList, waiting := none, read := t.gate.read
              ops := s.gate.ops ++
                [{ kind := .blockRead, todo := (List.range 16).map fun i => .rd (0x400 + 4 * i)
                   got := [] }] } } t ∧
      (∀ r, s.gate.read = some r → s.gate.waiting = none →
        t.gate.read = some { addr := r.addr, target := r.addr, held := none })

/-! ## Invariants -/

/-- Every step keeps memory in its canonical form. The form is the model's own (log entry 4). -/
def Obligations.EveryStepKeepsMemoryCanonical : Prop :=
  ∀ s t : State, step s = .next t → s.mem.wf = true → t.mem.wf = true

/-- R79, R96, R106, R121, R140, R166, R176, R177, R188; 09, the Gate's table: every step keeps the line relay closed
exactly outside ON_HOOK and RELEASE_GUARD, with the SEND lamp lit while it is, the MOUNT lamp lit exactly in
MOUNT_WAIT, at most sixteen jobs queued, ATTN asserted exactly while some Return slot is FULL, at most two writes in
the posted-write buffer, a mark for each of the sixty-four Status Page words, the uptime within 32 bits, and every
value of the Profile Shadow within the range that its word has. MODEL'S CHOICE (log entries 12 and 25): every step
takes the events that it gives, so that between two commands no event of the Carriage Drive or of the Regulator
waits, and only a command given so, or one that gives a carriage-fault, leaves the requests of an end cause on their
way. -/
def Obligations.EveryStepKeepsTheStateLegal : Prop :=
  ∀ s t : State, step s = .next t →
    (s.relayLegal = true ∧ s.sendLampLegal = true → t.relayLegal = true ∧ t.sendLampLegal = true) ∧
    (s.lampLegal = true → t.lampLegal = true) ∧ (s.jobs.queue.length ≤ 16 → t.jobs.queue.length ≤ 16) ∧
    (s.attnLegal = true → t.attnLegal = true) ∧ (s.bufferLegal = true → t.bufferLegal = true) ∧
    (s.gate.marks.length = 64 → t.gate.marks.length = 64) ∧
    (s.uptimeLegal = true → t.uptimeLegal = true) ∧ (s.profile.Legal → t.profile.Legal) ∧
    (s.noSignals = true → t.noSignals = true) ∧
    (s.jobs.requestsDue = none → (∀ c q, s.pending = c :: q → leavesRequests c = false) → t.jobs.requestsDue = none)

/-- R60, R110, R124, R129, R134, R187: every step keeps at most one slot of the Line Ring FILLING, that of the line in
progress, and at most one SENDING, the one picked in PICTURE; at most one destination ATTEMPTING, that of the start in
flight or of the attempt in progress, and the Retry List holding the destinations in RETRY_WAIT, each once; and at
most sixteen completions in the Backlog, with room left for those of the take in progress and of the job that runs
or finishes. -/
def Obligations.EveryStepKeepsTheTables : Prop :=
  ∀ s t : State, step s = .next t →
    (s.SlotsLegal →
      t.SlotsLegal ∧ atMostOne .filling t.ring.slots = true ∧ atMostOne .sending t.ring.slots = true) ∧
    (s.AttemptsLegal →
      t.AttemptsLegal ∧
      (∀ (m n : Nat) (d e : Dest), t.jobs.progress[m]? = some d → t.jobs.progress[n]? = some e →
        d.progress = .attempting → e.progress = .attempting → m = n) ∧
      (s.BacklogLegal → t.BacklogLegal ∧ t.mailbox.backlog.length ≤ 16))

/-- The invariants hold at reset. -/
def Obligations.TheInvariantsHoldAtReset : Prop :=
  State.reset.mem.wf = true ∧ State.reset.relayLegal = true ∧ State.reset.sendLampLegal = true ∧
    State.reset.lampLegal = true ∧ State.reset.jobs.queue.length ≤ 16 ∧
    State.reset.attnLegal = true ∧ State.reset.bufferLegal = true ∧ State.reset.gate.marks.length = 64 ∧
    State.reset.uptimeLegal = true ∧ State.reset.profile.Legal ∧ State.reset.noEvents = true ∧
    State.reset.SlotsLegal ∧ State.reset.AttemptsLegal ∧ State.reset.BacklogLegal
end

