-- ==== Sys2Proof/Laws/State.lean ====
section
/-! SUPPORT. One lemma per field per update of the State, each true by rfl: a field that an update does not
write is what it was, and the one it writes is the value given. -/

namespace Sys2Proof.Machine

variable (s : State)

/-! ## withDrum -/

@[simp] theorem State.withDrum_crystal (x : Drum) : (s.withDrum x).crystal = s.crystal := rfl
@[simp] theorem State.withDrum_inReset (x : Drum) : (s.withDrum x).inReset = s.inReset := rfl
@[simp] theorem State.withDrum_drum (x : Drum) : (s.withDrum x).drum = x := rfl
@[simp] theorem State.withDrum_carriage (x : Drum) : (s.withDrum x).carriage = s.carriage := rfl
@[simp] theorem State.withDrum_scan (x : Drum) : (s.withDrum x).scan = s.scan := rfl
@[simp] theorem State.withDrum_ring (x : Drum) : (s.withDrum x).ring = s.ring := rfl
@[simp] theorem State.withDrum_line (x : Drum) : (s.withDrum x).line = s.line := rfl
@[simp] theorem State.withDrum_record (x : Drum) : (s.withDrum x).record = s.record := rfl
@[simp] theorem State.withDrum_jobs (x : Drum) : (s.withDrum x).jobs = s.jobs := rfl
@[simp] theorem State.withDrum_slips (x : Drum) : (s.withDrum x).slips = s.slips := rfl
@[simp] theorem State.withDrum_clock (x : Drum) : (s.withDrum x).clock = s.clock := rfl
@[simp] theorem State.withDrum_profile (x : Drum) : (s.withDrum x).profile = s.profile := rfl
@[simp] theorem State.withDrum_layout (x : Drum) : (s.withDrum x).layout = s.layout := rfl
@[simp] theorem State.withDrum_mailbox (x : Drum) : (s.withDrum x).mailbox = s.mailbox := rfl
@[simp] theorem State.withDrum_gate (x : Drum) : (s.withDrum x).gate = s.gate := rfl
@[simp] theorem State.withDrum_mem (x : Drum) : (s.withDrum x).mem = s.mem := rfl
@[simp] theorem State.withDrum_pending (x : Drum) : (s.withDrum x).pending = s.pending := rfl

/-! ## withCarriage -/

@[simp] theorem State.withCarriage_crystal (x : Carriage) : (s.withCarriage x).crystal = s.crystal := rfl
@[simp] theorem State.withCarriage_inReset (x : Carriage) : (s.withCarriage x).inReset = s.inReset := rfl
@[simp] theorem State.withCarriage_drum (x : Carriage) : (s.withCarriage x).drum = s.drum := rfl
@[simp] theorem State.withCarriage_carriage (x : Carriage) : (s.withCarriage x).carriage = x := rfl
@[simp] theorem State.withCarriage_scan (x : Carriage) : (s.withCarriage x).scan = s.scan := rfl
@[simp] theorem State.withCarriage_ring (x : Carriage) : (s.withCarriage x).ring = s.ring := rfl
@[simp] theorem State.withCarriage_line (x : Carriage) : (s.withCarriage x).line = s.line := rfl
@[simp] theorem State.withCarriage_record (x : Carriage) : (s.withCarriage x).record = s.record := rfl
@[simp] theorem State.withCarriage_jobs (x : Carriage) : (s.withCarriage x).jobs = s.jobs := rfl
@[simp] theorem State.withCarriage_slips (x : Carriage) : (s.withCarriage x).slips = s.slips := rfl
@[simp] theorem State.withCarriage_clock (x : Carriage) : (s.withCarriage x).clock = s.clock := rfl
@[simp] theorem State.withCarriage_profile (x : Carriage) : (s.withCarriage x).profile = s.profile := rfl
@[simp] theorem State.withCarriage_layout (x : Carriage) : (s.withCarriage x).layout = s.layout := rfl
@[simp] theorem State.withCarriage_mailbox (x : Carriage) : (s.withCarriage x).mailbox = s.mailbox := rfl
@[simp] theorem State.withCarriage_gate (x : Carriage) : (s.withCarriage x).gate = s.gate := rfl
@[simp] theorem State.withCarriage_mem (x : Carriage) : (s.withCarriage x).mem = s.mem := rfl
@[simp] theorem State.withCarriage_pending (x : Carriage) : (s.withCarriage x).pending = s.pending := rfl

/-! ## withScan -/

@[simp] theorem State.withScan_crystal (x : Scan) : (s.withScan x).crystal = s.crystal := rfl
@[simp] theorem State.withScan_inReset (x : Scan) : (s.withScan x).inReset = s.inReset := rfl
@[simp] theorem State.withScan_drum (x : Scan) : (s.withScan x).drum = s.drum := rfl
@[simp] theorem State.withScan_carriage (x : Scan) : (s.withScan x).carriage = s.carriage := rfl
@[simp] theorem State.withScan_scan (x : Scan) : (s.withScan x).scan = x := rfl
@[simp] theorem State.withScan_ring (x : Scan) : (s.withScan x).ring = s.ring := rfl
@[simp] theorem State.withScan_line (x : Scan) : (s.withScan x).line = s.line := rfl
@[simp] theorem State.withScan_record (x : Scan) : (s.withScan x).record = s.record := rfl
@[simp] theorem State.withScan_jobs (x : Scan) : (s.withScan x).jobs = s.jobs := rfl
@[simp] theorem State.withScan_slips (x : Scan) : (s.withScan x).slips = s.slips := rfl
@[simp] theorem State.withScan_clock (x : Scan) : (s.withScan x).clock = s.clock := rfl
@[simp] theorem State.withScan_profile (x : Scan) : (s.withScan x).profile = s.profile := rfl
@[simp] theorem State.withScan_layout (x : Scan) : (s.withScan x).layout = s.layout := rfl
@[simp] theorem State.withScan_mailbox (x : Scan) : (s.withScan x).mailbox = s.mailbox := rfl
@[simp] theorem State.withScan_gate (x : Scan) : (s.withScan x).gate = s.gate := rfl
@[simp] theorem State.withScan_mem (x : Scan) : (s.withScan x).mem = s.mem := rfl
@[simp] theorem State.withScan_pending (x : Scan) : (s.withScan x).pending = s.pending := rfl

/-! ## withRing -/

@[simp] theorem State.withRing_crystal (x : Ring) : (s.withRing x).crystal = s.crystal := rfl
@[simp] theorem State.withRing_inReset (x : Ring) : (s.withRing x).inReset = s.inReset := rfl
@[simp] theorem State.withRing_drum (x : Ring) : (s.withRing x).drum = s.drum := rfl
@[simp] theorem State.withRing_carriage (x : Ring) : (s.withRing x).carriage = s.carriage := rfl
@[simp] theorem State.withRing_scan (x : Ring) : (s.withRing x).scan = s.scan := rfl
@[simp] theorem State.withRing_ring (x : Ring) : (s.withRing x).ring = x := rfl
@[simp] theorem State.withRing_line (x : Ring) : (s.withRing x).line = s.line := rfl
@[simp] theorem State.withRing_record (x : Ring) : (s.withRing x).record = s.record := rfl
@[simp] theorem State.withRing_jobs (x : Ring) : (s.withRing x).jobs = s.jobs := rfl
@[simp] theorem State.withRing_slips (x : Ring) : (s.withRing x).slips = s.slips := rfl
@[simp] theorem State.withRing_clock (x : Ring) : (s.withRing x).clock = s.clock := rfl
@[simp] theorem State.withRing_profile (x : Ring) : (s.withRing x).profile = s.profile := rfl
@[simp] theorem State.withRing_layout (x : Ring) : (s.withRing x).layout = s.layout := rfl
@[simp] theorem State.withRing_mailbox (x : Ring) : (s.withRing x).mailbox = s.mailbox := rfl
@[simp] theorem State.withRing_gate (x : Ring) : (s.withRing x).gate = s.gate := rfl
@[simp] theorem State.withRing_mem (x : Ring) : (s.withRing x).mem = s.mem := rfl
@[simp] theorem State.withRing_pending (x : Ring) : (s.withRing x).pending = s.pending := rfl

/-! ## withLine -/

@[simp] theorem State.withLine_crystal (x : Line) : (s.withLine x).crystal = s.crystal := rfl
@[simp] theorem State.withLine_inReset (x : Line) : (s.withLine x).inReset = s.inReset := rfl
@[simp] theorem State.withLine_drum (x : Line) : (s.withLine x).drum = s.drum := rfl
@[simp] theorem State.withLine_carriage (x : Line) : (s.withLine x).carriage = s.carriage := rfl
@[simp] theorem State.withLine_scan (x : Line) : (s.withLine x).scan = s.scan := rfl
@[simp] theorem State.withLine_ring (x : Line) : (s.withLine x).ring = s.ring := rfl
@[simp] theorem State.withLine_line (x : Line) : (s.withLine x).line = x := rfl
@[simp] theorem State.withLine_record (x : Line) : (s.withLine x).record = s.record := rfl
@[simp] theorem State.withLine_jobs (x : Line) : (s.withLine x).jobs = s.jobs := rfl
@[simp] theorem State.withLine_slips (x : Line) : (s.withLine x).slips = s.slips := rfl
@[simp] theorem State.withLine_clock (x : Line) : (s.withLine x).clock = s.clock := rfl
@[simp] theorem State.withLine_profile (x : Line) : (s.withLine x).profile = s.profile := rfl
@[simp] theorem State.withLine_layout (x : Line) : (s.withLine x).layout = s.layout := rfl
@[simp] theorem State.withLine_mailbox (x : Line) : (s.withLine x).mailbox = s.mailbox := rfl
@[simp] theorem State.withLine_gate (x : Line) : (s.withLine x).gate = s.gate := rfl
@[simp] theorem State.withLine_mem (x : Line) : (s.withLine x).mem = s.mem := rfl
@[simp] theorem State.withLine_pending (x : Line) : (s.withLine x).pending = s.pending := rfl

/-! ## withRecord -/

@[simp] theorem State.withRecord_crystal (x : AttemptRecord) : (s.withRecord x).crystal = s.crystal := rfl
@[simp] theorem State.withRecord_inReset (x : AttemptRecord) : (s.withRecord x).inReset = s.inReset := rfl
@[simp] theorem State.withRecord_drum (x : AttemptRecord) : (s.withRecord x).drum = s.drum := rfl
@[simp] theorem State.withRecord_carriage (x : AttemptRecord) : (s.withRecord x).carriage = s.carriage := rfl
@[simp] theorem State.withRecord_scan (x : AttemptRecord) : (s.withRecord x).scan = s.scan := rfl
@[simp] theorem State.withRecord_ring (x : AttemptRecord) : (s.withRecord x).ring = s.ring := rfl
@[simp] theorem State.withRecord_line (x : AttemptRecord) : (s.withRecord x).line = s.line := rfl
@[simp] theorem State.withRecord_record (x : AttemptRecord) : (s.withRecord x).record = x := rfl
@[simp] theorem State.withRecord_jobs (x : AttemptRecord) : (s.withRecord x).jobs = s.jobs := rfl
@[simp] theorem State.withRecord_slips (x : AttemptRecord) : (s.withRecord x).slips = s.slips := rfl
@[simp] theorem State.withRecord_clock (x : AttemptRecord) : (s.withRecord x).clock = s.clock := rfl
@[simp] theorem State.withRecord_profile (x : AttemptRecord) : (s.withRecord x).profile = s.profile := rfl
@[simp] theorem State.withRecord_layout (x : AttemptRecord) : (s.withRecord x).layout = s.layout := rfl
@[simp] theorem State.withRecord_mailbox (x : AttemptRecord) : (s.withRecord x).mailbox = s.mailbox := rfl
@[simp] theorem State.withRecord_gate (x : AttemptRecord) : (s.withRecord x).gate = s.gate := rfl
@[simp] theorem State.withRecord_mem (x : AttemptRecord) : (s.withRecord x).mem = s.mem := rfl
@[simp] theorem State.withRecord_pending (x : AttemptRecord) : (s.withRecord x).pending = s.pending := rfl

/-! ## withJobs -/

@[simp] theorem State.withJobs_crystal (x : Jobs) : (s.withJobs x).crystal = s.crystal := rfl
@[simp] theorem State.withJobs_inReset (x : Jobs) : (s.withJobs x).inReset = s.inReset := rfl
@[simp] theorem State.withJobs_drum (x : Jobs) : (s.withJobs x).drum = s.drum := rfl
@[simp] theorem State.withJobs_carriage (x : Jobs) : (s.withJobs x).carriage = s.carriage := rfl
@[simp] theorem State.withJobs_scan (x : Jobs) : (s.withJobs x).scan = s.scan := rfl
@[simp] theorem State.withJobs_ring (x : Jobs) : (s.withJobs x).ring = s.ring := rfl
@[simp] theorem State.withJobs_line (x : Jobs) : (s.withJobs x).line = s.line := rfl
@[simp] theorem State.withJobs_record (x : Jobs) : (s.withJobs x).record = s.record := rfl
@[simp] theorem State.withJobs_jobs (x : Jobs) : (s.withJobs x).jobs = x := rfl
@[simp] theorem State.withJobs_slips (x : Jobs) : (s.withJobs x).slips = s.slips := rfl
@[simp] theorem State.withJobs_clock (x : Jobs) : (s.withJobs x).clock = s.clock := rfl
@[simp] theorem State.withJobs_profile (x : Jobs) : (s.withJobs x).profile = s.profile := rfl
@[simp] theorem State.withJobs_layout (x : Jobs) : (s.withJobs x).layout = s.layout := rfl
@[simp] theorem State.withJobs_mailbox (x : Jobs) : (s.withJobs x).mailbox = s.mailbox := rfl
@[simp] theorem State.withJobs_gate (x : Jobs) : (s.withJobs x).gate = s.gate := rfl
@[simp] theorem State.withJobs_mem (x : Jobs) : (s.withJobs x).mem = s.mem := rfl
@[simp] theorem State.withJobs_pending (x : Jobs) : (s.withJobs x).pending = s.pending := rfl

/-! ## withSlips -/

@[simp] theorem State.withSlips_crystal (x : SlipUnit) : (s.withSlips x).crystal = s.crystal := rfl
@[simp] theorem State.withSlips_inReset (x : SlipUnit) : (s.withSlips x).inReset = s.inReset := rfl
@[simp] theorem State.withSlips_drum (x : SlipUnit) : (s.withSlips x).drum = s.drum := rfl
@[simp] theorem State.withSlips_carriage (x : SlipUnit) : (s.withSlips x).carriage = s.carriage := rfl
@[simp] theorem State.withSlips_scan (x : SlipUnit) : (s.withSlips x).scan = s.scan := rfl
@[simp] theorem State.withSlips_ring (x : SlipUnit) : (s.withSlips x).ring = s.ring := rfl
@[simp] theorem State.withSlips_line (x : SlipUnit) : (s.withSlips x).line = s.line := rfl
@[simp] theorem State.withSlips_record (x : SlipUnit) : (s.withSlips x).record = s.record := rfl
@[simp] theorem State.withSlips_jobs (x : SlipUnit) : (s.withSlips x).jobs = s.jobs := rfl
@[simp] theorem State.withSlips_slips (x : SlipUnit) : (s.withSlips x).slips = x := rfl
@[simp] theorem State.withSlips_clock (x : SlipUnit) : (s.withSlips x).clock = s.clock := rfl
@[simp] theorem State.withSlips_profile (x : SlipUnit) : (s.withSlips x).profile = s.profile := rfl
@[simp] theorem State.withSlips_layout (x : SlipUnit) : (s.withSlips x).layout = s.layout := rfl
@[simp] theorem State.withSlips_mailbox (x : SlipUnit) : (s.withSlips x).mailbox = s.mailbox := rfl
@[simp] theorem State.withSlips_gate (x : SlipUnit) : (s.withSlips x).gate = s.gate := rfl
@[simp] theorem State.withSlips_mem (x : SlipUnit) : (s.withSlips x).mem = s.mem := rfl
@[simp] theorem State.withSlips_pending (x : SlipUnit) : (s.withSlips x).pending = s.pending := rfl

/-! ## withClock -/

@[simp] theorem State.withClock_crystal (x : Clock) : (s.withClock x).crystal = s.crystal := rfl
@[simp] theorem State.withClock_inReset (x : Clock) : (s.withClock x).inReset = s.inReset := rfl
@[simp] theorem State.withClock_drum (x : Clock) : (s.withClock x).drum = s.drum := rfl
@[simp] theorem State.withClock_carriage (x : Clock) : (s.withClock x).carriage = s.carriage := rfl
@[simp] theorem State.withClock_scan (x : Clock) : (s.withClock x).scan = s.scan := rfl
@[simp] theorem State.withClock_ring (x : Clock) : (s.withClock x).ring = s.ring := rfl
@[simp] theorem State.withClock_line (x : Clock) : (s.withClock x).line = s.line := rfl
@[simp] theorem State.withClock_record (x : Clock) : (s.withClock x).record = s.record := rfl
@[simp] theorem State.withClock_jobs (x : Clock) : (s.withClock x).jobs = s.jobs := rfl
@[simp] theorem State.withClock_slips (x : Clock) : (s.withClock x).slips = s.slips := rfl
@[simp] theorem State.withClock_clock (x : Clock) : (s.withClock x).clock = x := rfl
@[simp] theorem State.withClock_profile (x : Clock) : (s.withClock x).profile = s.profile := rfl
@[simp] theorem State.withClock_layout (x : Clock) : (s.withClock x).layout = s.layout := rfl
@[simp] theorem State.withClock_mailbox (x : Clock) : (s.withClock x).mailbox = s.mailbox := rfl
@[simp] theorem State.withClock_gate (x : Clock) : (s.withClock x).gate = s.gate := rfl
@[simp] theorem State.withClock_mem (x : Clock) : (s.withClock x).mem = s.mem := rfl
@[simp] theorem State.withClock_pending (x : Clock) : (s.withClock x).pending = s.pending := rfl

/-! ## withProfile -/

@[simp] theorem State.withProfile_crystal (x : Profile) : (s.withProfile x).crystal = s.crystal := rfl
@[simp] theorem State.withProfile_inReset (x : Profile) : (s.withProfile x).inReset = s.inReset := rfl
@[simp] theorem State.withProfile_drum (x : Profile) : (s.withProfile x).drum = s.drum := rfl
@[simp] theorem State.withProfile_carriage (x : Profile) : (s.withProfile x).carriage = s.carriage := rfl
@[simp] theorem State.withProfile_scan (x : Profile) : (s.withProfile x).scan = s.scan := rfl
@[simp] theorem State.withProfile_ring (x : Profile) : (s.withProfile x).ring = s.ring := rfl
@[simp] theorem State.withProfile_line (x : Profile) : (s.withProfile x).line = s.line := rfl
@[simp] theorem State.withProfile_record (x : Profile) : (s.withProfile x).record = s.record := rfl
@[simp] theorem State.withProfile_jobs (x : Profile) : (s.withProfile x).jobs = s.jobs := rfl
@[simp] theorem State.withProfile_slips (x : Profile) : (s.withProfile x).slips = s.slips := rfl
@[simp] theorem State.withProfile_clock (x : Profile) : (s.withProfile x).clock = s.clock := rfl
@[simp] theorem State.withProfile_profile (x : Profile) : (s.withProfile x).profile = x := rfl
@[simp] theorem State.withProfile_layout (x : Profile) : (s.withProfile x).layout = s.layout := rfl
@[simp] theorem State.withProfile_mailbox (x : Profile) : (s.withProfile x).mailbox = s.mailbox := rfl
@[simp] theorem State.withProfile_gate (x : Profile) : (s.withProfile x).gate = s.gate := rfl
@[simp] theorem State.withProfile_mem (x : Profile) : (s.withProfile x).mem = s.mem := rfl
@[simp] theorem State.withProfile_pending (x : Profile) : (s.withProfile x).pending = s.pending := rfl

/-! ## withLayout -/

@[simp] theorem State.withLayout_crystal (x : LayoutUnit) : (s.withLayout x).crystal = s.crystal := rfl
@[simp] theorem State.withLayout_inReset (x : LayoutUnit) : (s.withLayout x).inReset = s.inReset := rfl
@[simp] theorem State.withLayout_drum (x : LayoutUnit) : (s.withLayout x).drum = s.drum := rfl
@[simp] theorem State.withLayout_carriage (x : LayoutUnit) : (s.withLayout x).carriage = s.carriage := rfl
@[simp] theorem State.withLayout_scan (x : LayoutUnit) : (s.withLayout x).scan = s.scan := rfl
@[simp] theorem State.withLayout_ring (x : LayoutUnit) : (s.withLayout x).ring = s.ring := rfl
@[simp] theorem State.withLayout_line (x : LayoutUnit) : (s.withLayout x).line = s.line := rfl
@[simp] theorem State.withLayout_record (x : LayoutUnit) : (s.withLayout x).record = s.record := rfl
@[simp] theorem State.withLayout_jobs (x : LayoutUnit) : (s.withLayout x).jobs = s.jobs := rfl
@[simp] theorem State.withLayout_slips (x : LayoutUnit) : (s.withLayout x).slips = s.slips := rfl
@[simp] theorem State.withLayout_clock (x : LayoutUnit) : (s.withLayout x).clock = s.clock := rfl
@[simp] theorem State.withLayout_profile (x : LayoutUnit) : (s.withLayout x).profile = s.profile := rfl
@[simp] theorem State.withLayout_layout (x : LayoutUnit) : (s.withLayout x).layout = x := rfl
@[simp] theorem State.withLayout_mailbox (x : LayoutUnit) : (s.withLayout x).mailbox = s.mailbox := rfl
@[simp] theorem State.withLayout_gate (x : LayoutUnit) : (s.withLayout x).gate = s.gate := rfl
@[simp] theorem State.withLayout_mem (x : LayoutUnit) : (s.withLayout x).mem = s.mem := rfl
@[simp] theorem State.withLayout_pending (x : LayoutUnit) : (s.withLayout x).pending = s.pending := rfl

/-! ## withMailbox -/

@[simp] theorem State.withMailbox_crystal (x : Mailbox) : (s.withMailbox x).crystal = s.crystal := rfl
@[simp] theorem State.withMailbox_inReset (x : Mailbox) : (s.withMailbox x).inReset = s.inReset := rfl
@[simp] theorem State.withMailbox_drum (x : Mailbox) : (s.withMailbox x).drum = s.drum := rfl
@[simp] theorem State.withMailbox_carriage (x : Mailbox) : (s.withMailbox x).carriage = s.carriage := rfl
@[simp] theorem State.withMailbox_scan (x : Mailbox) : (s.withMailbox x).scan = s.scan := rfl
@[simp] theorem State.withMailbox_ring (x : Mailbox) : (s.withMailbox x).ring = s.ring := rfl
@[simp] theorem State.withMailbox_line (x : Mailbox) : (s.withMailbox x).line = s.line := rfl
@[simp] theorem State.withMailbox_record (x : Mailbox) : (s.withMailbox x).record = s.record := rfl
@[simp] theorem State.withMailbox_jobs (x : Mailbox) : (s.withMailbox x).jobs = s.jobs := rfl
@[simp] theorem State.withMailbox_slips (x : Mailbox) : (s.withMailbox x).slips = s.slips := rfl
@[simp] theorem State.withMailbox_clock (x : Mailbox) : (s.withMailbox x).clock = s.clock := rfl
@[simp] theorem State.withMailbox_profile (x : Mailbox) : (s.withMailbox x).profile = s.profile := rfl
@[simp] theorem State.withMailbox_layout (x : Mailbox) : (s.withMailbox x).layout = s.layout := rfl
@[simp] theorem State.withMailbox_mailbox (x : Mailbox) : (s.withMailbox x).mailbox = x := rfl
@[simp] theorem State.withMailbox_gate (x : Mailbox) : (s.withMailbox x).gate = s.gate := rfl
@[simp] theorem State.withMailbox_mem (x : Mailbox) : (s.withMailbox x).mem = s.mem := rfl
@[simp] theorem State.withMailbox_pending (x : Mailbox) : (s.withMailbox x).pending = s.pending := rfl

/-! ## withGate -/

@[simp] theorem State.withGate_crystal (x : Gate) : (s.withGate x).crystal = s.crystal := rfl
@[simp] theorem State.withGate_inReset (x : Gate) : (s.withGate x).inReset = s.inReset := rfl
@[simp] theorem State.withGate_drum (x : Gate) : (s.withGate x).drum = s.drum := rfl
@[simp] theorem State.withGate_carriage (x : Gate) : (s.withGate x).carriage = s.carriage := rfl
@[simp] theorem State.withGate_scan (x : Gate) : (s.withGate x).scan = s.scan := rfl
@[simp] theorem State.withGate_ring (x : Gate) : (s.withGate x).ring = s.ring := rfl
@[simp] theorem State.withGate_line (x : Gate) : (s.withGate x).line = s.line := rfl
@[simp] theorem State.withGate_record (x : Gate) : (s.withGate x).record = s.record := rfl
@[simp] theorem State.withGate_jobs (x : Gate) : (s.withGate x).jobs = s.jobs := rfl
@[simp] theorem State.withGate_slips (x : Gate) : (s.withGate x).slips = s.slips := rfl
@[simp] theorem State.withGate_clock (x : Gate) : (s.withGate x).clock = s.clock := rfl
@[simp] theorem State.withGate_profile (x : Gate) : (s.withGate x).profile = s.profile := rfl
@[simp] theorem State.withGate_layout (x : Gate) : (s.withGate x).layout = s.layout := rfl
@[simp] theorem State.withGate_mailbox (x : Gate) : (s.withGate x).mailbox = s.mailbox := rfl
@[simp] theorem State.withGate_gate (x : Gate) : (s.withGate x).gate = x := rfl
@[simp] theorem State.withGate_mem (x : Gate) : (s.withGate x).mem = s.mem := rfl
@[simp] theorem State.withGate_pending (x : Gate) : (s.withGate x).pending = s.pending := rfl

/-! ## withMem -/

@[simp] theorem State.withMem_crystal (x : Memory) : (s.withMem x).crystal = s.crystal := rfl
@[simp] theorem State.withMem_inReset (x : Memory) : (s.withMem x).inReset = s.inReset := rfl
@[simp] theorem State.withMem_drum (x : Memory) : (s.withMem x).drum = s.drum := rfl
@[simp] theorem State.withMem_carriage (x : Memory) : (s.withMem x).carriage = s.carriage := rfl
@[simp] theorem State.withMem_scan (x : Memory) : (s.withMem x).scan = s.scan := rfl
@[simp] theorem State.withMem_ring (x : Memory) : (s.withMem x).ring = s.ring := rfl
@[simp] theorem State.withMem_line (x : Memory) : (s.withMem x).line = s.line := rfl
@[simp] theorem State.withMem_record (x : Memory) : (s.withMem x).record = s.record := rfl
@[simp] theorem State.withMem_jobs (x : Memory) : (s.withMem x).jobs = s.jobs := rfl
@[simp] theorem State.withMem_slips (x : Memory) : (s.withMem x).slips = s.slips := rfl
@[simp] theorem State.withMem_clock (x : Memory) : (s.withMem x).clock = s.clock := rfl
@[simp] theorem State.withMem_profile (x : Memory) : (s.withMem x).profile = s.profile := rfl
@[simp] theorem State.withMem_layout (x : Memory) : (s.withMem x).layout = s.layout := rfl
@[simp] theorem State.withMem_mailbox (x : Memory) : (s.withMem x).mailbox = s.mailbox := rfl
@[simp] theorem State.withMem_gate (x : Memory) : (s.withMem x).gate = s.gate := rfl
@[simp] theorem State.withMem_mem (x : Memory) : (s.withMem x).mem = x := rfl
@[simp] theorem State.withMem_pending (x : Memory) : (s.withMem x).pending = s.pending := rfl

/-! ## withPending -/

@[simp] theorem State.withPending_crystal (x : List Instr) : (s.withPending x).crystal = s.crystal := rfl
@[simp] theorem State.withPending_inReset (x : List Instr) : (s.withPending x).inReset = s.inReset := rfl
@[simp] theorem State.withPending_drum (x : List Instr) : (s.withPending x).drum = s.drum := rfl
@[simp] theorem State.withPending_carriage (x : List Instr) : (s.withPending x).carriage = s.carriage := rfl
@[simp] theorem State.withPending_scan (x : List Instr) : (s.withPending x).scan = s.scan := rfl
@[simp] theorem State.withPending_ring (x : List Instr) : (s.withPending x).ring = s.ring := rfl
@[simp] theorem State.withPending_line (x : List Instr) : (s.withPending x).line = s.line := rfl
@[simp] theorem State.withPending_record (x : List Instr) : (s.withPending x).record = s.record := rfl
@[simp] theorem State.withPending_jobs (x : List Instr) : (s.withPending x).jobs = s.jobs := rfl
@[simp] theorem State.withPending_slips (x : List Instr) : (s.withPending x).slips = s.slips := rfl
@[simp] theorem State.withPending_clock (x : List Instr) : (s.withPending x).clock = s.clock := rfl
@[simp] theorem State.withPending_profile (x : List Instr) : (s.withPending x).profile = s.profile := rfl
@[simp] theorem State.withPending_layout (x : List Instr) : (s.withPending x).layout = s.layout := rfl
@[simp] theorem State.withPending_mailbox (x : List Instr) : (s.withPending x).mailbox = s.mailbox := rfl
@[simp] theorem State.withPending_gate (x : List Instr) : (s.withPending x).gate = s.gate := rfl
@[simp] theorem State.withPending_mem (x : List Instr) : (s.withPending x).mem = s.mem := rfl
@[simp] theorem State.withPending_pending (x : List Instr) : (s.withPending x).pending = x := rfl

end Sys2Proof.Machine
end

