-- ==== Sys2Proof/Laws/Frames.lean ====
section
/-! SUPPORT. The frame of every operation on the State: one lemma per operation says which blocks it leaves
as they are, so that no later proof unfolds an operation to find that a block it does not name is unchanged. -/

namespace Sys2Proof.Machine

@[simp] theorem State.mapDrum_eq (f : Drum → Drum) (s : State) : s.mapDrum f = s.withDrum (f s.drum) := rfl
@[simp] theorem State.lossTaken_eq (s : State) :
    s.lossTaken = s.withDrum { s.drum with bandLostSignal := false } := rfl
@[simp] theorem State.mapCarriage_eq (f : Carriage → Carriage) (s : State) :
    s.mapCarriage f = s.withCarriage (f s.carriage) := rfl
@[simp] theorem State.mapLine_eq (f : Line → Line) (s : State) : s.mapLine f = s.withLine (f s.line) := rfl
@[simp] theorem State.mapJobs_eq (f : Jobs → Jobs) (s : State) : s.mapJobs f = s.withJobs (f s.jobs) := rfl
@[simp] theorem State.mapSlips_eq (f : SlipUnit → SlipUnit) (s : State) :
    s.mapSlips f = s.withSlips (f s.slips) := rfl

/-! ## The Memory Gate -/

@[simp] theorem State.acceptWrite_frame (w : HostWrite) (s : State) :
    (s.acceptWrite w).crystal = s.crystal ∧ (s.acceptWrite w).inReset = s.inReset ∧ (s.acceptWrite
      w).drum = s.drum ∧ (s.acceptWrite w).carriage = s.carriage ∧ (s.acceptWrite w).scan = s.scan ∧
      (s.acceptWrite w).ring = s.ring ∧ (s.acceptWrite w).line = s.line ∧ (s.acceptWrite w).record =
      s.record ∧ (s.acceptWrite w).jobs = s.jobs ∧ (s.acceptWrite w).slips = s.slips ∧
      (s.acceptWrite w).clock = s.clock ∧ (s.acceptWrite w).profile = s.profile ∧ (s.acceptWrite
      w).layout = s.layout ∧ (s.acceptWrite w).mailbox = s.mailbox ∧ (s.acceptWrite w).mem = s.mem ∧
      (s.acceptWrite w).pending = s.pending := by
  unfold State.acceptWrite
  (repeat' split) <;> simp

@[simp] theorem State.acceptWaiting_frame (s : State) :
    s.acceptWaiting.crystal = s.crystal ∧ s.acceptWaiting.inReset = s.inReset ∧ s.acceptWaiting.drum
      = s.drum ∧ s.acceptWaiting.carriage = s.carriage ∧ s.acceptWaiting.scan = s.scan ∧
      s.acceptWaiting.ring = s.ring ∧ s.acceptWaiting.line = s.line ∧ s.acceptWaiting.record =
      s.record ∧ s.acceptWaiting.jobs = s.jobs ∧ s.acceptWaiting.slips = s.slips ∧
      s.acceptWaiting.clock = s.clock ∧ s.acceptWaiting.profile = s.profile ∧ s.acceptWaiting.layout
      = s.layout ∧ s.acceptWaiting.mailbox = s.mailbox ∧ s.acceptWaiting.mem = s.mem ∧
      s.acceptWaiting.pending = s.pending := by
  unfold State.acceptWaiting
  split <;> simp

@[simp] theorem State.resortRead_frame (s : State) :
    s.resortRead.crystal = s.crystal ∧ s.resortRead.inReset = s.inReset ∧ s.resortRead.drum = s.drum
      ∧ s.resortRead.carriage = s.carriage ∧ s.resortRead.scan = s.scan ∧ s.resortRead.ring = s.ring
      ∧ s.resortRead.line = s.line ∧ s.resortRead.record = s.record ∧ s.resortRead.jobs = s.jobs ∧
      s.resortRead.slips = s.slips ∧ s.resortRead.clock = s.clock ∧ s.resortRead.profile = s.profile
      ∧ s.resortRead.layout = s.layout ∧ s.resortRead.mailbox = s.mailbox ∧ s.resortRead.mem = s.mem
      ∧ s.resortRead.pending = s.pending := by
  unfold State.resortRead
  (repeat' split) <;> simp

@[simp] theorem State.setLatch_frame (s : State) :
    s.setLatch.crystal = s.crystal ∧ s.setLatch.inReset = s.inReset ∧ s.setLatch.drum = s.drum ∧
      s.setLatch.carriage = s.carriage ∧ s.setLatch.scan = s.scan ∧ s.setLatch.line = s.line ∧
      s.setLatch.record = s.record ∧ s.setLatch.jobs = s.jobs ∧ s.setLatch.slips = s.slips ∧
      s.setLatch.clock = s.clock ∧ s.setLatch.profile = s.profile ∧ s.setLatch.layout = s.layout ∧
      s.setLatch.mailbox = s.mailbox ∧ s.setLatch.gate = s.gate ∧ s.setLatch.mem = s.mem ∧
      s.setLatch.pending = s.pending := by
  simp [State.setLatch]

@[simp] theorem State.takeRead_frame (a : Nat) (s : State) :
    (s.takeRead a).crystal = s.crystal ∧ (s.takeRead a).inReset = s.inReset ∧ (s.takeRead a).drum =
      s.drum ∧ (s.takeRead a).carriage = s.carriage ∧ (s.takeRead a).scan = s.scan ∧ (s.takeRead
      a).line = s.line ∧ (s.takeRead a).record = s.record ∧ (s.takeRead a).jobs = s.jobs ∧
      (s.takeRead a).slips = s.slips ∧ (s.takeRead a).clock = s.clock ∧ (s.takeRead a).profile =
      s.profile ∧ (s.takeRead a).layout = s.layout ∧ (s.takeRead a).mailbox = s.mailbox ∧
      (s.takeRead a).mem = s.mem ∧ (s.takeRead a).pending = s.pending := by
  unfold State.takeRead
  split <;> simp

@[simp] theorem State.drain_frame (w : HostWrite) (rest : List HostWrite) (s : State) :
    (s.drain w rest).crystal = s.crystal ∧ (s.drain w rest).inReset = s.inReset ∧ (s.drain w
      rest).drum = s.drum ∧ (s.drain w rest).carriage = s.carriage ∧ (s.drain w rest).scan = s.scan
      ∧ (s.drain w rest).ring = s.ring ∧ (s.drain w rest).line = s.line ∧ (s.drain w rest).record =
      s.record ∧ (s.drain w rest).jobs = s.jobs ∧ (s.drain w rest).slips = s.slips ∧ (s.drain w
      rest).clock = s.clock ∧ (s.drain w rest).profile = s.profile ∧ (s.drain w rest).layout =
      s.layout ∧ (s.drain w rest).mailbox = s.mailbox ∧ (s.drain w rest).pending = s.pending := by
  simp [State.drain]

@[simp] theorem State.issue_frame (kind : OpKind) (todo : List OpWord) (s : State) :
    (s.issue kind todo).crystal = s.crystal ∧ (s.issue kind todo).inReset = s.inReset ∧ (s.issue
      kind todo).drum = s.drum ∧ (s.issue kind todo).carriage = s.carriage ∧ (s.issue kind
      todo).scan = s.scan ∧ (s.issue kind todo).ring = s.ring ∧ (s.issue kind todo).line = s.line ∧
      (s.issue kind todo).record = s.record ∧ (s.issue kind todo).jobs = s.jobs ∧ (s.issue kind
      todo).slips = s.slips ∧ (s.issue kind todo).clock = s.clock ∧ (s.issue kind todo).profile =
      s.profile ∧ (s.issue kind todo).layout = s.layout ∧ (s.issue kind todo).mailbox = s.mailbox ∧
      (s.issue kind todo).mem = s.mem ∧ (s.issue kind todo).pending = s.pending := by
  simp [State.issue]

@[simp] theorem State.issueAll_frame (ops : List (OpKind × List OpWord)) (s : State) :
    (s.issueAll ops).crystal = s.crystal ∧ (s.issueAll ops).inReset = s.inReset ∧ (s.issueAll
      ops).drum = s.drum ∧ (s.issueAll ops).carriage = s.carriage ∧ (s.issueAll ops).scan = s.scan
      ∧ (s.issueAll ops).ring = s.ring ∧ (s.issueAll ops).line = s.line ∧ (s.issueAll ops).record
      = s.record ∧ (s.issueAll ops).jobs = s.jobs ∧ (s.issueAll ops).slips = s.slips ∧ (s.issueAll
      ops).clock = s.clock ∧ (s.issueAll ops).profile = s.profile ∧ (s.issueAll ops).layout =
      s.layout ∧ (s.issueAll ops).mailbox = s.mailbox ∧ (s.issueAll ops).mem = s.mem ∧ (s.issueAll
      ops).pending = s.pending := by
  unfold State.issueAll
  induction ops generalizing s with
  | nil => simp
  | cons op ops ih => simp [ih]

@[simp] theorem State.controlStep_frame (s : State) :
    s.controlStep.crystal = s.crystal ∧ s.controlStep.inReset = s.inReset ∧ s.controlStep.drum =
      s.drum ∧ s.controlStep.carriage = s.carriage ∧ s.controlStep.scan = s.scan ∧
      s.controlStep.ring = s.ring ∧ s.controlStep.line = s.line ∧ s.controlStep.record = s.record ∧
      s.controlStep.jobs = s.jobs ∧ s.controlStep.slips = s.slips ∧ s.controlStep.clock = s.clock ∧
      s.controlStep.profile = s.profile ∧ s.controlStep.layout = s.layout ∧ s.controlStep.mailbox =
      s.mailbox ∧ s.controlStep.pending = s.pending := by
  unfold State.controlStep
  split <;> simp

@[simp] theorem State.writeStatus_frame (l : Layout) (w : Nat) (s : State) :
    (s.writeStatus l w).crystal = s.crystal ∧ (s.writeStatus l w).inReset = s.inReset ∧
      (s.writeStatus l w).drum = s.drum ∧ (s.writeStatus l w).carriage = s.carriage ∧ (s.writeStatus
      l w).scan = s.scan ∧ (s.writeStatus l w).ring = s.ring ∧ (s.writeStatus l w).line = s.line ∧
      (s.writeStatus l w).record = s.record ∧ (s.writeStatus l w).jobs = s.jobs ∧ (s.writeStatus l
      w).slips = s.slips ∧ (s.writeStatus l w).clock = s.clock ∧ (s.writeStatus l w).profile =
      s.profile ∧ (s.writeStatus l w).layout = s.layout ∧ (s.writeStatus l w).mailbox = s.mailbox ∧
      (s.writeStatus l w).pending = s.pending := by
  simp [State.writeStatus]

@[simp] theorem State.arbitrate_frame (s : State) :
    s.arbitrate.crystal = s.crystal ∧ s.arbitrate.inReset = s.inReset ∧ s.arbitrate.drum = s.drum ∧
      s.arbitrate.carriage = s.carriage ∧ s.arbitrate.scan = s.scan ∧ s.arbitrate.ring = s.ring ∧
      s.arbitrate.line = s.line ∧ s.arbitrate.record = s.record ∧ s.arbitrate.jobs = s.jobs ∧
      s.arbitrate.slips = s.slips ∧ s.arbitrate.clock = s.clock ∧ s.arbitrate.profile = s.profile ∧
      s.arbitrate.layout = s.layout ∧ s.arbitrate.mailbox = s.mailbox ∧ s.arbitrate.pending =
      s.pending := by
  unfold State.arbitrate
  (repeat' split) <;> simp

@[simp] theorem State.parkRead_frame (a : Nat) (s : State) :
    (s.parkRead a).crystal = s.crystal ∧ (s.parkRead a).inReset = s.inReset ∧ (s.parkRead a).drum =
      s.drum ∧ (s.parkRead a).carriage = s.carriage ∧ (s.parkRead a).scan = s.scan ∧ (s.parkRead
      a).ring = s.ring ∧ (s.parkRead a).line = s.line ∧ (s.parkRead a).record = s.record ∧
      (s.parkRead a).jobs = s.jobs ∧ (s.parkRead a).slips = s.slips ∧ (s.parkRead a).clock = s.clock
      ∧ (s.parkRead a).profile = s.profile ∧ (s.parkRead a).layout = s.layout ∧ (s.parkRead
      a).mailbox = s.mailbox ∧ (s.parkRead a).mem = s.mem ∧ (s.parkRead a).pending = s.pending := by
  simp [State.parkRead]

@[simp] theorem State.parkWrite_frame (w : HostWrite) (s : State) :
    (s.parkWrite w).crystal = s.crystal ∧ (s.parkWrite w).inReset = s.inReset ∧ (s.parkWrite w).drum
      = s.drum ∧ (s.parkWrite w).carriage = s.carriage ∧ (s.parkWrite w).scan = s.scan ∧
      (s.parkWrite w).ring = s.ring ∧ (s.parkWrite w).line = s.line ∧ (s.parkWrite w).record =
      s.record ∧ (s.parkWrite w).jobs = s.jobs ∧ (s.parkWrite w).slips = s.slips ∧ (s.parkWrite
      w).clock = s.clock ∧ (s.parkWrite w).profile = s.profile ∧ (s.parkWrite w).layout = s.layout ∧
      (s.parkWrite w).mailbox = s.mailbox ∧ (s.parkWrite w).mem = s.mem ∧ (s.parkWrite w).pending =
      s.pending := by
  simp [State.parkWrite]

/-! ## The Scan Unit -/

@[simp] theorem State.scanStop_frame (s : State) :
    s.scanStop.crystal = s.crystal ∧ s.scanStop.inReset = s.inReset ∧ s.scanStop.drum = s.drum ∧
      s.scanStop.line = s.line ∧ s.scanStop.record = s.record ∧ s.scanStop.slips = s.slips ∧
      s.scanStop.clock = s.clock ∧ s.scanStop.profile = s.profile ∧ s.scanStop.layout = s.layout ∧
      s.scanStop.mailbox = s.mailbox ∧ s.scanStop.mem = s.mem ∧ s.scanStop.pending = s.pending := by
  unfold State.scanStop
  split <;> simp

@[simp] theorem State.lampOff_frame (s : State) :
    s.lampOff.crystal = s.crystal ∧ s.lampOff.inReset = s.inReset ∧ s.lampOff.drum = s.drum ∧
      s.lampOff.line = s.line ∧ s.lampOff.record = s.record ∧ s.lampOff.slips = s.slips ∧
      s.lampOff.clock = s.clock ∧ s.lampOff.profile = s.profile ∧ s.lampOff.layout = s.layout ∧
      s.lampOff.mailbox = s.mailbox ∧ s.lampOff.mem = s.mem ∧ s.lampOff.pending = s.pending := by
  simp [State.lampOff]

@[simp] theorem State.scanTurn_frame (s : State) :
    s.scanTurn.crystal = s.crystal ∧ s.scanTurn.inReset = s.inReset ∧ s.scanTurn.drum = s.drum ∧
      s.scanTurn.line = s.line ∧ s.scanTurn.record = s.record ∧ s.scanTurn.jobs = s.jobs ∧
      s.scanTurn.slips = s.slips ∧ s.scanTurn.clock = s.clock ∧ s.scanTurn.profile = s.profile ∧
      s.scanTurn.layout = s.layout ∧ s.scanTurn.mailbox = s.mailbox ∧ s.scanTurn.gate = s.gate ∧
      s.scanTurn.mem = s.mem ∧ s.scanTurn.pending = s.pending := by
  unfold State.scanTurn
  (repeat' split) <;> simp

@[simp] theorem State.beginFrame_frame (f : Nat) (s : State) :
    (s.beginFrame f).crystal = s.crystal ∧ (s.beginFrame f).inReset = s.inReset ∧ (s.beginFrame
      f).drum = s.drum ∧ (s.beginFrame f).line = s.line ∧ (s.beginFrame f).record = s.record ∧
      (s.beginFrame f).jobs = s.jobs ∧ (s.beginFrame f).slips = s.slips ∧ (s.beginFrame f).clock =
      s.clock ∧ (s.beginFrame f).profile = s.profile ∧ (s.beginFrame f).layout = s.layout ∧
      (s.beginFrame f).mailbox = s.mailbox ∧ (s.beginFrame f).gate = s.gate ∧ (s.beginFrame f).mem =
      s.mem ∧ (s.beginFrame f).pending = s.pending := by
  simp [State.beginFrame]

@[simp] theorem State.scanStart_frame (s : State) :
    s.scanStart.crystal = s.crystal ∧ s.scanStart.inReset = s.inReset ∧ s.scanStart.drum = s.drum ∧
      s.scanStart.line = s.line ∧ s.scanStart.record = s.record ∧ s.scanStart.jobs = s.jobs ∧
      s.scanStart.slips = s.slips ∧ s.scanStart.clock = s.clock ∧ s.scanStart.profile = s.profile ∧
      s.scanStart.layout = s.layout ∧ s.scanStart.mailbox = s.mailbox ∧ s.scanStart.gate = s.gate ∧
      s.scanStart.mem = s.mem ∧ s.scanStart.pending = s.pending := by
  unfold State.scanStart
  split <;> simp

@[simp] theorem State.scanIndex_frame (s : State) :
    s.scanIndex.crystal = s.crystal ∧ s.scanIndex.inReset = s.inReset ∧ s.scanIndex.drum = s.drum ∧
      s.scanIndex.line = s.line ∧ s.scanIndex.record = s.record ∧ s.scanIndex.jobs = s.jobs ∧
      s.scanIndex.slips = s.slips ∧ s.scanIndex.clock = s.clock ∧ s.scanIndex.profile = s.profile ∧
      s.scanIndex.layout = s.layout ∧ s.scanIndex.mailbox = s.mailbox ∧ s.scanIndex.gate = s.gate ∧
      s.scanIndex.mem = s.mem ∧ s.scanIndex.pending = s.pending := by
  unfold State.scanIndex
  (repeat' split) <;> simp

@[simp] theorem State.orderNextFrame_frame (f : Nat) (s : State) :
    (s.orderNextFrame f).crystal = s.crystal ∧ (s.orderNextFrame f).inReset = s.inReset ∧
      (s.orderNextFrame f).drum = s.drum ∧ (s.orderNextFrame f).scan = s.scan ∧ (s.orderNextFrame
      f).ring = s.ring ∧ (s.orderNextFrame f).line = s.line ∧ (s.orderNextFrame f).record = s.record
      ∧ (s.orderNextFrame f).jobs = s.jobs ∧ (s.orderNextFrame f).slips = s.slips ∧
      (s.orderNextFrame f).clock = s.clock ∧ (s.orderNextFrame f).profile = s.profile ∧
      (s.orderNextFrame f).layout = s.layout ∧ (s.orderNextFrame f).mailbox = s.mailbox ∧
      (s.orderNextFrame f).gate = s.gate ∧ (s.orderNextFrame f).mem = s.mem ∧ (s.orderNextFrame
      f).pending = s.pending := by
  unfold State.orderNextFrame
  (repeat' split) <;> simp

@[simp] theorem State.endFrame_frame (s : State) :
    s.endFrame.crystal = s.crystal ∧ s.endFrame.inReset = s.inReset ∧ s.endFrame.drum = s.drum ∧
      s.endFrame.line = s.line ∧ s.endFrame.record = s.record ∧ s.endFrame.slips = s.slips ∧
      s.endFrame.clock = s.clock ∧ s.endFrame.profile = s.profile ∧ s.endFrame.layout = s.layout ∧
      s.endFrame.mailbox = s.mailbox ∧ s.endFrame.gate = s.gate ∧ s.endFrame.mem = s.mem ∧
      s.endFrame.pending = s.pending := by
  simp [State.endFrame]

@[simp] theorem State.lineComplete_frame (s : State) :
    s.lineComplete.crystal = s.crystal ∧ s.lineComplete.inReset = s.inReset ∧ s.lineComplete.drum =
      s.drum ∧ s.lineComplete.line = s.line ∧ s.lineComplete.record = s.record ∧
      s.lineComplete.slips = s.slips ∧ s.lineComplete.clock = s.clock ∧ s.lineComplete.profile =
      s.profile ∧ s.lineComplete.layout = s.layout ∧ s.lineComplete.mailbox = s.mailbox ∧
      s.lineComplete.gate = s.gate ∧ s.lineComplete.mem = s.mem ∧ s.lineComplete.pending = s.pending := by
  unfold State.lineComplete
  dsimp only
  (repeat' split) <;> simp

@[simp] theorem State.truncateFrame_frame (s : State) :
    s.truncateFrame.crystal = s.crystal ∧ s.truncateFrame.inReset = s.inReset ∧ s.truncateFrame.drum
      = s.drum ∧ s.truncateFrame.line = s.line ∧ s.truncateFrame.record = s.record ∧
      s.truncateFrame.slips = s.slips ∧ s.truncateFrame.clock = s.clock ∧ s.truncateFrame.profile =
      s.profile ∧ s.truncateFrame.layout = s.layout ∧ s.truncateFrame.mailbox = s.mailbox ∧
      s.truncateFrame.mem = s.mem ∧ s.truncateFrame.pending = s.pending := by
  unfold State.truncateFrame
  (repeat' split) <;> simp

@[simp] theorem State.takeTruncation_frame (s : State) :
    s.takeTruncation.crystal = s.crystal ∧ s.takeTruncation.inReset = s.inReset ∧
      s.takeTruncation.drum = s.drum ∧ s.takeTruncation.line = s.line ∧ s.takeTruncation.record =
      s.record ∧ s.takeTruncation.slips = s.slips ∧ s.takeTruncation.clock = s.clock ∧
      s.takeTruncation.profile = s.profile ∧ s.takeTruncation.layout = s.layout ∧
      s.takeTruncation.mailbox = s.mailbox ∧ s.takeTruncation.mem = s.mem ∧ s.takeTruncation.pending
      = s.pending := by
  unfold State.takeTruncation
  split <;> simp

@[simp] theorem State.takeArrival_frame (s : State) :
    s.takeArrival.crystal = s.crystal ∧ s.takeArrival.inReset = s.inReset ∧ s.takeArrival.drum =
      s.drum ∧ s.takeArrival.ring = s.ring ∧ s.takeArrival.line = s.line ∧ s.takeArrival.record =
      s.record ∧ s.takeArrival.jobs = s.jobs ∧ s.takeArrival.slips = s.slips ∧ s.takeArrival.clock =
      s.clock ∧ s.takeArrival.profile = s.profile ∧ s.takeArrival.layout = s.layout ∧
      s.takeArrival.mailbox = s.mailbox ∧ s.takeArrival.gate = s.gate ∧ s.takeArrival.mem = s.mem ∧
      s.takeArrival.pending = s.pending := by
  unfold State.takeArrival
  split <;> simp

@[simp] theorem State.scanSlot_frame (j : Nat) (cell : Sample) (s : State) :
    (s.scanSlot j cell).crystal = s.crystal ∧ (s.scanSlot j cell).inReset = s.inReset ∧ (s.scanSlot
      j cell).drum = s.drum ∧ (s.scanSlot j cell).carriage = s.carriage ∧ (s.scanSlot j cell).ring =
      s.ring ∧ (s.scanSlot j cell).line = s.line ∧ (s.scanSlot j cell).record = s.record ∧
      (s.scanSlot j cell).jobs = s.jobs ∧ (s.scanSlot j cell).slips = s.slips ∧ (s.scanSlot j
      cell).clock = s.clock ∧ (s.scanSlot j cell).profile = s.profile ∧ (s.scanSlot j cell).layout =
      s.layout ∧ (s.scanSlot j cell).mailbox = s.mailbox ∧ (s.scanSlot j cell).gate = s.gate ∧
      (s.scanSlot j cell).mem = s.mem ∧ (s.scanSlot j cell).pending = s.pending := by
  unfold State.scanSlot
  (repeat' split) <;> simp

@[simp] theorem State.scanWrote_frame (x : Access) (s : State) :
    (s.scanWrote x).crystal = s.crystal ∧ (s.scanWrote x).inReset = s.inReset ∧ (s.scanWrote x).drum
      = s.drum ∧ (s.scanWrote x).carriage = s.carriage ∧ (s.scanWrote x).scan = s.scan ∧
      (s.scanWrote x).ring = s.ring ∧ (s.scanWrote x).line = s.line ∧ (s.scanWrote x).record =
      s.record ∧ (s.scanWrote x).jobs = s.jobs ∧ (s.scanWrote x).slips = s.slips ∧ (s.scanWrote
      x).clock = s.clock ∧ (s.scanWrote x).profile = s.profile ∧ (s.scanWrote x).layout = s.layout ∧
      (s.scanWrote x).mailbox = s.mailbox ∧ (s.scanWrote x).pending = s.pending := by
  simp [State.scanWrote]

@[simp] theorem State.entryWritten_frame (x : Access) (isLive : Bool) (s : State) :
    (s.entryWritten x isLive).crystal = s.crystal ∧ (s.entryWritten x isLive).inReset = s.inReset ∧
      (s.entryWritten x isLive).drum = s.drum ∧ (s.entryWritten x isLive).carriage = s.carriage ∧
      (s.entryWritten x isLive).ring = s.ring ∧ (s.entryWritten x isLive).line = s.line ∧
      (s.entryWritten x isLive).record = s.record ∧ (s.entryWritten x isLive).jobs = s.jobs ∧
      (s.entryWritten x isLive).slips = s.slips ∧ (s.entryWritten x isLive).clock = s.clock ∧
      (s.entryWritten x isLive).profile = s.profile ∧ (s.entryWritten x isLive).layout = s.layout ∧
      (s.entryWritten x isLive).mailbox = s.mailbox ∧ (s.entryWritten x isLive).pending = s.pending := by
  unfold State.entryWritten
  split <;> simp

@[simp] theorem State.headerWritten_frame (x : Access) (isLive : Bool) (s : State) :
    (s.headerWritten x isLive).crystal = s.crystal ∧ (s.headerWritten x isLive).inReset = s.inReset
      ∧ (s.headerWritten x isLive).drum = s.drum ∧ (s.headerWritten x isLive).line = s.line ∧
      (s.headerWritten x isLive).record = s.record ∧ (s.headerWritten x isLive).slips = s.slips ∧
      (s.headerWritten x isLive).clock = s.clock ∧ (s.headerWritten x isLive).profile = s.profile ∧
      (s.headerWritten x isLive).layout = s.layout ∧ (s.headerWritten x isLive).mailbox = s.mailbox
      ∧ (s.headerWritten x isLive).pending = s.pending := by
  unfold State.headerWritten
  dsimp only
  (repeat' split) <;> simp

/-! ## The Mailbox Unit -/

@[simp] theorem State.post_frame (c : Completion) (s : State) :
    (s.post c).crystal = s.crystal ∧ (s.post c).inReset = s.inReset ∧ (s.post c).drum = s.drum ∧
      (s.post c).carriage = s.carriage ∧ (s.post c).scan = s.scan ∧ (s.post c).ring = s.ring ∧
      (s.post c).line = s.line ∧ (s.post c).record = s.record ∧ (s.post c).jobs = s.jobs ∧ (s.post
      c).slips = s.slips ∧ (s.post c).clock = s.clock ∧ (s.post c).profile = s.profile ∧ (s.post
      c).layout = s.layout ∧ (s.post c).mem = s.mem ∧ (s.post c).pending = s.pending := by
  simp [State.post]

@[simp] theorem State.handOn_frame (c : Completion) (s : State) :
    (s.handOn c).crystal = s.crystal ∧ (s.handOn c).inReset = s.inReset ∧ (s.handOn c).drum = s.drum
      ∧ (s.handOn c).carriage = s.carriage ∧ (s.handOn c).scan = s.scan ∧ (s.handOn c).ring = s.ring
      ∧ (s.handOn c).line = s.line ∧ (s.handOn c).record = s.record ∧ (s.handOn c).jobs = s.jobs ∧
      (s.handOn c).slips = s.slips ∧ (s.handOn c).clock = s.clock ∧ (s.handOn c).profile = s.profile
      ∧ (s.handOn c).layout = s.layout ∧ (s.handOn c).mem = s.mem ∧ (s.handOn c).pending = s.pending := by
  unfold State.handOn
  split <;> simp

@[simp] theorem State.postBacklog_frame (cs : List Completion) (s : State) :
    (State.postBacklog cs s).crystal = s.crystal ∧ (State.postBacklog cs s).inReset = s.inReset ∧
      (State.postBacklog cs s).drum = s.drum ∧ (State.postBacklog cs s).carriage = s.carriage ∧
      (State.postBacklog cs s).scan = s.scan ∧ (State.postBacklog cs s).ring = s.ring ∧
      (State.postBacklog cs s).line = s.line ∧ (State.postBacklog cs s).record = s.record ∧
      (State.postBacklog cs s).jobs = s.jobs ∧ (State.postBacklog cs s).slips = s.slips ∧
      (State.postBacklog cs s).clock = s.clock ∧ (State.postBacklog cs s).profile = s.profile ∧
      (State.postBacklog cs s).layout = s.layout ∧ (State.postBacklog cs s).mem = s.mem ∧
      (State.postBacklog cs s).pending = s.pending := by
  induction cs generalizing s with
  | nil => simp [State.postBacklog]
  | cons i cs ih => unfold State.postBacklog; split <;> simp [ih]

@[simp] theorem State.handOnAll_frame (cs : List Completion) (s : State) :
    (s.handOnAll cs).crystal = s.crystal ∧ (s.handOnAll cs).inReset = s.inReset ∧ (s.handOnAll
      cs).drum = s.drum ∧ (s.handOnAll cs).carriage = s.carriage ∧ (s.handOnAll cs).scan = s.scan ∧
      (s.handOnAll cs).ring = s.ring ∧ (s.handOnAll cs).line = s.line ∧ (s.handOnAll cs).record =
      s.record ∧ (s.handOnAll cs).jobs = s.jobs ∧ (s.handOnAll cs).slips = s.slips ∧ (s.handOnAll
      cs).clock = s.clock ∧ (s.handOnAll cs).profile = s.profile ∧ (s.handOnAll cs).layout =
      s.layout ∧ (s.handOnAll cs).mem = s.mem ∧ (s.handOnAll cs).pending = s.pending := by
  unfold State.handOnAll
  induction cs generalizing s with
  | nil => simp
  | cons c cs ih => simp [ih]

@[simp] theorem State.posted_frame (slot : Option Nat) (quiet : Bool) (s : State) :
    (s.posted slot quiet).crystal = s.crystal ∧ (s.posted slot quiet).inReset = s.inReset ∧
      (s.posted slot quiet).drum = s.drum ∧ (s.posted slot quiet).carriage = s.carriage ∧ (s.posted
      slot quiet).scan = s.scan ∧ (s.posted slot quiet).ring = s.ring ∧ (s.posted slot quiet).line =
      s.line ∧ (s.posted slot quiet).record = s.record ∧ (s.posted slot quiet).jobs = s.jobs ∧
      (s.posted slot quiet).slips = s.slips ∧ (s.posted slot quiet).clock = s.clock ∧ (s.posted slot
      quiet).profile = s.profile ∧ (s.posted slot quiet).layout = s.layout ∧ (s.posted slot
      quiet).mem = s.mem ∧ (s.posted slot quiet).pending = s.pending := by
  unfold State.posted
  split <;> simp

@[simp] theorem State.beginTake_frame (s : State) :
    s.beginTake.crystal = s.crystal ∧ s.beginTake.inReset = s.inReset ∧ s.beginTake.drum = s.drum ∧
      s.beginTake.carriage = s.carriage ∧ s.beginTake.scan = s.scan ∧ s.beginTake.ring = s.ring ∧
      s.beginTake.line = s.line ∧ s.beginTake.record = s.record ∧ s.beginTake.jobs = s.jobs ∧
      s.beginTake.slips = s.slips ∧ s.beginTake.clock = s.clock ∧ s.beginTake.profile = s.profile ∧
      s.beginTake.layout = s.layout ∧ s.beginTake.mem = s.mem ∧ s.beginTake.pending = s.pending := by
  simp [State.beginTake]

@[simp] theorem State.entryRead_frame (e : Nat) (s : State) :
    (s.entryRead e).crystal = s.crystal ∧ (s.entryRead e).inReset = s.inReset ∧ (s.entryRead e).drum
      = s.drum ∧ (s.entryRead e).carriage = s.carriage ∧ (s.entryRead e).scan = s.scan ∧
      (s.entryRead e).ring = s.ring ∧ (s.entryRead e).line = s.line ∧ (s.entryRead e).record =
      s.record ∧ (s.entryRead e).jobs = s.jobs ∧ (s.entryRead e).slips = s.slips ∧ (s.entryRead
      e).clock = s.clock ∧ (s.entryRead e).profile = s.profile ∧ (s.entryRead e).layout = s.layout ∧
      (s.entryRead e).mem = s.mem ∧ (s.entryRead e).pending = s.pending := by
  unfold State.entryRead
  split <;> simp

@[simp] theorem State.takeEntry_frame (e : Nat) (s : State) :
    (s.takeEntry e).crystal = s.crystal ∧ (s.takeEntry e).inReset = s.inReset ∧ (s.takeEntry e).drum
      = s.drum ∧ (s.takeEntry e).carriage = s.carriage ∧ (s.takeEntry e).scan = s.scan ∧
      (s.takeEntry e).ring = s.ring ∧ (s.takeEntry e).line = s.line ∧ (s.takeEntry e).record =
      s.record ∧ (s.takeEntry e).jobs = s.jobs ∧ (s.takeEntry e).slips = s.slips ∧ (s.takeEntry
      e).clock = s.clock ∧ (s.takeEntry e).profile = s.profile ∧ (s.takeEntry e).layout = s.layout ∧
      (s.takeEntry e).pending = s.pending := by
  simp [State.takeEntry]

@[simp] theorem State.endTake_frame (s : State) :
    s.endTake.crystal = s.crystal ∧ s.endTake.inReset = s.inReset ∧ s.endTake.drum = s.drum ∧
      s.endTake.carriage = s.carriage ∧ s.endTake.scan = s.scan ∧ s.endTake.ring = s.ring ∧
      s.endTake.line = s.line ∧ s.endTake.record = s.record ∧ s.endTake.jobs = s.jobs ∧
      s.endTake.slips = s.slips ∧ s.endTake.clock = s.clock ∧ s.endTake.profile = s.profile ∧
      s.endTake.layout = s.layout ∧ s.endTake.mem = s.mem ∧ s.endTake.pending = s.pending := by
  unfold State.endTake
  split <;> simp

/-- Of at most one operation issued at a moment, none changes its place (R165). -/
theorem slideLast_short (base n : Nat) (ops : List Op) (h : ops.length ≤ base + 1) :
    Machine.slideLast base n ops = ops := by
  have hd : (ops.drop base).length ≤ 1 := by rw [List.length_drop]; omega
  unfold Machine.slideLast
  match h : ops.drop base, hd with
  | [], _ => rfl
  | [x], _ =>
    have hp : passOthers x n [] = [x] := by cases n <;> rfl
    simpa [hp, h] using List.take_append_drop base ops

/-- The same of the State. -/
theorem State.slideLast_few (base n : Nat) (s : State) (h : s.gate.ops.length ≤ base + 1) :
    s.slideLast base n = s := by
  simp [State.slideLast, slideLast_short base n s.gate.ops h, State.withGate]

@[simp] theorem State.slideLast_frame (base n : Nat) (s : State) :
    (s.slideLast base n).crystal = s.crystal ∧ (s.slideLast base n).inReset = s.inReset ∧
      (s.slideLast base n).drum = s.drum ∧ (s.slideLast base n).carriage = s.carriage ∧
      (s.slideLast base n).scan = s.scan ∧ (s.slideLast base n).ring = s.ring ∧
      (s.slideLast base n).line = s.line ∧ (s.slideLast base n).record = s.record ∧
      (s.slideLast base n).jobs = s.jobs ∧ (s.slideLast base n).slips = s.slips ∧
      (s.slideLast base n).clock = s.clock ∧ (s.slideLast base n).profile = s.profile ∧
      (s.slideLast base n).layout = s.layout ∧ (s.slideLast base n).mailbox = s.mailbox ∧
      (s.slideLast base n).mem = s.mem ∧ (s.slideLast base n).pending = s.pending := by
  simp [State.slideLast]

@[simp] theorem State.endTakeAmong_frame (base n : Nat) (s : State) :
    (s.endTakeAmong base n).crystal = s.crystal ∧ (s.endTakeAmong base n).inReset = s.inReset ∧
      (s.endTakeAmong base n).drum = s.drum ∧ (s.endTakeAmong base n).carriage = s.carriage ∧
      (s.endTakeAmong base n).scan = s.scan ∧ (s.endTakeAmong base n).ring = s.ring ∧
      (s.endTakeAmong base n).line = s.line ∧ (s.endTakeAmong base n).record = s.record ∧
      (s.endTakeAmong base n).jobs = s.jobs ∧ (s.endTakeAmong base n).slips = s.slips ∧
      (s.endTakeAmong base n).clock = s.clock ∧ (s.endTakeAmong base n).profile = s.profile ∧
      (s.endTakeAmong base n).layout = s.layout ∧ (s.endTakeAmong base n).mem = s.mem ∧
      (s.endTakeAmong base n).pending = s.pending := by
  simp [State.endTakeAmong]

@[simp] theorem State.popMailbox_frame (s : State) :
    s.popMailbox.crystal = s.crystal ∧ s.popMailbox.inReset = s.inReset ∧ s.popMailbox.drum = s.drum
      ∧ s.popMailbox.carriage = s.carriage ∧ s.popMailbox.scan = s.scan ∧ s.popMailbox.ring = s.ring
      ∧ s.popMailbox.line = s.line ∧ s.popMailbox.record = s.record ∧ s.popMailbox.jobs = s.jobs ∧
      s.popMailbox.slips = s.slips ∧ s.popMailbox.clock = s.clock ∧ s.popMailbox.profile = s.profile
      ∧ s.popMailbox.layout = s.layout ∧ s.popMailbox.mailbox = s.mailbox ∧ s.popMailbox.mem = s.mem
      ∧ s.popMailbox.pending = s.pending := by
  simp [State.popMailbox]

/-! ## The Line Unit -/

@[simp] theorem State.tone_frame (h : Nat) (s : State) :
    (s.tone h).crystal = s.crystal ∧ (s.tone h).inReset = s.inReset ∧ (s.tone h).drum = s.drum ∧
      (s.tone h).carriage = s.carriage ∧ (s.tone h).scan = s.scan ∧ (s.tone h).ring = s.ring ∧
      (s.tone h).record = s.record ∧ (s.tone h).jobs = s.jobs ∧ (s.tone h).slips = s.slips ∧ (s.tone
      h).clock = s.clock ∧ (s.tone h).profile = s.profile ∧ (s.tone h).layout = s.layout ∧ (s.tone
      h).mailbox = s.mailbox ∧ (s.tone h).gate = s.gate ∧ (s.tone h).mem = s.mem ∧ (s.tone
      h).pending = s.pending := by
  simp [State.tone]

@[simp] theorem State.call_frame (info : CallInfo) (s : State) :
    (s.call info).crystal = s.crystal ∧ (s.call info).inReset = s.inReset ∧ (s.call info).drum =
      s.drum ∧ (s.call info).carriage = s.carriage ∧ (s.call info).scan = s.scan ∧ (s.call
      info).ring = s.ring ∧ (s.call info).jobs = s.jobs ∧ (s.call info).slips = s.slips ∧ (s.call
      info).clock = s.clock ∧ (s.call info).profile = s.profile ∧ (s.call info).layout = s.layout ∧
      (s.call info).mailbox = s.mailbox ∧ (s.call info).gate = s.gate ∧ (s.call info).mem = s.mem ∧
      (s.call info).pending = s.pending := by
  unfold State.call
  split <;> simp

@[simp] theorem State.closeTurn_frame (s : State) :
    s.closeTurn.crystal = s.crystal ∧ s.closeTurn.inReset = s.inReset ∧ s.closeTurn.drum = s.drum ∧
      s.closeTurn.carriage = s.carriage ∧ s.closeTurn.scan = s.scan ∧ s.closeTurn.jobs = s.jobs ∧
      s.closeTurn.slips = s.slips ∧ s.closeTurn.clock = s.clock ∧ s.closeTurn.profile = s.profile ∧
      s.closeTurn.layout = s.layout ∧ s.closeTurn.mailbox = s.mailbox ∧ s.closeTurn.mem = s.mem ∧
      s.closeTurn.pending = s.pending := by
  simp [State.closeTurn]

@[simp] theorem State.sendSlot_frame (n : Nat) (first : Bool) (s : State) :
    (s.sendSlot n first).crystal = s.crystal ∧ (s.sendSlot n first).inReset = s.inReset ∧
      (s.sendSlot n first).drum = s.drum ∧ (s.sendSlot n first).carriage = s.carriage ∧ (s.sendSlot
      n first).scan = s.scan ∧ (s.sendSlot n first).record = s.record ∧ (s.sendSlot n first).jobs =
      s.jobs ∧ (s.sendSlot n first).slips = s.slips ∧ (s.sendSlot n first).clock = s.clock ∧
      (s.sendSlot n first).profile = s.profile ∧ (s.sendSlot n first).layout = s.layout ∧
      (s.sendSlot n first).mailbox = s.mailbox ∧ (s.sendSlot n first).gate = s.gate ∧ (s.sendSlot n
      first).mem = s.mem ∧ (s.sendSlot n first).pending = s.pending := by
  simp [State.sendSlot]

@[simp] theorem State.gapTurn_frame (s : State) :
    s.gapTurn.crystal = s.crystal ∧ s.gapTurn.inReset = s.inReset ∧ s.gapTurn.drum = s.drum ∧
      s.gapTurn.carriage = s.carriage ∧ s.gapTurn.scan = s.scan ∧ s.gapTurn.jobs = s.jobs ∧
      s.gapTurn.slips = s.slips ∧ s.gapTurn.clock = s.clock ∧ s.gapTurn.profile = s.profile ∧
      s.gapTurn.layout = s.layout ∧ s.gapTurn.mailbox = s.mailbox ∧ s.gapTurn.gate = s.gate ∧
      s.gapTurn.mem = s.mem ∧ s.gapTurn.pending = s.pending := by
  simp [State.gapTurn]

@[simp] theorem State.endSending_frame (d : FrameDone) (s : State) :
    (s.endSending d).crystal = s.crystal ∧ (s.endSending d).inReset = s.inReset ∧ (s.endSending
      d).drum = s.drum ∧ (s.endSending d).carriage = s.carriage ∧ (s.endSending d).scan = s.scan ∧
      (s.endSending d).ring = s.ring ∧ (s.endSending d).line = s.line ∧ (s.endSending d).jobs =
      s.jobs ∧ (s.endSending d).slips = s.slips ∧ (s.endSending d).clock = s.clock ∧ (s.endSending
      d).profile = s.profile ∧ (s.endSending d).layout = s.layout ∧ (s.endSending d).mailbox =
      s.mailbox ∧ (s.endSending d).gate = s.gate ∧ (s.endSending d).mem = s.mem ∧ (s.endSending
      d).pending = s.pending := by
  simp [State.endSending]

@[simp] theorem State.phasingTurn_frame (s : State) :
    s.phasingTurn.crystal = s.crystal ∧ s.phasingTurn.inReset = s.inReset ∧ s.phasingTurn.drum =
      s.drum ∧ s.phasingTurn.record = s.record ∧ s.phasingTurn.jobs = s.jobs ∧ s.phasingTurn.slips =
      s.slips ∧ s.phasingTurn.clock = s.clock ∧ s.phasingTurn.profile = s.profile ∧
      s.phasingTurn.layout = s.layout ∧ s.phasingTurn.mailbox = s.mailbox ∧ s.phasingTurn.gate =
      s.gate ∧ s.phasingTurn.mem = s.mem ∧ s.phasingTurn.pending = s.pending := by
  unfold State.phasingTurn
  (repeat' split) <;> simp

@[simp] theorem State.enterPhasing_frame (s : State) :
    s.enterPhasing.crystal = s.crystal ∧ s.enterPhasing.inReset = s.inReset ∧ s.enterPhasing.drum =
      s.drum ∧ s.enterPhasing.record = s.record ∧ s.enterPhasing.jobs = s.jobs ∧
      s.enterPhasing.slips = s.slips ∧ s.enterPhasing.clock = s.clock ∧ s.enterPhasing.profile =
      s.profile ∧ s.enterPhasing.layout = s.layout ∧ s.enterPhasing.mailbox = s.mailbox ∧
      s.enterPhasing.gate = s.gate ∧ s.enterPhasing.mem = s.mem ∧ s.enterPhasing.pending = s.pending := by
  simp [State.enterPhasing]

@[simp] theorem State.countStarve_frame (s : State) :
    s.countStarve.crystal = s.crystal ∧ s.countStarve.inReset = s.inReset ∧ s.countStarve.drum =
      s.drum ∧ s.countStarve.carriage = s.carriage ∧ s.countStarve.scan = s.scan ∧
      s.countStarve.line = s.line ∧ s.countStarve.jobs = s.jobs ∧ s.countStarve.slips = s.slips ∧
      s.countStarve.clock = s.clock ∧ s.countStarve.profile = s.profile ∧ s.countStarve.layout =
      s.layout ∧ s.countStarve.mailbox = s.mailbox ∧ s.countStarve.gate = s.gate ∧ s.countStarve.mem
      = s.mem ∧ s.countStarve.pending = s.pending := by
  simp [State.countStarve]

@[simp] theorem State.sendSlotEvent_frame (j : Nat) (s : State) :
    (s.sendSlotEvent j).crystal = s.crystal ∧ (s.sendSlotEvent j).inReset = s.inReset ∧
      (s.sendSlotEvent j).drum = s.drum ∧ (s.sendSlotEvent j).carriage = s.carriage ∧
      (s.sendSlotEvent j).scan = s.scan ∧ (s.sendSlotEvent j).jobs = s.jobs ∧ (s.sendSlotEvent
      j).slips = s.slips ∧ (s.sendSlotEvent j).clock = s.clock ∧ (s.sendSlotEvent j).profile =
      s.profile ∧ (s.sendSlotEvent j).layout = s.layout ∧ (s.sendSlotEvent j).mailbox = s.mailbox ∧
      (s.sendSlotEvent j).gate = s.gate ∧ (s.sendSlotEvent j).mem = s.mem ∧ (s.sendSlotEvent
      j).pending = s.pending := by
  unfold State.sendSlotEvent
  dsimp only
  (repeat' split) <;> simp

/-! ## The Job Controller -/

@[simp] theorem State.nextCurrent_frame (s : State) :
    s.nextCurrent.crystal = s.crystal ∧ s.nextCurrent.inReset = s.inReset ∧ s.nextCurrent.drum =
      s.drum ∧ s.nextCurrent.carriage = s.carriage ∧ s.nextCurrent.scan = s.scan ∧
      s.nextCurrent.ring = s.ring ∧ s.nextCurrent.line = s.line ∧ s.nextCurrent.record = s.record ∧
      s.nextCurrent.slips = s.slips ∧ s.nextCurrent.clock = s.clock ∧ s.nextCurrent.profile =
      s.profile ∧ s.nextCurrent.layout = s.layout ∧ s.nextCurrent.mailbox = s.mailbox ∧
      s.nextCurrent.mem = s.mem ∧ s.nextCurrent.pending = s.pending := by
  unfold State.nextCurrent
  split <;> simp

@[simp] theorem State.queueChain_frame (j : Job) (s : State) :
    (s.queueChain j).crystal = s.crystal ∧ (s.queueChain j).inReset = s.inReset ∧ (s.queueChain
      j).drum = s.drum ∧ (s.queueChain j).carriage = s.carriage ∧ (s.queueChain j).scan = s.scan ∧
      (s.queueChain j).ring = s.ring ∧ (s.queueChain j).line = s.line ∧ (s.queueChain j).record =
      s.record ∧ (s.queueChain j).slips = s.slips ∧ (s.queueChain j).clock = s.clock ∧ (s.queueChain
      j).profile = s.profile ∧ (s.queueChain j).layout = s.layout ∧ (s.queueChain j).mailbox =
      s.mailbox ∧ (s.queueChain j).mem = s.mem ∧ (s.queueChain j).pending = s.pending := by
  simp [State.queueChain]

@[simp] theorem State.startAttempt_frame (n : Nat) (s : State) :
    (s.startAttempt n).crystal = s.crystal ∧ (s.startAttempt n).inReset = s.inReset ∧
      (s.startAttempt n).drum = s.drum ∧ (s.startAttempt n).carriage = s.carriage ∧ (s.startAttempt
      n).scan = s.scan ∧ (s.startAttempt n).ring = s.ring ∧ (s.startAttempt n).line = s.line ∧
      (s.startAttempt n).record = s.record ∧ (s.startAttempt n).slips = s.slips ∧ (s.startAttempt
      n).clock = s.clock ∧ (s.startAttempt n).profile = s.profile ∧ (s.startAttempt n).layout =
      s.layout ∧ (s.startAttempt n).mailbox = s.mailbox ∧ (s.startAttempt n).mem = s.mem ∧
      (s.startAttempt n).pending = s.pending := by
  simp [State.startAttempt]

@[simp] theorem State.look_frame (s : State) :
    s.look.crystal = s.crystal ∧ s.look.inReset = s.inReset ∧ s.look.drum = s.drum ∧ s.look.carriage
      = s.carriage ∧ s.look.scan = s.scan ∧ s.look.ring = s.ring ∧ s.look.line = s.line ∧
      s.look.record = s.record ∧ s.look.slips = s.slips ∧ s.look.clock = s.clock ∧ s.look.profile =
      s.profile ∧ s.look.layout = s.layout ∧ s.look.mailbox = s.mailbox ∧ s.look.mem = s.mem ∧
      s.look.pending = s.pending := by
  unfold State.look
  (repeat' split) <;> simp

@[simp] theorem State.retryDue_frame (s : State) :
    s.retryDue.crystal = s.crystal ∧ s.retryDue.inReset = s.inReset ∧ s.retryDue.drum = s.drum ∧
      s.retryDue.carriage = s.carriage ∧ s.retryDue.scan = s.scan ∧ s.retryDue.ring = s.ring ∧
      s.retryDue.line = s.line ∧ s.retryDue.record = s.record ∧ s.retryDue.slips = s.slips ∧
      s.retryDue.clock = s.clock ∧ s.retryDue.profile = s.profile ∧ s.retryDue.layout = s.layout ∧
      s.retryDue.mailbox = s.mailbox ∧ s.retryDue.gate = s.gate ∧ s.retryDue.mem = s.mem ∧
      s.retryDue.pending = s.pending := by
  unfold State.retryDue
  split <;> simp

@[simp] theorem State.leaveMountWait_frame (s : State) :
    s.leaveMountWait.crystal = s.crystal ∧ s.leaveMountWait.inReset = s.inReset ∧
      s.leaveMountWait.drum = s.drum ∧ s.leaveMountWait.carriage = s.carriage ∧
      s.leaveMountWait.scan = s.scan ∧ s.leaveMountWait.ring = s.ring ∧ s.leaveMountWait.line =
      s.line ∧ s.leaveMountWait.record = s.record ∧ s.leaveMountWait.slips = s.slips ∧
      s.leaveMountWait.clock = s.clock ∧ s.leaveMountWait.profile = s.profile ∧
      s.leaveMountWait.layout = s.layout ∧ s.leaveMountWait.mailbox = s.mailbox ∧
      s.leaveMountWait.mem = s.mem ∧ s.leaveMountWait.pending = s.pending := by
  unfold State.leaveMountWait
  split <;> simp

@[simp] theorem State.serveBacklog_frame (s : State) :
    s.serveBacklog.crystal = s.crystal ∧ s.serveBacklog.inReset = s.inReset ∧ s.serveBacklog.drum =
      s.drum ∧ s.serveBacklog.carriage = s.carriage ∧ s.serveBacklog.scan = s.scan ∧
      s.serveBacklog.ring = s.ring ∧ s.serveBacklog.line = s.line ∧ s.serveBacklog.record = s.record
      ∧ s.serveBacklog.slips = s.slips ∧ s.serveBacklog.clock = s.clock ∧ s.serveBacklog.profile =
      s.profile ∧ s.serveBacklog.layout = s.layout ∧ s.serveBacklog.mem = s.mem ∧
      s.serveBacklog.pending = s.pending := by
  unfold State.serveBacklog
  dsimp only
  (repeat' split) <;> simp

@[simp] theorem State.spin_frame (v : Speed) (s : State) :
    (s.spin v).crystal = s.crystal ∧ (s.spin v).inReset = s.inReset ∧ (s.spin v).carriage =
      s.carriage ∧ (s.spin v).scan = s.scan ∧ (s.spin v).ring = s.ring ∧ (s.spin v).line = s.line ∧
      (s.spin v).record = s.record ∧ (s.spin v).slips = s.slips ∧ (s.spin v).clock = s.clock ∧
      (s.spin v).profile = s.profile ∧ (s.spin v).layout = s.layout ∧ (s.spin v).mailbox = s.mailbox
      ∧ (s.spin v).gate = s.gate ∧ (s.spin v).mem = s.mem ∧ (s.spin v).pending = s.pending := by
  simp [State.spin]

@[simp] theorem State.park_frame (mode : ParkMode) (s : State) :
    (s.park mode).crystal = s.crystal ∧ (s.park mode).inReset = s.inReset ∧ (s.park mode).carriage =
      s.carriage ∧ (s.park mode).scan = s.scan ∧ (s.park mode).ring = s.ring ∧ (s.park mode).line =
      s.line ∧ (s.park mode).record = s.record ∧ (s.park mode).jobs = s.jobs ∧ (s.park mode).slips =
      s.slips ∧ (s.park mode).clock = s.clock ∧ (s.park mode).profile = s.profile ∧ (s.park
      mode).layout = s.layout ∧ (s.park mode).mailbox = s.mailbox ∧ (s.park mode).gate = s.gate ∧
      (s.park mode).mem = s.mem ∧ (s.park mode).pending = s.pending := by
  simp [State.park]

@[simp] theorem State.noteStart_frame (n : Nat) (e : DirEntry) (j : Job) (d : Dest) (s : State) :
    (s.noteStart n e j d).crystal = s.crystal ∧ (s.noteStart n e j d).inReset = s.inReset ∧
      (s.noteStart n e j d).drum = s.drum ∧ (s.noteStart n e j d).carriage = s.carriage ∧
      (s.noteStart n e j d).scan = s.scan ∧ (s.noteStart n e j d).ring = s.ring ∧ (s.noteStart n e j
      d).line = s.line ∧ (s.noteStart n e j d).slips = s.slips ∧ (s.noteStart n e j d).clock =
      s.clock ∧ (s.noteStart n e j d).profile = s.profile ∧ (s.noteStart n e j d).layout = s.layout
      ∧ (s.noteStart n e j d).mailbox = s.mailbox ∧ (s.noteStart n e j d).gate = s.gate ∧
      (s.noteStart n e j d).mem = s.mem ∧ (s.noteStart n e j d).pending = s.pending := by
  simp [State.noteStart]

@[simp] theorem State.beginAttempt_frame (words : List Word) (s : State) :
    (s.beginAttempt words).crystal = s.crystal ∧ (s.beginAttempt words).inReset = s.inReset ∧
      (s.beginAttempt words).ring = s.ring ∧ (s.beginAttempt words).slips = s.slips ∧
      (s.beginAttempt words).clock = s.clock ∧ (s.beginAttempt words).profile = s.profile ∧
      (s.beginAttempt words).layout = s.layout ∧ (s.beginAttempt words).mailbox = s.mailbox ∧
      (s.beginAttempt words).gate = s.gate ∧ (s.beginAttempt words).mem = s.mem ∧ (s.beginAttempt
      words).pending = s.pending := by
  unfold State.beginAttempt
  (repeat' split) <;> simp

@[simp] theorem State.enterFinishing_frame (s : State) :
    s.enterFinishing.crystal = s.crystal ∧ s.enterFinishing.inReset = s.inReset ∧
      s.enterFinishing.drum = s.drum ∧ s.enterFinishing.carriage = s.carriage ∧
      s.enterFinishing.scan = s.scan ∧ s.enterFinishing.ring = s.ring ∧ s.enterFinishing.line =
      s.line ∧ s.enterFinishing.record = s.record ∧ s.enterFinishing.slips = s.slips ∧
      s.enterFinishing.clock = s.clock ∧ s.enterFinishing.profile = s.profile ∧
      s.enterFinishing.layout = s.layout ∧ s.enterFinishing.mailbox = s.mailbox ∧
      s.enterFinishing.mem = s.mem ∧ s.enterFinishing.pending = s.pending := by
  unfold State.enterFinishing
  split <;> simp

@[simp] theorem State.finalizeJob_frame (cause : Cause) (s : State) :
    (s.finalizeJob cause).crystal = s.crystal ∧ (s.finalizeJob cause).inReset = s.inReset ∧
      (s.finalizeJob cause).drum = s.drum ∧ (s.finalizeJob cause).line = s.line ∧ (s.finalizeJob
      cause).record = s.record ∧ (s.finalizeJob cause).slips = s.slips ∧ (s.finalizeJob
      cause).clock = s.clock ∧ (s.finalizeJob cause).profile = s.profile ∧ (s.finalizeJob
      cause).layout = s.layout ∧ (s.finalizeJob cause).mailbox = s.mailbox ∧ (s.finalizeJob
      cause).mem = s.mem ∧ (s.finalizeJob cause).pending = s.pending := by
  simp [State.finalizeJob]

@[simp] theorem State.issueHistory_frame (s : State) :
    s.issueHistory.crystal = s.crystal ∧ s.issueHistory.inReset = s.inReset ∧ s.issueHistory.drum =
      s.drum ∧ s.issueHistory.carriage = s.carriage ∧ s.issueHistory.scan = s.scan ∧
      s.issueHistory.ring = s.ring ∧ s.issueHistory.line = s.line ∧ s.issueHistory.record = s.record
      ∧ s.issueHistory.jobs = s.jobs ∧ s.issueHistory.slips = s.slips ∧ s.issueHistory.clock =
      s.clock ∧ s.issueHistory.profile = s.profile ∧ s.issueHistory.layout = s.layout ∧
      s.issueHistory.mailbox = s.mailbox ∧ s.issueHistory.mem = s.mem ∧ s.issueHistory.pending =
      s.pending := by
  simp [State.issueHistory]

@[simp] theorem State.settle_frame (s : State) :
    s.settle.crystal = s.crystal ∧ s.settle.inReset = s.inReset ∧ s.settle.line = s.line ∧
      s.settle.record = s.record ∧ s.settle.slips = s.slips ∧ s.settle.clock = s.clock ∧
      s.settle.profile = s.profile ∧ s.settle.layout = s.layout ∧ s.settle.mailbox = s.mailbox ∧
      s.settle.mem = s.mem ∧ s.settle.pending = s.pending := by
  unfold State.settle
  dsimp only
  (repeat' split) <;> simp

@[simp] theorem State.endLate_frame (base : Nat) (cause : Cause) (s : State) :
    (s.endLate base cause).crystal = s.crystal ∧ (s.endLate base cause).inReset = s.inReset ∧
      (s.endLate base cause).line = s.line ∧ (s.endLate base cause).record = s.record ∧ (s.endLate
      base cause).slips = s.slips ∧ (s.endLate base cause).clock = s.clock ∧ (s.endLate base
      cause).profile = s.profile ∧ (s.endLate base cause).layout = s.layout ∧ (s.endLate base
      cause).mem = s.mem ∧ (s.endLate base cause).pending = s.pending := by
  unfold State.endLate
  dsimp only
  (repeat' split) <;> simp

@[simp] theorem State.afterRecord_frame (b : Nat) (o : AttemptOutcome) (s : State) :
    (s.afterRecord b o).crystal = s.crystal ∧ (s.afterRecord b o).inReset = s.inReset ∧ (s.afterRecord b o).line = s.line ∧ (s.afterRecord b o).record = s.record ∧ (s.afterRecord b o).slips = s.slips ∧
      (s.afterRecord b o).clock = s.clock ∧ (s.afterRecord b o).profile = s.profile ∧ (s.afterRecord b o).layout = s.layout ∧ (s.afterRecord b o).mem = s.mem ∧ (s.afterRecord b o).pending = s.pending := by
  unfold State.afterRecord
  (repeat' split) <;> simp

@[simp] theorem State.takeRecord_frame (s : State) :
    s.takeRecord.crystal = s.crystal ∧ s.takeRecord.inReset = s.inReset ∧ s.takeRecord.line =
      s.line ∧ s.takeRecord.record = s.record ∧ s.takeRecord.slips = s.slips ∧ s.takeRecord.clock
      = s.clock ∧ s.takeRecord.profile = s.profile ∧ s.takeRecord.layout = s.layout ∧
      s.takeRecord.mem = s.mem ∧ s.takeRecord.pending = s.pending := by
  unfold State.takeRecord
  split <;> simp

@[simp] theorem State.settleDrum_frame (s : State) :
    s.settleDrum.crystal = s.crystal ∧ s.settleDrum.inReset = s.inReset ∧ s.settleDrum.carriage =
      s.carriage ∧ s.settleDrum.scan = s.scan ∧ s.settleDrum.ring = s.ring ∧ s.settleDrum.line =
      s.line ∧ s.settleDrum.record = s.record ∧ s.settleDrum.slips = s.slips ∧ s.settleDrum.clock =
      s.clock ∧ s.settleDrum.profile = s.profile ∧ s.settleDrum.layout = s.layout ∧
      s.settleDrum.mailbox = s.mailbox ∧ s.settleDrum.gate = s.gate ∧ s.settleDrum.mem = s.mem ∧
      s.settleDrum.pending = s.pending := by
  unfold State.settleDrum
  (repeat' split) <;> simp

@[simp] theorem State.finishJob_frame (s : State) :
    s.finishJob.crystal = s.crystal ∧ s.finishJob.inReset = s.inReset ∧ s.finishJob.line = s.line
      ∧ s.finishJob.record = s.record ∧ s.finishJob.slips = s.slips ∧ s.finishJob.clock = s.clock
      ∧ s.finishJob.profile = s.profile ∧ s.finishJob.layout = s.layout ∧ s.finishJob.mem = s.mem
      ∧ s.finishJob.pending = s.pending := by
  unfold State.finishJob
  split <;> simp

@[simp] theorem State.tick_frame (s : State) :
    s.tick.crystal = s.crystal ∧ s.tick.inReset = s.inReset ∧ s.tick.drum = s.drum ∧ s.tick.carriage
      = s.carriage ∧ s.tick.scan = s.scan ∧ s.tick.ring = s.ring ∧ s.tick.line = s.line ∧
      s.tick.record = s.record ∧ s.tick.slips = s.slips ∧ s.tick.profile = s.profile ∧ s.tick.layout
      = s.layout ∧ s.tick.mailbox = s.mailbox ∧ s.tick.mem = s.mem ∧ s.tick.pending = s.pending := by
  simp [State.tick]

/-! ## Attempts -/

@[simp] theorem State.composeSlip_frame (s : State) :
    s.composeSlip.crystal = s.crystal ∧ s.composeSlip.inReset = s.inReset ∧ s.composeSlip.drum =
      s.drum ∧ s.composeSlip.carriage = s.carriage ∧ s.composeSlip.scan = s.scan ∧
      s.composeSlip.ring = s.ring ∧ s.composeSlip.line = s.line ∧ s.composeSlip.record = s.record ∧
      s.composeSlip.jobs = s.jobs ∧ s.composeSlip.clock = s.clock ∧ s.composeSlip.profile =
      s.profile ∧ s.composeSlip.layout = s.layout ∧ s.composeSlip.mailbox = s.mailbox ∧
      s.composeSlip.gate = s.gate ∧ s.composeSlip.mem = s.mem ∧ s.composeSlip.pending = s.pending := by
  simp [State.composeSlip]

@[simp] theorem State.endAttempt_frame (o : AttemptOutcome) (d : Detail) (tone : Bool) (s : State) :
    (s.endAttempt o d tone).crystal = s.crystal ∧ (s.endAttempt o d tone).inReset = s.inReset ∧
      (s.endAttempt o d tone).clock = s.clock ∧ (s.endAttempt o d tone).profile = s.profile ∧
      (s.endAttempt o d tone).layout = s.layout ∧ (s.endAttempt o d tone).mem = s.mem ∧
      (s.endAttempt o d tone).pending = s.pending := by
  simp [State.endAttempt]

@[simp] theorem State.cut_frame (cause : Cause) (s : State) :
    (s.cut cause).crystal = s.crystal ∧ (s.cut cause).inReset = s.inReset ∧ (s.cut cause).clock =
      s.clock ∧ (s.cut cause).profile = s.profile ∧ (s.cut cause).layout = s.layout ∧ (s.cut
      cause).mem = s.mem ∧ (s.cut cause).pending = s.pending := by
  unfold State.cut
  (repeat' split) <;> simp

@[simp] theorem State.takeBandLost_frame (s : State) :
    s.takeBandLost.crystal = s.crystal ∧ s.takeBandLost.inReset = s.inReset ∧ s.takeBandLost.clock
      = s.clock ∧ s.takeBandLost.profile = s.profile ∧ s.takeBandLost.layout = s.layout ∧
      s.takeBandLost.mem = s.mem ∧ s.takeBandLost.pending = s.pending := by
  unfold State.takeBandLost
  (repeat' split) <;> simp

@[simp] theorem State.endJob_frame (cause : Cause) (bandLostFirst : Bool) (s : State) :
    (s.endJob cause bandLostFirst).crystal = s.crystal ∧ (s.endJob cause bandLostFirst).inReset =
      s.inReset ∧ (s.endJob cause bandLostFirst).clock = s.clock ∧ (s.endJob cause
      bandLostFirst).profile = s.profile ∧ (s.endJob cause bandLostFirst).layout = s.layout ∧
      (s.endJob cause bandLostFirst).mem = s.mem ∧ (s.endJob cause bandLostFirst).pending =
      s.pending := by
  unfold State.endJob
  dsimp only
  (repeat' split) <;> simp

@[simp] theorem State.causeLate_frame (cause : Cause) (ahead : Option Nat) (s : State) :
    (s.causeLate cause ahead).crystal = s.crystal ∧ (s.causeLate cause ahead).inReset = s.inReset
      ∧ (s.causeLate cause ahead).drum = s.drum ∧ (s.causeLate cause ahead).carriage = s.carriage
      ∧ (s.causeLate cause ahead).scan = s.scan ∧ (s.causeLate cause ahead).ring = s.ring ∧
      (s.causeLate cause ahead).line = s.line ∧ (s.causeLate cause ahead).record = s.record ∧
      (s.causeLate cause ahead).slips = s.slips ∧ (s.causeLate cause ahead).clock = s.clock ∧
      (s.causeLate cause ahead).profile = s.profile ∧ (s.causeLate cause ahead).layout = s.layout
      ∧ (s.causeLate cause ahead).mailbox = s.mailbox ∧ (s.causeLate cause ahead).mem = s.mem ∧
      (s.causeLate cause ahead).pending = s.pending ∧ (s.causeLate cause ahead).gate = s.gate := by
  simp [State.causeLate]

@[simp] theorem State.endJobAs_frame (late : Bool) (cause : Cause) (s : State) :
    (s.endJobAs late cause).crystal = s.crystal ∧ (s.endJobAs late cause).inReset = s.inReset ∧
      (s.endJobAs late cause).clock = s.clock ∧ (s.endJobAs late cause).profile = s.profile ∧
      (s.endJobAs late cause).layout = s.layout ∧ (s.endJobAs late cause).mem = s.mem ∧
      (s.endJobAs late cause).pending = s.pending := by
  unfold State.endJobAs
  split <;> simp

@[simp] theorem State.completeEnd_frame (s : State) :
    (s.completeEnd).crystal = s.crystal ∧ (s.completeEnd).inReset = s.inReset ∧
      (s.completeEnd).clock = s.clock ∧ (s.completeEnd).profile = s.profile ∧
      (s.completeEnd).layout = s.layout ∧ (s.completeEnd).mem = s.mem ∧ (s.completeEnd).pending =
      s.pending := by
  unfold State.completeEnd
  dsimp only
  (repeat' split) <;> simp

@[simp] theorem State.takeCarriageFault_frame (s : State) :
    (s.takeCarriageFault).crystal = s.crystal ∧ (s.takeCarriageFault).inReset = s.inReset ∧
      (s.takeCarriageFault).clock = s.clock ∧ (s.takeCarriageFault).profile = s.profile ∧
      (s.takeCarriageFault).layout = s.layout ∧ (s.takeCarriageFault).mem = s.mem ∧
      (s.takeCarriageFault).pending = s.pending := by
  unfold State.takeCarriageFault
  dsimp only
  (repeat' split) <;> simp

@[simp] theorem State.deliver_frame (s : State) :
    s.deliver.crystal = s.crystal ∧ s.deliver.inReset = s.inReset ∧ s.deliver.clock = s.clock ∧
      s.deliver.profile = s.profile ∧ s.deliver.layout = s.layout ∧ s.deliver.mem = s.mem ∧
      s.deliver.pending = s.pending := by
  simp [State.deliver]

@[simp] theorem State.drumFault_frame (kind : DrumFault) (s : State) :
    (s.drumFault kind).crystal = s.crystal ∧ (s.drumFault kind).inReset = s.inReset ∧ (s.drumFault
      kind).clock = s.clock ∧ (s.drumFault kind).profile = s.profile ∧ (s.drumFault kind).layout =
      s.layout ∧ (s.drumFault kind).mem = s.mem ∧ (s.drumFault kind).pending = s.pending := by
  unfold State.drumFault
  dsimp only
  split <;> simp

@[simp] theorem State.drumNotReady_frame (s : State) :
    s.drumNotReady.crystal = s.crystal ∧ s.drumNotReady.inReset = s.inReset ∧ s.drumNotReady.clock
      = s.clock ∧ s.drumNotReady.profile = s.profile ∧ s.drumNotReady.layout = s.layout ∧
      s.drumNotReady.mem = s.mem ∧ s.drumNotReady.pending = s.pending := by
  simp [State.drumNotReady]

@[simp] theorem State.sendTurn_frame (s : State) :
    s.sendTurn.crystal = s.crystal ∧ s.sendTurn.inReset = s.inReset ∧ s.sendTurn.clock = s.clock ∧
      s.sendTurn.profile = s.profile ∧ s.sendTurn.layout = s.layout ∧ s.sendTurn.mem = s.mem ∧
      s.sendTurn.pending = s.pending := by
  unfold State.sendTurn
  (repeat' split) <;> simp

@[simp] theorem State.whiteTurn_frame (begins : Bool) (s : State) :
    (s.whiteTurn begins).crystal = s.crystal ∧ (s.whiteTurn begins).inReset = s.inReset ∧
      (s.whiteTurn begins).clock = s.clock ∧ (s.whiteTurn begins).profile = s.profile ∧
      (s.whiteTurn begins).layout = s.layout ∧ (s.whiteTurn begins).mem = s.mem ∧ (s.whiteTurn
      begins).pending = s.pending := by
  unfold State.whiteTurn
  split <;> simp

@[simp] theorem State.askFrames_frame (begins : Bool) (fuel : Nat) (s : State) :
    (State.askFrames begins fuel s).crystal = s.crystal ∧ (State.askFrames begins fuel s).inReset
      = s.inReset ∧ (State.askFrames begins fuel s).clock = s.clock ∧ (State.askFrames begins fuel
      s).profile = s.profile ∧ (State.askFrames begins fuel s).layout = s.layout ∧
      (State.askFrames begins fuel s).mem = s.mem ∧ (State.askFrames begins fuel s).pending =
      s.pending := by
  induction fuel generalizing s with
  | zero => simp [State.askFrames]
  | succ fuel ih =>
    unfold State.askFrames
    dsimp only
    (repeat' split) <;> simp [ih]

@[simp] theorem State.enterSeparator_frame (s : State) :
    s.enterSeparator.crystal = s.crystal ∧ s.enterSeparator.inReset = s.inReset ∧
      s.enterSeparator.clock = s.clock ∧ s.enterSeparator.profile = s.profile ∧
      s.enterSeparator.layout = s.layout ∧ s.enterSeparator.mem = s.mem ∧ s.enterSeparator.pending
      = s.pending := by
  simp [State.enterSeparator]

@[simp] theorem State.pictureTurn_frame (s : State) :
    s.pictureTurn.crystal = s.crystal ∧ s.pictureTurn.inReset = s.inReset ∧ s.pictureTurn.clock =
      s.clock ∧ s.pictureTurn.profile = s.profile ∧ s.pictureTurn.layout = s.layout ∧
      s.pictureTurn.mem = s.mem ∧ s.pictureTurn.pending = s.pending := by
  unfold State.pictureTurn
  dsimp only
  (repeat' split) <;> simp

@[simp] theorem State.nextPhasingTurn_frame (s : State) :
    s.nextPhasingTurn.crystal = s.crystal ∧ s.nextPhasingTurn.inReset = s.inReset ∧
      s.nextPhasingTurn.clock = s.clock ∧ s.nextPhasingTurn.profile = s.profile ∧
      s.nextPhasingTurn.layout = s.layout ∧ s.nextPhasingTurn.mem = s.mem ∧
      s.nextPhasingTurn.pending = s.pending := by
  unfold State.nextPhasingTurn
  dsimp only
  (repeat' split) <;> simp

@[simp] theorem State.lineIndex_frame (s : State) :
    s.lineIndex.crystal = s.crystal ∧ s.lineIndex.inReset = s.inReset ∧ s.lineIndex.clock =
      s.clock ∧ s.lineIndex.profile = s.profile ∧ s.lineIndex.layout = s.layout ∧ s.lineIndex.mem
      = s.mem ∧ s.lineIndex.pending = s.pending := by
  unfold State.lineIndex
  dsimp only
  (repeat' split) <;> simp

@[simp] theorem State.endPhasing_frame (s : State) :
    s.endPhasing.crystal = s.crystal ∧ s.endPhasing.inReset = s.inReset ∧ s.endPhasing.clock =
      s.clock ∧ s.endPhasing.profile = s.profile ∧ s.endPhasing.layout = s.layout ∧
      s.endPhasing.mem = s.mem ∧ s.endPhasing.pending = s.pending := by
  unfold State.endPhasing
  split <;> simp

@[simp] theorem State.index_frame (scanFirst : Bool) (s : State) :
    (s.index scanFirst).crystal = s.crystal ∧ (s.index scanFirst).inReset = s.inReset ∧ (s.index
      scanFirst).clock = s.clock ∧ (s.index scanFirst).profile = s.profile ∧ (s.index
      scanFirst).layout = s.layout ∧ (s.index scanFirst).mem = s.mem ∧ (s.index scanFirst).pending
      = s.pending := by
  unfold State.index
  (repeat' split) <;> simp

@[simp] theorem State.fallSlot_frame (n k i : Nat) (cell : Sample) (s : State) :
    (s.fallSlot n k i cell).crystal = s.crystal ∧ (s.fallSlot n k i cell).inReset = s.inReset ∧
      (s.fallSlot n k i cell).drum = s.drum ∧ (s.fallSlot n k i cell).carriage = s.carriage ∧
      (s.fallSlot n k i cell).jobs = s.jobs ∧ (s.fallSlot n k i cell).slips = s.slips ∧ (s.fallSlot
      n k i cell).clock = s.clock ∧ (s.fallSlot n k i cell).profile = s.profile ∧ (s.fallSlot n k i
      cell).layout = s.layout ∧ (s.fallSlot n k i cell).mailbox = s.mailbox ∧ (s.fallSlot n k i
      cell).gate = s.gate ∧ (s.fallSlot n k i cell).mem = s.mem ∧ (s.fallSlot n k i cell).pending =
      s.pending := by
  simp [State.fallSlot]

@[simp] theorem State.lateSlots_frame (n k : Nat) (cells : Cells) (is : List Nat) (s : State) :
    (State.lateSlots n k cells is s).crystal = s.crystal ∧ (State.lateSlots n k cells is s).inReset
      = s.inReset ∧ (State.lateSlots n k cells is s).drum = s.drum ∧ (State.lateSlots n k cells is
      s).carriage = s.carriage ∧ (State.lateSlots n k cells is s).jobs = s.jobs ∧ (State.lateSlots n
      k cells is s).slips = s.slips ∧ (State.lateSlots n k cells is s).clock = s.clock ∧
      (State.lateSlots n k cells is s).profile = s.profile ∧ (State.lateSlots n k cells is s).layout
      = s.layout ∧ (State.lateSlots n k cells is s).mailbox = s.mailbox ∧ (State.lateSlots n k cells
      is s).gate = s.gate ∧ (State.lateSlots n k cells is s).mem = s.mem ∧ (State.lateSlots n k
      cells is s).pending = s.pending := by
  induction is generalizing s with
  | nil => simp [State.lateSlots]
  | cons i is ih => simp [State.lateSlots, ih]

@[simp] theorem State.closeInterval_frame (cells : Cells) (s : State) :
    (s.closeInterval cells).crystal = s.crystal ∧ (s.closeInterval cells).inReset = s.inReset ∧
      (s.closeInterval cells).drum = s.drum ∧ (s.closeInterval cells).carriage = s.carriage ∧
      (s.closeInterval cells).jobs = s.jobs ∧ (s.closeInterval cells).slips = s.slips ∧
      (s.closeInterval cells).clock = s.clock ∧ (s.closeInterval cells).profile = s.profile ∧
      (s.closeInterval cells).layout = s.layout ∧ (s.closeInterval cells).mailbox = s.mailbox ∧
      (s.closeInterval cells).gate = s.gate ∧ (s.closeInterval cells).mem = s.mem ∧ (s.closeInterval
      cells).pending = s.pending := by
  unfold State.closeInterval
  dsimp only
  (repeat' split) <;> simp

@[simp] theorem State.phasingWhite_frame (s : State) :
    s.phasingWhite.crystal = s.crystal ∧ s.phasingWhite.inReset = s.inReset ∧ s.phasingWhite.drum =
      s.drum ∧ s.phasingWhite.carriage = s.carriage ∧ s.phasingWhite.scan = s.scan ∧
      s.phasingWhite.ring = s.ring ∧ s.phasingWhite.record = s.record ∧ s.phasingWhite.jobs = s.jobs
      ∧ s.phasingWhite.slips = s.slips ∧ s.phasingWhite.clock = s.clock ∧ s.phasingWhite.profile =
      s.profile ∧ s.phasingWhite.layout = s.layout ∧ s.phasingWhite.mailbox = s.mailbox ∧
      s.phasingWhite.gate = s.gate ∧ s.phasingWhite.mem = s.mem ∧ s.phasingWhite.pending = s.pending := by
  unfold State.phasingWhite
  split <;> simp

@[simp] theorem State.tachEvent_frame (cells : Cells) (scanFirst : Bool) (s : State) :
    (s.tachEvent cells scanFirst).crystal = s.crystal ∧ (s.tachEvent cells scanFirst).inReset =
      s.inReset ∧ (s.tachEvent cells scanFirst).clock = s.clock ∧ (s.tachEvent cells
      scanFirst).profile = s.profile ∧ (s.tachEvent cells scanFirst).layout = s.layout ∧
      (s.tachEvent cells scanFirst).mem = s.mem ∧ (s.tachEvent cells scanFirst).pending =
      s.pending := by
  unfold State.tachEvent
  dsimp only
  (repeat' split) <;> simp

@[simp] theorem State.repeatAsked_frame (s : State) :
    s.repeatAsked.crystal = s.crystal ∧ s.repeatAsked.inReset = s.inReset ∧ s.repeatAsked.drum =
      s.drum ∧ s.repeatAsked.carriage = s.carriage ∧ s.repeatAsked.scan = s.scan ∧
      s.repeatAsked.jobs = s.jobs ∧ s.repeatAsked.slips = s.slips ∧ s.repeatAsked.clock = s.clock ∧
      s.repeatAsked.profile = s.profile ∧ s.repeatAsked.layout = s.layout ∧ s.repeatAsked.mailbox =
      s.mailbox ∧ s.repeatAsked.gate = s.gate ∧ s.repeatAsked.mem = s.mem ∧ s.repeatAsked.pending =
      s.pending := by
  unfold State.repeatAsked
  dsimp only
  split <;> simp

@[simp] theorem State.answer_frame (s : State) :
    s.answer.crystal = s.crystal ∧ s.answer.inReset = s.inReset ∧ s.answer.drum = s.drum ∧
      s.answer.carriage = s.carriage ∧ s.answer.scan = s.scan ∧ s.answer.ring = s.ring ∧
      s.answer.jobs = s.jobs ∧ s.answer.slips = s.slips ∧ s.answer.clock = s.clock ∧
      s.answer.profile = s.profile ∧ s.answer.layout = s.layout ∧ s.answer.mailbox = s.mailbox ∧
      s.answer.gate = s.gate ∧ s.answer.mem = s.mem ∧ s.answer.pending = s.pending := by
  simp [State.answer]

@[simp] theorem State.actOnTone_frame (tone : Tone) (s : State) :
    (s.actOnTone tone).crystal = s.crystal ∧ (s.actOnTone tone).inReset = s.inReset ∧ (s.actOnTone
      tone).clock = s.clock ∧ (s.actOnTone tone).profile = s.profile ∧ (s.actOnTone tone).layout =
      s.layout ∧ (s.actOnTone tone).mem = s.mem ∧ (s.actOnTone tone).pending = s.pending := by
  unfold State.actOnTone
  split <;> simp

@[simp] theorem State.loseLine_frame (s : State) :
    s.loseLine.crystal = s.crystal ∧ s.loseLine.inReset = s.inReset ∧ s.loseLine.clock = s.clock ∧
      s.loseLine.profile = s.profile ∧ s.loseLine.layout = s.layout ∧ s.loseLine.mem = s.mem ∧
      s.loseLine.pending = s.pending := by
  unfold State.loseLine
  (repeat' split) <;> simp

@[simp] theorem State.lineRests_frame (s : State) :
    s.lineRests.crystal = s.crystal ∧ s.lineRests.inReset = s.inReset ∧ s.lineRests.drum = s.drum ∧
      s.lineRests.carriage = s.carriage ∧ s.lineRests.scan = s.scan ∧ s.lineRests.ring = s.ring ∧
      s.lineRests.record = s.record ∧ s.lineRests.slips = s.slips ∧ s.lineRests.clock = s.clock ∧
      s.lineRests.profile = s.profile ∧ s.lineRests.layout = s.layout ∧ s.lineRests.mailbox =
      s.mailbox ∧ s.lineRests.mem = s.mem ∧ s.lineRests.pending = s.pending := by
  simp [State.lineRests]

@[simp] theorem State.clampOpen_frame (b c : Bool) (s : State) :
    (s.clampOpen b c).crystal = s.crystal ∧ (s.clampOpen b c).inReset = s.inReset ∧ (s.clampOpen b
      c).clock = s.clock ∧ (s.clampOpen b c).profile = s.profile ∧ (s.clampOpen b c).layout =
      s.layout ∧ (s.clampOpen b c).mem = s.mem ∧ (s.clampOpen b c).pending = s.pending := by
  unfold State.clampOpen
  dsimp only
  (repeat' split) <;> simp

/-! ## Layout and Profile -/

@[simp] theorem State.refuseCapture_frame (w : Nat) (kind : CaptureRefusal) (s : State) :
    (s.refuseCapture w kind).crystal = s.crystal ∧ (s.refuseCapture w kind).inReset = s.inReset ∧
      (s.refuseCapture w kind).drum = s.drum ∧ (s.refuseCapture w kind).carriage = s.carriage ∧
      (s.refuseCapture w kind).scan = s.scan ∧ (s.refuseCapture w kind).ring = s.ring ∧
      (s.refuseCapture w kind).line = s.line ∧ (s.refuseCapture w kind).record = s.record ∧
      (s.refuseCapture w kind).jobs = s.jobs ∧ (s.refuseCapture w kind).slips = s.slips ∧
      (s.refuseCapture w kind).clock = s.clock ∧ (s.refuseCapture w kind).profile = s.profile ∧
      (s.refuseCapture w kind).mailbox = s.mailbox ∧ (s.refuseCapture w kind).gate = s.gate ∧
      (s.refuseCapture w kind).mem = s.mem ∧ (s.refuseCapture w kind).pending = s.pending := by
  simp [State.refuseCapture]

@[simp] theorem State.takeProfile_frame (p : Profile) (s : State) :
    (s.takeProfile p).crystal = s.crystal ∧ (s.takeProfile p).inReset = s.inReset ∧ (s.takeProfile
      p).carriage = s.carriage ∧ (s.takeProfile p).scan = s.scan ∧ (s.takeProfile p).ring = s.ring ∧
      (s.takeProfile p).line = s.line ∧ (s.takeProfile p).record = s.record ∧ (s.takeProfile p).jobs
      = s.jobs ∧ (s.takeProfile p).slips = s.slips ∧ (s.takeProfile p).clock = s.clock ∧
      (s.takeProfile p).layout = s.layout ∧ (s.takeProfile p).mailbox = s.mailbox ∧ (s.takeProfile
      p).gate = s.gate ∧ (s.takeProfile p).mem = s.mem ∧ (s.takeProfile p).pending = s.pending := by
  simp [State.takeProfile]

@[simp] theorem State.tryCapture_frame (w : Nat) (data : Word) (be : ByteEnables) (s : State) :
    (s.tryCapture w data be).crystal = s.crystal ∧ (s.tryCapture w data be).inReset = s.inReset ∧
      (s.tryCapture w data be).carriage = s.carriage ∧ (s.tryCapture w data be).scan = s.scan ∧
      (s.tryCapture w data be).ring = s.ring ∧ (s.tryCapture w data be).line = s.line ∧
      (s.tryCapture w data be).record = s.record ∧ (s.tryCapture w data be).jobs = s.jobs ∧
      (s.tryCapture w data be).slips = s.slips ∧ (s.tryCapture w data be).clock = s.clock ∧
      (s.tryCapture w data be).mailbox = s.mailbox ∧ (s.tryCapture w data be).gate = s.gate ∧
      (s.tryCapture w data be).mem = s.mem ∧ (s.tryCapture w data be).pending = s.pending := by
  unfold State.tryCapture
  (repeat' split) <;> simp

@[simp] theorem State.popLayout_frame (s : State) :
    s.popLayout.crystal = s.crystal ∧ s.popLayout.inReset = s.inReset ∧ s.popLayout.drum = s.drum ∧
      s.popLayout.carriage = s.carriage ∧ s.popLayout.scan = s.scan ∧ s.popLayout.ring = s.ring ∧
      s.popLayout.line = s.line ∧ s.popLayout.record = s.record ∧ s.popLayout.jobs = s.jobs ∧
      s.popLayout.slips = s.slips ∧ s.popLayout.clock = s.clock ∧ s.popLayout.profile = s.profile ∧
      s.popLayout.layout = s.layout ∧ s.popLayout.mailbox = s.mailbox ∧ s.popLayout.mem = s.mem ∧
      s.popLayout.pending = s.pending := by
  simp [State.popLayout]

@[simp] theorem State.beginLoad_frame (s : State) :
    s.beginLoad.crystal = s.crystal ∧ s.beginLoad.inReset = s.inReset ∧ s.beginLoad.drum = s.drum ∧
      s.beginLoad.carriage = s.carriage ∧ s.beginLoad.scan = s.scan ∧ s.beginLoad.ring = s.ring ∧
      s.beginLoad.line = s.line ∧ s.beginLoad.record = s.record ∧ s.beginLoad.jobs = s.jobs ∧
      s.beginLoad.slips = s.slips ∧ s.beginLoad.clock = s.clock ∧ s.beginLoad.profile = s.profile ∧
      s.beginLoad.mailbox = s.mailbox ∧ s.beginLoad.mem = s.mem ∧ s.beginLoad.pending = s.pending := by
  simp [State.beginLoad]

@[simp] theorem State.endLoad_frame (result : LoadResult) (reason : Option LoadReason) (s : State) :
    (s.endLoad result reason).crystal = s.crystal ∧ (s.endLoad result reason).inReset = s.inReset ∧
      (s.endLoad result reason).drum = s.drum ∧ (s.endLoad result reason).carriage = s.carriage ∧
      (s.endLoad result reason).scan = s.scan ∧ (s.endLoad result reason).ring = s.ring ∧ (s.endLoad
      result reason).line = s.line ∧ (s.endLoad result reason).record = s.record ∧ (s.endLoad result
      reason).jobs = s.jobs ∧ (s.endLoad result reason).slips = s.slips ∧ (s.endLoad result
      reason).clock = s.clock ∧ (s.endLoad result reason).profile = s.profile ∧ (s.endLoad result
      reason).mailbox = s.mailbox ∧ (s.endLoad result reason).mem = s.mem ∧ (s.endLoad result
      reason).pending = s.pending := by
  unfold State.endLoad
  dsimp only
  (repeat' split) <;> simp

@[simp] theorem State.takeLayout_frame (l : Layout) (s : State) :
    (s.takeLayout l).crystal = s.crystal ∧ (s.takeLayout l).inReset = s.inReset ∧ (s.takeLayout
      l).drum = s.drum ∧ (s.takeLayout l).carriage = s.carriage ∧ (s.takeLayout l).scan = s.scan ∧
      (s.takeLayout l).line = s.line ∧ (s.takeLayout l).record = s.record ∧ (s.takeLayout l).jobs =
      s.jobs ∧ (s.takeLayout l).clock = s.clock ∧ (s.takeLayout l).profile = s.profile ∧
      (s.takeLayout l).mem = s.mem ∧ (s.takeLayout l).pending = s.pending := by
  simp [State.takeLayout]

@[simp] theorem State.endProfileLoad_frame (l : Layout) (s : State) :
    (s.endProfileLoad l).crystal = s.crystal ∧ (s.endProfileLoad l).inReset = s.inReset ∧
      (s.endProfileLoad l).drum = s.drum ∧ (s.endProfileLoad l).carriage = s.carriage ∧
      (s.endProfileLoad l).scan = s.scan ∧ (s.endProfileLoad l).line = s.line ∧ (s.endProfileLoad
      l).record = s.record ∧ (s.endProfileLoad l).jobs = s.jobs ∧ (s.endProfileLoad l).clock =
      s.clock ∧ (s.endProfileLoad l).profile = s.profile ∧ (s.endProfileLoad l).mem = s.mem ∧
      (s.endProfileLoad l).pending = s.pending := by
  unfold State.endProfileLoad
  split <;> simp

@[simp] theorem State.endOfProfile_frame (s : State) :
    s.endOfProfile.crystal = s.crystal ∧ s.endOfProfile.inReset = s.inReset ∧ s.endOfProfile.drum =
      s.drum ∧ s.endOfProfile.carriage = s.carriage ∧ s.endOfProfile.scan = s.scan ∧
      s.endOfProfile.line = s.line ∧ s.endOfProfile.record = s.record ∧ s.endOfProfile.jobs = s.jobs
      ∧ s.endOfProfile.clock = s.clock ∧ s.endOfProfile.profile = s.profile ∧ s.endOfProfile.mem =
      s.mem ∧ s.endOfProfile.pending = s.pending := by
  unfold State.endOfProfile
  split <;> simp

@[simp] theorem State.blockArrived_frame (words : List Word) (s : State) :
    (s.blockArrived words).crystal = s.crystal ∧ (s.blockArrived words).inReset = s.inReset ∧
      (s.blockArrived words).drum = s.drum ∧ (s.blockArrived words).carriage = s.carriage ∧
      (s.blockArrived words).scan = s.scan ∧ (s.blockArrived words).ring = s.ring ∧ (s.blockArrived
      words).line = s.line ∧ (s.blockArrived words).record = s.record ∧ (s.blockArrived words).jobs
      = s.jobs ∧ (s.blockArrived words).slips = s.slips ∧ (s.blockArrived words).clock = s.clock ∧
      (s.blockArrived words).profile = s.profile ∧ (s.blockArrived words).mailbox = s.mailbox ∧
      (s.blockArrived words).mem = s.mem ∧ (s.blockArrived words).pending = s.pending := by
  unfold State.blockArrived
  split <;> simp

@[simp] theorem State.profileArrived_frame (w : Nat) (data : Word) (s : State) :
    (s.profileArrived w data).crystal = s.crystal ∧ (s.profileArrived w data).inReset = s.inReset ∧
      (s.profileArrived w data).carriage = s.carriage ∧ (s.profileArrived w data).scan = s.scan ∧
      (s.profileArrived w data).ring = s.ring ∧ (s.profileArrived w data).line = s.line ∧
      (s.profileArrived w data).record = s.record ∧ (s.profileArrived w data).jobs = s.jobs ∧
      (s.profileArrived w data).slips = s.slips ∧ (s.profileArrived w data).clock = s.clock ∧
      (s.profileArrived w data).mailbox = s.mailbox ∧ (s.profileArrived w data).gate = s.gate ∧
      (s.profileArrived w data).mem = s.mem ∧ (s.profileArrived w data).pending = s.pending := by
  unfold State.profileArrived
  split <;> simp

@[simp] theorem State.generationWritten_frame (s : State) :
    s.generationWritten.crystal = s.crystal ∧ s.generationWritten.inReset = s.inReset ∧
      s.generationWritten.drum = s.drum ∧ s.generationWritten.carriage = s.carriage ∧
      s.generationWritten.scan = s.scan ∧ s.generationWritten.ring = s.ring ∧
      s.generationWritten.line = s.line ∧ s.generationWritten.record = s.record ∧
      s.generationWritten.jobs = s.jobs ∧ s.generationWritten.slips = s.slips ∧
      s.generationWritten.clock = s.clock ∧ s.generationWritten.profile = s.profile ∧
      s.generationWritten.mailbox = s.mailbox ∧ s.generationWritten.mem = s.mem ∧
      s.generationWritten.pending = s.pending := by
  unfold State.generationWritten
  split <;> simp

@[simp] theorem State.clearCounters_frame (s : State) :
    s.clearCounters.crystal = s.crystal ∧ s.clearCounters.inReset = s.inReset ∧
      s.clearCounters.carriage = s.carriage ∧ s.clearCounters.line = s.line ∧ s.clearCounters.record
      = s.record ∧ s.clearCounters.clock = s.clock ∧ s.clearCounters.profile = s.profile ∧
      s.clearCounters.mailbox = s.mailbox ∧ s.clearCounters.mem = s.mem ∧ s.clearCounters.pending =
      s.pending := by
  simp [State.clearCounters]

@[simp] theorem State.clearDrum_frame (s : State) :
    s.clearDrum.crystal = s.crystal ∧ s.clearDrum.inReset = s.inReset ∧ s.clearDrum.carriage =
      s.carriage ∧ s.clearDrum.scan = s.scan ∧ s.clearDrum.ring = s.ring ∧ s.clearDrum.line = s.line
      ∧ s.clearDrum.record = s.record ∧ s.clearDrum.slips = s.slips ∧ s.clearDrum.clock = s.clock ∧
      s.clearDrum.profile = s.profile ∧ s.clearDrum.layout = s.layout ∧ s.clearDrum.mailbox =
      s.mailbox ∧ s.clearDrum.mem = s.mem ∧ s.clearDrum.pending = s.pending := by
  unfold State.clearDrum
  split <;> simp

/-! ## Chains and aborts -/

@[simp] theorem State.refuseChain_frame (head : Nat) (reason : RefusalReason) (s : State) :
    (s.refuseChain head reason).crystal = s.crystal ∧ (s.refuseChain head reason).inReset =
      s.inReset ∧ (s.refuseChain head reason).drum = s.drum ∧ (s.refuseChain head reason).carriage =
      s.carriage ∧ (s.refuseChain head reason).scan = s.scan ∧ (s.refuseChain head reason).ring =
      s.ring ∧ (s.refuseChain head reason).line = s.line ∧ (s.refuseChain head reason).record =
      s.record ∧ (s.refuseChain head reason).slips = s.slips ∧ (s.refuseChain head reason).clock =
      s.clock ∧ (s.refuseChain head reason).profile = s.profile ∧ (s.refuseChain head reason).layout
      = s.layout ∧ (s.refuseChain head reason).mem = s.mem ∧ (s.refuseChain head reason).pending =
      s.pending := by
  simp [State.refuseChain]

@[simp] theorem State.fetchMember_frame (head : Option ChainHead) (members : List Member) (a : Nat) (s : State) :
    (s.fetchMember head members a).crystal = s.crystal ∧ (s.fetchMember head members a).inReset =
      s.inReset ∧ (s.fetchMember head members a).drum = s.drum ∧ (s.fetchMember head members
      a).carriage = s.carriage ∧ (s.fetchMember head members a).scan = s.scan ∧ (s.fetchMember head
      members a).ring = s.ring ∧ (s.fetchMember head members a).line = s.line ∧ (s.fetchMember head
      members a).record = s.record ∧ (s.fetchMember head members a).slips = s.slips ∧ (s.fetchMember
      head members a).clock = s.clock ∧ (s.fetchMember head members a).profile = s.profile ∧
      (s.fetchMember head members a).layout = s.layout ∧ (s.fetchMember head members a).mem = s.mem
      ∧ (s.fetchMember head members a).pending = s.pending := by
  unfold State.fetchMember
  split <;> simp

@[simp] theorem State.endChain_frame (h : ChainHead) (members : List Member) (s : State) :
    (s.endChain h members).crystal = s.crystal ∧ (s.endChain h members).inReset = s.inReset ∧
      (s.endChain h members).drum = s.drum ∧ (s.endChain h members).carriage = s.carriage ∧
      (s.endChain h members).scan = s.scan ∧ (s.endChain h members).ring = s.ring ∧ (s.endChain h
      members).line = s.line ∧ (s.endChain h members).record = s.record ∧ (s.endChain h
      members).slips = s.slips ∧ (s.endChain h members).clock = s.clock ∧ (s.endChain h
      members).profile = s.profile ∧ (s.endChain h members).layout = s.layout ∧ (s.endChain h
      members).mem = s.mem ∧ (s.endChain h members).pending = s.pending := by
  unfold State.endChain
  split <;> simp

@[simp] theorem State.memberArrived_frame (words : List Word) (s : State) :
    (s.memberArrived words).crystal = s.crystal ∧ (s.memberArrived words).inReset = s.inReset ∧
      (s.memberArrived words).drum = s.drum ∧ (s.memberArrived words).carriage = s.carriage ∧
      (s.memberArrived words).scan = s.scan ∧ (s.memberArrived words).ring = s.ring ∧
      (s.memberArrived words).line = s.line ∧ (s.memberArrived words).record = s.record ∧
      (s.memberArrived words).slips = s.slips ∧ (s.memberArrived words).clock = s.clock ∧
      (s.memberArrived words).profile = s.profile ∧ (s.memberArrived words).layout = s.layout ∧
      (s.memberArrived words).mem = s.mem ∧ (s.memberArrived words).pending = s.pending := by
  unfold State.memberArrived
  dsimp only
  (repeat' split) <;> simp

@[simp] theorem State.abortNotFound_frame (a : Nat) (s : State) :
    (s.abortNotFound a).crystal = s.crystal ∧ (s.abortNotFound a).inReset = s.inReset ∧
      (s.abortNotFound a).drum = s.drum ∧ (s.abortNotFound a).carriage = s.carriage ∧
      (s.abortNotFound a).scan = s.scan ∧ (s.abortNotFound a).ring = s.ring ∧ (s.abortNotFound
      a).line = s.line ∧ (s.abortNotFound a).record = s.record ∧ (s.abortNotFound a).jobs = s.jobs ∧
      (s.abortNotFound a).slips = s.slips ∧ (s.abortNotFound a).clock = s.clock ∧ (s.abortNotFound
      a).profile = s.profile ∧ (s.abortNotFound a).layout = s.layout ∧ (s.abortNotFound a).mem =
      s.mem ∧ (s.abortNotFound a).pending = s.pending := by
  simp [State.abortNotFound]

@[simp] theorem State.abort_frame (first : Bool) (n a : Nat) (s : State) :
    (s.abort first n a).crystal = s.crystal ∧ (s.abort first n a).inReset = s.inReset ∧
      (s.abort first n a).clock = s.clock ∧ (s.abort first n a).profile = s.profile ∧
      (s.abort first n a).layout = s.layout ∧ (s.abort first n a).mem = s.mem ∧
      (s.abort first n a).pending = s.pending := by
  unfold State.abort
  (repeat' split) <;> simp

@[simp] theorem State.abortedWritten_frame (j : Job) (s : State) :
    (s.abortedWritten j).crystal = s.crystal ∧ (s.abortedWritten j).inReset = s.inReset ∧
      (s.abortedWritten j).drum = s.drum ∧ (s.abortedWritten j).carriage = s.carriage ∧
      (s.abortedWritten j).scan = s.scan ∧ (s.abortedWritten j).ring = s.ring ∧ (s.abortedWritten
      j).line = s.line ∧ (s.abortedWritten j).record = s.record ∧ (s.abortedWritten j).jobs = s.jobs
      ∧ (s.abortedWritten j).slips = s.slips ∧ (s.abortedWritten j).clock = s.clock ∧
      (s.abortedWritten j).profile = s.profile ∧ (s.abortedWritten j).layout = s.layout ∧
      (s.abortedWritten j).mem = s.mem ∧ (s.abortedWritten j).pending = s.pending := by
  simp [State.abortedWritten]

/-! ## Reset -/

@[simp] theorem State.startClocks_frame (s : State) :
    s.startClocks.crystal = s.crystal ∧ s.startClocks.carriage = s.carriage ∧ s.startClocks.scan =
      s.scan ∧ s.startClocks.ring = s.ring ∧ s.startClocks.line = s.line ∧ s.startClocks.record =
      s.record ∧ s.startClocks.jobs = s.jobs ∧ s.startClocks.slips = s.slips ∧ s.startClocks.profile
      = s.profile ∧ s.startClocks.layout = s.layout ∧ s.startClocks.mailbox = s.mailbox ∧
      s.startClocks.gate = s.gate ∧ s.startClocks.mem = s.mem ∧ s.startClocks.pending = s.pending := by
  simp [State.startClocks]

@[simp] theorem State.releaseRead_frame (s : State) :
    s.releaseRead.crystal = s.crystal ∧ s.releaseRead.inReset = s.inReset ∧ s.releaseRead.drum =
      s.drum ∧ s.releaseRead.carriage = s.carriage ∧ s.releaseRead.scan = s.scan ∧
      s.releaseRead.ring = s.ring ∧ s.releaseRead.line = s.line ∧ s.releaseRead.record = s.record ∧
      s.releaseRead.jobs = s.jobs ∧ s.releaseRead.slips = s.slips ∧ s.releaseRead.clock = s.clock ∧
      s.releaseRead.profile = s.profile ∧ s.releaseRead.layout = s.layout ∧ s.releaseRead.mailbox =
      s.mailbox ∧ s.releaseRead.mem = s.mem ∧ s.releaseRead.pending = s.pending := by
  simp [State.releaseRead]

@[simp] theorem State.examinePaper_frame (s : State) :
    s.examinePaper.crystal = s.crystal ∧ s.examinePaper.inReset = s.inReset ∧ s.examinePaper.drum =
      s.drum ∧ s.examinePaper.carriage = s.carriage ∧ s.examinePaper.scan = s.scan ∧
      s.examinePaper.ring = s.ring ∧ s.examinePaper.line = s.line ∧ s.examinePaper.record = s.record
      ∧ s.examinePaper.jobs = s.jobs ∧ s.examinePaper.clock = s.clock ∧ s.examinePaper.profile =
      s.profile ∧ s.examinePaper.layout = s.layout ∧ s.examinePaper.mailbox = s.mailbox ∧
      s.examinePaper.gate = s.gate ∧ s.examinePaper.mem = s.mem ∧ s.examinePaper.pending = s.pending := by
  unfold State.examinePaper
  split <;> simp

end Sys2Proof.Machine
end

