-- ==== Sys2Proof/Laws/Memory.lean ====
section
/-! SUPPORT. The laws of memory: every write keeps the canonical form, a byte reads as what was last
written to it, and a write leaves every other byte alone. -/

namespace Sys2Proof.Machine

/-! ## The canonical form -/

/-- What the canonical form says of a list and its head. -/
theorem Memory.wf_cons (c : Host.Cell) (m : Memory) :
    Memory.wf (c :: m) = true ↔
      c.2 ≠ Config.unwrittenByte ∧ (∀ d ∈ m, c.1 < d.1) ∧ Memory.wf m = true := by
  induction m generalizing c with
  | nil => simp [Memory.wf]
  | cons d m ih =>
    simp only [Memory.wf, Bool.and_eq_true, bne_iff_ne, ne_eq, decide_eq_true_eq, List.mem_cons,
      forall_eq_or_imp]
    constructor
    · rintro ⟨⟨h1, h2⟩, h3⟩
      exact ⟨h1, ⟨h2, fun e he => lt_trans h2 (((ih d).1 h3).2.1 e he)⟩, h3⟩
    · rintro ⟨h1, ⟨h2, -⟩, h3⟩
      exact ⟨⟨h1, h2⟩, h3⟩

/-- Empty memory is in canonical form. -/
@[simp] theorem Memory.wf_nil : Memory.wf [] = true := rfl

/-- Whatever lies below every address of a memory lies below every address after one more write. -/
theorem Memory.setByte_below (m : Memory) (a : Nat) (b : Byte) (x : Nat) (ha : x < a)
    (hm : ∀ d ∈ m, x < d.1) : ∀ d ∈ m.setByte a b, x < d.1 := by
  induction m with
  | nil =>
    intro d hd
    unfold Memory.setByte at hd
    split at hd <;> simp_all
  | cons c m ih =>
    intro d hd
    unfold Memory.setByte at hd
    simp only [List.mem_cons, forall_eq_or_imp] at hm
    (repeat' split at hd) <;> (try simp only [List.mem_cons] at hd)
    · rcases hd with rfl | hd
      · exact hm.1
      · exact hm.2 d hd
    · rcases hd with rfl | rfl | hd
      · exact ha
      · exact hm.1
      · exact hm.2 d hd
    · exact hm.2 d hd
    · rcases hd with rfl | hd
      · exact ha
      · exact hm.2 d hd
    · rcases hd with rfl | hd
      · exact hm.1
      · exact ih hm.2 d hd

/-- A byte's write keeps the canonical form. -/
theorem Memory.setByte_wf (m : Memory) (a : Nat) (b : Byte) (h : m.wf = true) :
    (m.setByte a b).wf = true := by
  induction m with
  | nil =>
    unfold Memory.setByte
    split <;> simp_all [Memory.wf]
  | cons c m ih =>
    have h' := (Memory.wf_cons c m).1 h
    unfold Memory.setByte
    split
    · rename_i hlt
      split
      · exact h
      · refine (Memory.wf_cons _ _).2 ⟨by assumption, ?_, h⟩
        intro d hd
        rcases List.mem_cons.1 hd with rfl | hd
        · exact hlt
        · exact lt_trans hlt (h'.2.1 d hd)
    · split
      · rename_i heq
        split
        · exact h'.2.2
        · refine (Memory.wf_cons _ _).2 ⟨by assumption, ?_, h'.2.2⟩
          intro d hd
          exact heq ▸ h'.2.1 d hd
      · refine (Memory.wf_cons _ _).2 ⟨h'.1, ?_, ih h'.2.2⟩
        exact Memory.setByte_below m a b c.1 (by omega) h'.2.1

/-- A write of one lane keeps the canonical form. -/
theorem Memory.writeLane_wf (m : Memory) (x : Access) (i : Nat) (h : m.wf = true) :
    (m.writeLane x i).wf = true := by
  unfold Memory.writeLane
  split
  · exact Memory.setByte_wf _ _ _ h
  · exact h

/-- A word's write keeps the canonical form. -/
theorem Memory.write_wf (m : Memory) (x : Access) (h : m.wf = true) : (m.write x).wf = true :=
  Memory.writeLane_wf _ _ _ (Memory.writeLane_wf _ _ _ (Memory.writeLane_wf _ _ _
    (Memory.writeLane_wf _ _ _ h)))

/-! ## Reads after writes -/

/-- A byte below every address of a memory is unwritten. -/
theorem Memory.byte_below (m : Memory) (a : Nat) (h : ∀ d ∈ m, a < d.1) :
    m.byte a = Config.unwrittenByte := by
  induction m with
  | nil => rfl
  | cons c m ih =>
    simp only [List.mem_cons, forall_eq_or_imp] at h
    unfold Memory.byte
    rw [if_neg (by omega)]
    exact ih h.2

/-- A write leaves every other byte alone. -/
theorem Memory.byte_setByte_ne (m : Memory) (a x : Nat) (b : Byte) (hx : x ≠ a) :
    (m.setByte a b).byte x = m.byte x := by
  induction m with
  | nil =>
    unfold Memory.setByte
    split
    · rfl
    · simp [Memory.byte, Ne.symm hx]
  | cons c m ih =>
    unfold Memory.setByte
    split
    · split
      · rfl
      · conv_lhs => unfold Memory.byte
        rw [if_neg (Ne.symm hx)]
    · split
      · rename_i heq
        have hc : ¬ c.1 = x := by omega
        split
        · conv_rhs => unfold Memory.byte
          rw [if_neg hc]
        · conv_rhs => unfold Memory.byte
          conv_lhs => unfold Memory.byte
          rw [if_neg (Ne.symm hx), if_neg hc]
      · conv_rhs => unfold Memory.byte
        conv_lhs => unfold Memory.byte
        rw [ih]

/-- A byte reads as what was written to it, in a memory in canonical form. -/
theorem Memory.byte_setByte_self (m : Memory) (a : Nat) (b : Byte) (h : m.wf = true) :
    (m.setByte a b).byte a = b := by
  induction m with
  | nil =>
    unfold Memory.setByte
    split
    · rename_i hb; subst hb; rfl
    · simp [Memory.byte]
  | cons c m ih =>
    have h' := (Memory.wf_cons c m).1 h
    unfold Memory.setByte
    split
    · rename_i hlt
      split
      · rename_i hb
        rw [hb]
        refine Memory.byte_below _ _ ?_
        intro d hd
        rcases List.mem_cons.1 hd with rfl | hd
        · exact hlt
        · exact lt_trans hlt (h'.2.1 d hd)
      · simp [Memory.byte]
    · split
      · rename_i heq
        split
        · rename_i hb
          rw [hb]
          exact Memory.byte_below _ _ (fun d hd => heq ▸ h'.2.1 d hd)
        · simp [Memory.byte]
      · rename_i hne
        conv_lhs => unfold Memory.byte
        rw [if_neg (Ne.symm hne)]
        exact ih h'.2.2

/-- A read of any byte after a write of one byte, in a memory in canonical form. -/
theorem Memory.byte_setByte (m : Memory) (a x : Nat) (b : Byte) (h : m.wf = true) :
    (m.setByte a b).byte x = if x = a then b else m.byte x := by
  split
  · rename_i hx; rw [hx]; exact Memory.byte_setByte_self m a b h
  · rename_i hx; exact Memory.byte_setByte_ne m a x b hx

/-- A lane's write leaves every other byte alone. -/
theorem Memory.byte_writeLane_ne (m : Memory) (x : Access) (i a : Nat)
    (h : x.be.getLsbD i = true → a ≠ x.addr + i) : (m.writeLane x i).byte a = m.byte a := by
  unfold Memory.writeLane
  split
  · rename_i hi; exact Memory.byte_setByte_ne _ _ _ _ (h hi)
  · rfl

/-- A word's write leaves every byte alone that it does not touch. -/
theorem Memory.byte_write_untouched (m : Memory) (x : Access) (a : Nat) (h : x.touches a = false) :
    (m.write x).byte a = m.byte a := by
  simp only [Access.touches, Bool.or_eq_false_iff, Bool.and_eq_false_iff, beq_eq_false_iff_ne,
    ne_eq] at h
  obtain ⟨⟨⟨h0, h1⟩, h2⟩, h3⟩ := h
  unfold Memory.write
  rw [Memory.byte_writeLane_ne _ _ 3, Memory.byte_writeLane_ne _ _ 2, Memory.byte_writeLane_ne _ _ 1,
    Memory.byte_writeLane_ne _ _ 0]
  all_goals (intro hb; simp_all)

/-- A read of a lane's byte after its write. -/
theorem Memory.byte_writeLane (m : Memory) (x : Access) (i a : Nat) (h : m.wf = true) :
    (m.writeLane x i).byte a =
      if x.be.getLsbD i = true ∧ a = x.addr + i then byteOf x.data i else m.byte a := by
  unfold Memory.writeLane
  split
  · rename_i hi
    rw [Memory.byte_setByte _ _ _ _ h]
    simp [hi]
  · rename_i hi
    simp [hi]

/-- A read of one of a word's four bytes after the word's write: the byte written when its byte enable is
set, else what stood there. -/
theorem Memory.byte_write (m : Memory) (x : Access) (i : Nat) (hi : i < 4) (h : m.wf = true) :
    (m.write x).byte (x.addr + i) =
      if x.be.getLsbD i then byteOf x.data i else m.byte (x.addr + i) := by
  have h0 := Memory.writeLane_wf m x 0 h
  have h1 := Memory.writeLane_wf _ x 1 h0
  have h2 := Memory.writeLane_wf _ x 2 h1
  unfold Memory.write
  rw [Memory.byte_writeLane _ x 3 _ h2, Memory.byte_writeLane _ x 2 _ h1,
    Memory.byte_writeLane _ x 1 _ h0, Memory.byte_writeLane _ x 0 _ h]
  have : i = 0 ∨ i = 1 ∨ i = 2 ∨ i = 3 := by omega
  rcases this with rfl | rfl | rfl | rfl <;> simp

/-! ## Words -/

/-- The four bytes of a word put together again. -/
theorem bytes_of_word (w : Word) : byteOf w 3 ++ byteOf w 2 ++ byteOf w 1 ++ byteOf w 0 = w := by
  unfold byteOf
  apply BitVec.eq_of_getLsbD_eq
  intro i hi
  simp only [BitVec.getLsbD_append, BitVec.getLsbD_extractLsb']
  split
  · rename_i h; simp [h]
  · split
    · rename_i h1 h2; simp [h2, show 8 + (i - 8) = i by omega]
    · split
      · rename_i h1 h2 h3; simp [h3, show 16 + (i - 8 - 8) = i by omega]
      · rename_i h1 h2 h3
        have : i - 8 - 8 - 8 < 8 := by omega
        simp [this, show 24 + (i - 8 - 8 - 8) = i by omega]

/-- A word reads as what was written whole to it, in a memory in canonical form. -/
theorem Memory.word_write (m : Memory) (a : Nat) (w : Word) (h : m.wf = true) :
    (m.write (wholeWord a w)).word a = w := by
  have e (i : Nat) (hi : i < 4) : (m.write (wholeWord a w)).byte (a + i) = byteOf w i := by
    have := Memory.byte_write m (wholeWord a w) i hi h
    have : i = 0 ∨ i = 1 ∨ i = 2 ∨ i = 3 := by omega
    rcases this with rfl | rfl | rfl | rfl <;> simp_all [wholeWord]
  unfold Memory.word
  rw [e 3 (by omega), e 2 (by omega), e 1 (by omega)]
  have e0 : (m.write (wholeWord a w)).byte a = byteOf w 0 := e 0 (by omega)
  rw [e0]
  exact bytes_of_word w

/-- A word whose bytes a write does not touch reads as before. -/
theorem Memory.word_write_untouched (m : Memory) (x : Access) (a : Nat)
    (h : ∀ i, i < 4 → x.touches (a + i) = false) : (m.write x).word a = m.word a := by
  unfold Memory.word
  rw [Memory.byte_write_untouched m x _ (h 3 (by omega)), Memory.byte_write_untouched m x _ (h 2 (by omega)),
    Memory.byte_write_untouched m x _ (h 1 (by omega))]
  have h0 := Memory.byte_write_untouched m x (a + 0) (h 0 (by omega))
  simp only [Nat.add_zero] at h0
  rw [h0]

end Sys2Proof.Machine
end

