-- ==== Sys2Proof/Laws/StepEnd.lean ====
section
/-! SUPPORT. What the end of every step does, said once, and the forms that the meanings of the commands
take: every proof about a command cites these and never unfolds the arbiter or the Status Writer. -/

namespace Sys2Proof.Machine

/-! ## The arbiter, the marks and the sorting of a held read -/

@[simp] theorem State.markChanged_frame (old new : State) :
    (old.markChanged new).crystal = new.crystal ∧ (old.markChanged new).inReset = new.inReset ∧
    (old.markChanged new).drum = new.drum ∧ (old.markChanged new).carriage = new.carriage ∧
    (old.markChanged new).scan = new.scan ∧ (old.markChanged new).ring = new.ring ∧
    (old.markChanged new).line = new.line ∧ (old.markChanged new).record = new.record ∧
    (old.markChanged new).jobs = new.jobs ∧ (old.markChanged new).slips = new.slips ∧
    (old.markChanged new).clock = new.clock ∧ (old.markChanged new).profile = new.profile ∧
    (old.markChanged new).layout = new.layout ∧ (old.markChanged new).mailbox = new.mailbox ∧
    (old.markChanged new).mem = new.mem ∧ (old.markChanged new).pending = new.pending := by
  unfold State.markChanged
  split <;> simp

/-- What marking changed values does to the Gate. -/
theorem State.markChanged_settled (old new : State) : new.gate.Settled (old.markChanged new).gate := by
  unfold State.markChanged
  split
  · exact ⟨rfl, fun _ => rfl, rfl⟩
  · exact ⟨rfl, fun _ => rfl, rfl⟩

/-- What sorting a held read again does to the Gate. -/
theorem State.resortRead_settled (s : State) : s.gate.Settled s.resortRead.gate := by
  unfold State.resortRead
  split
  · rename_i r hr
    split
    · split
      · exact ⟨rfl, fun _ => rfl, rfl⟩
      · exact ⟨rfl, fun _ => rfl, by simp [State.sorted, hr]⟩
    · exact ⟨rfl, fun _ => rfl, rfl⟩
  · exact ⟨rfl, fun _ => rfl, rfl⟩

/-- What the arbiter does to the Gate. -/
theorem State.arbitrate_settled (s : State) : s.gate.Settled s.arbitrate.gate := by
  unfold State.arbitrate
  split
  · exact ⟨rfl, fun _ => rfl, rfl⟩
  · rename_i h
    have hp : s.gate.port = none := by
      cases hg : s.gate.port with
      | none => rfl
      | some w => simp [hg] at h
    split
    · exact ⟨rfl, fun hn => absurd hp hn, rfl⟩
    · split
      · exact ⟨rfl, fun _ => rfl, rfl⟩
      · exact ⟨rfl, fun _ => rfl, rfl⟩

/-- One settling after another is a settling. -/
theorem Gate.Settled.trans {g h k : Gate} (a : g.Settled h) (b : h.Settled k) : g.Settled k where
  rest := by
    have ha := a.rest
    have hb := b.rest
    rw [ha] at hb
    exact hb
  busy hn := by
    have hp := a.busy hn
    rw [b.busy (by rw [hp]; exact hn), hp]
  read := b.read.trans a.read

/-- A Gate that nothing has touched is settled. -/
theorem Gate.Settled.refl (g : Gate) : g.Settled g := ⟨rfl, fun _ => rfl, rfl⟩

/-- The marked word that the Status Writer writes is one of the 64. -/
theorem Gate.lowestMark_lt (g : Gate) (w : Nat) (h : g.lowestMark = some w) : w < 64 := by
  have := List.findIdx?_eq_some_iff_findIdx_eq.1 h
  have hl := List.length_take_le 64 g.marks
  omega

/-- The word of the Status Page that the Status Writer writes lies within the page. -/
theorem State.writeStatus_mem (s : State) (l : Layout) (w a : Nat) (hw : w < 64)
    (ha : inWindow l.statusBase 256 a = false) : (s.writeStatus l w).mem.byte a = s.mem.byte a := by
  unfold State.writeStatus
  refine Memory.byte_write_untouched _ _ _ ?_
  simp only [inWindow, Bool.and_eq_false_iff, decide_eq_false_iff_not] at ha
  simp only [Access.touches, wholeWord, Bool.or_eq_false_iff, Bool.and_eq_false_iff, beq_eq_false_iff_ne]
  refine ⟨⟨⟨?_, ?_⟩, ?_⟩, ?_⟩ <;> right <;> omega

/-- The arbiter writes no byte outside the Status Page of the layout in force. -/
theorem State.arbitrate_mem (s : State) (a : Nat) (h : s.statusByte a = false) :
    s.arbitrate.mem.byte a = s.mem.byte a := by
  unfold State.arbitrate
  split
  · rfl
  · split
    · rfl
    · split
      · rename_i l w hl hw
        refine State.writeStatus_mem s l w a (Gate.lowestMark_lt _ _ hw) ?_
        simpa [State.statusByte, hl] using h
      · rfl

/-- The arbiter keeps memory in canonical form. -/
theorem State.arbitrate_wf (s : State) (h : s.mem.wf = true) : s.arbitrate.mem.wf = true := by
  unfold State.arbitrate
  split
  · exact h
  · split
    · exact h
    · split
      · exact Memory.write_wf _ _ h
      · exact h

/-! ## The end of a step -/

/-- A state equals another when every block does. -/
theorem State.eq_of_rest {s t : State} (h : t = { s with gate := t.gate, mem := t.mem }) :
    t.crystal = s.crystal ∧ t.inReset = s.inReset ∧ t.drum = s.drum ∧ t.carriage = s.carriage ∧
    t.scan = s.scan ∧ t.ring = s.ring ∧ t.line = s.line ∧ t.record = s.record ∧ t.jobs = s.jobs ∧
    t.slips = s.slips ∧ t.clock = s.clock ∧ t.profile = s.profile ∧ t.layout = s.layout ∧
    t.mailbox = s.mailbox ∧ t.pending = s.pending := by
  rw [h]
  simp

/-- The slot test of the Gate, in words (R161). -/
theorem State.fillingAt_iff (s : State) (a : Nat) : s.fillingAt a = true ↔ s.touchesFilling a := by
  unfold State.fillingAt State.touchesFilling
  cases hl : s.layout.inForce with
  | none => simp
  | some l =>
    simp only [List.any_eq_true, List.mem_range, Bool.and_eq_true, beq_iff_eq, inWindow, Layout.slotAddr, slotBytes,
      Option.some.injEq]
    constructor
    · rintro ⟨n, h1, h2, h3, h4⟩
      exact ⟨l, n, rfl, h1, h2, of_decide_eq_true h3, of_decide_eq_true h4⟩
    · rintro ⟨_, n, rfl, h1, h2, h3, h4⟩
      exact ⟨n, h1, h2, decide_eq_true h3, decide_eq_true h4⟩

/-- The buffer test of the Gate, in words (R160). -/
theorem Gate.pendingAt_iff (g : Gate) (a : Nat) : g.pendingAt a = true ↔ ∃ w ∈ g.buffer, w.addr = a := by
  simp [Gate.pendingAt]

/-- How the Gate sorts a read, said once (R154, R160 to R162). -/
theorem State.sorted_sorted (s : State) (r : HostRead) : s.ReadSorted r.addr (s.sorted r) where
  addr := rfl
  redirected l n x hl h1 h2 hn hx := by
    simp only [State.sorted, State.readTarget, State.inPreview, hl, hn, inWindow, slotBytes, h1, h2, decide_true,
      Bool.and_self, if_true, wordAddr, Layout.slotAddr]
    rw [hx]
  direct h := by
    unfold State.sorted State.readTarget State.inPreview
    dsimp only
    split
    · rename_i l n hl hn
      obtain h | h := h
      · rw [hn] at h; cases h
      · have := h l hl
        simp only [hl, inWindow, slotBytes]
        rw [if_neg]
        intro hq
        obtain ⟨h1, h2⟩ := Bool.and_eq_true_iff.1 hq
        have h1 := of_decide_eq_true h1
        have h2 := of_decide_eq_true h2
        omega
    · rfl
  pending h := by
    have := (s.gate.pendingAt_iff _).2 h
    simp only [State.sorted, State.sortRead] at this ⊢
    rw [if_pos this]
  filling h1 h2 := by
    have a : s.gate.pendingAt (s.sorted r).target ≠ true := fun h => by
      obtain ⟨w, hw, e⟩ := (s.gate.pendingAt_iff _).1 h
      exact h1 w hw e
    have b := (s.fillingAt_iff _).2 h2
    simp only [State.sorted, State.sortRead] at a b ⊢
    rw [if_neg a, if_pos b]
  free h1 h2 := by
    have a : s.gate.pendingAt (s.sorted r).target ≠ true := fun h => by
      obtain ⟨w, hw, e⟩ := (s.gate.pendingAt_iff _).1 h
      exact h1 w hw e
    have b : s.fillingAt (s.sorted r).target ≠ true := fun h => h2 ((s.fillingAt_iff _).1 h)
    simp only [State.sorted, State.sortRead] at a b ⊢
    rw [if_neg a, if_neg b]

/-- A step's end leaves the read as the sorting again leaves it. -/
theorem finish_read (old new : State) : (finish old new).gate.read = new.resortRead.gate.read := by
  have h1 : ∀ s : State, s.arbitrate.gate.read = s.gate.read := by
    intro s
    unfold State.arbitrate
    split
    · rfl
    · split
      · rfl
      · split <;> rfl
  have h2 : ∀ s : State, (old.markChanged s).gate.read = s.gate.read := by
    intro s
    unfold State.markChanged
    split <;> rfl
  unfold finish
  rw [h1, h2]

/-- What a step's end makes of the read on the bus, said once. -/
theorem finish_reads (old new : State) : new.ReadSettled (finish old new) where
  served r hr hh := by rw [finish_read]; simp [State.resortRead, hr, hh]
  held r hr h := by
    rw [finish_read]
    obtain ⟨hh, h⟩ | ⟨hh, h⟩ := h
    · have : new.holds r.target .pendingWrite = true := (new.gate.pendingAt_iff _).2 h
      simp [State.resortRead, hr, hh, this]
    · have : new.holds r.target .fillingSlot = true := (new.fillingAt_iff _).2 h
      simp [State.resortRead, hr, hh, this]
  released r hr h := by
    rw [finish_read]
    refine ⟨new.sorted r, ?_, new.sorted_sorted r⟩
    obtain ⟨hh, h⟩ | ⟨hh, h⟩ := h
    · have : new.holds r.target .pendingWrite = false := by
        rw [← Bool.not_eq_true]
        exact fun hq => by
          obtain ⟨w, hw, e⟩ := (new.gate.pendingAt_iff _).1 hq
          exact h w hw e
      simp [State.resortRead, hr, hh, this]
    · have : new.holds r.target .fillingSlot = false := by
        rw [← Bool.not_eq_true]
        exact fun hq => h ((new.fillingAt_iff _).1 hq)
      simp [State.resortRead, hr, hh, this]

/-- The whole end of a step, said once. -/
theorem finish_ends (old new : State) : new.Ends (finish old new) where
  rest := by
    have h := State.arbitrate_frame (old.markChanged new.resortRead)
    obtain ⟨h1, h2, h3, h4, h5, h6, h7, h8, h9, h10, h11, h12, h13, h14, h15⟩ := h
    unfold finish
    cases hs : (old.markChanged new.resortRead).arbitrate
    simp_all
  gate := by
    have a := State.resortRead_settled new
    have b := State.markChanged_settled old new.resortRead
    have c := State.arbitrate_settled (old.markChanged new.resortRead)
    exact (a.trans b).trans c
  reads := finish_reads old new
  mem a ha := by
    unfold finish
    rw [State.arbitrate_mem]
    · simp
    · simpa [State.statusByte] using ha

/-- A step's end leaves every block but the Gate and memory as it is. -/
@[simp] theorem finish_frame (old new : State) :
    (finish old new).crystal = new.crystal ∧ (finish old new).inReset = new.inReset ∧
    (finish old new).drum = new.drum ∧ (finish old new).carriage = new.carriage ∧
    (finish old new).scan = new.scan ∧ (finish old new).ring = new.ring ∧
    (finish old new).line = new.line ∧ (finish old new).record = new.record ∧
    (finish old new).jobs = new.jobs ∧ (finish old new).slips = new.slips ∧
    (finish old new).clock = new.clock ∧ (finish old new).profile = new.profile ∧
    (finish old new).layout = new.layout ∧ (finish old new).mailbox = new.mailbox ∧
    (finish old new).pending = new.pending :=
  State.eq_of_rest (finish_ends old new).rest

/-- A step's end leaves these parts of the Gate as they are. -/
@[simp] theorem finish_gate (old new : State) :
    (finish old new).gate.buffer = new.gate.buffer ∧ (finish old new).gate.waiting = new.gate.waiting ∧
    (finish old new).gate.guards = new.gate.guards ∧ (finish old new).gate.readData = new.gate.readData ∧
    (finish old new).gate.dropped = new.gate.dropped ∧
    (finish old new).gate.droppedAddr = new.gate.droppedAddr ∧
    (finish old new).gate.droppedReason = new.gate.droppedReason ∧
    (finish old new).gate.ops = new.gate.ops ∧ (finish old new).gate.toMailbox = new.gate.toMailbox ∧
    (finish old new).gate.toLayout = new.gate.toLayout := by
  have h := (finish_ends old new).gate.rest
  rw [h]
  simp

/-- A step's end keeps memory in canonical form. -/
theorem finish_wf (old new : State) (h : new.mem.wf = true) : (finish old new).mem.wf = true := by
  unfold finish
  exact State.arbitrate_wf _ (by simpa using h)

/-! ## The forms of a meaning -/

/-- A command that acts only outside reset, outside it. -/
theorem live_awake (f : State → State) (s : State) (h : s.inReset = false) :
    live f s = .next (finish s (f s)) := by simp [live, h]

/-- A command that acts only outside reset, in it. -/
theorem live_inReset (f : State → State) (s : State) (h : s.inReset = true) : live f s = .next s := by
  simp [live, h]

/-- A command whose cause is there. -/
theorem when_due (due : State → Bool) (f : State → State) (s : State) (h : s.inReset = false)
    (hd : due s = true) : when due f s = .next (finish s (f s)) := by simp [when, live, h, hd]

/-- A command whose cause is not there: only the step's end stands. -/
theorem when_idle (due : State → Bool) (f : State → State) (s : State) (h : s.inReset = false)
    (hd : due s = false) : when due f s = .next (finish s s) := by simp [when, live, h, hd]

theorem whenDeliver_due (due : State → Bool) (f : State → State) (s : State) (h : s.inReset = false)
    (hd : due s = true) : whenDeliver due f s = .next (finish s (f s).deliver) := by
  simp [whenDeliver, when, live, h, hd]

theorem whenDeliver_idle (due : State → Bool) (f : State → State) (s : State) (h : s.inReset = false)
    (hd : due s = false) : whenDeliver due f s = .next (finish s s) := by
  simp [whenDeliver, when, live, h, hd]

theorem whenLevel_due (level : State → State) (due : State → Bool) (f : State → State) (s : State)
    (h : s.inReset = false) (hd : due s = true) :
    whenLevel level due f s = .next (finish s (f s).deliver) := by
  simp [whenLevel, h, whenDeliver_due due f s h hd]

theorem whenLevel_idle (level : State → State) (due : State → Bool) (f : State → State) (s : State)
    (h : s.inReset = false) (hd : due s = false) : whenLevel level due f s = .next (finish s s) := by
  simp [whenLevel, h, whenDeliver_idle due f s h hd]

theorem whenLevel_inReset (level : State → State) (due : State → Bool) (f : State → State) (s : State)
    (h : s.inReset = true) : whenLevel level due f s = .next (level s) := by simp [whenLevel, h]

/-- A step's end, with the state that a command's effect gives named. -/
theorem finish_ends_of {old new u : State} (h : new = u) : u.Ends (finish old new) := h ▸ finish_ends old new

/-! ## Events -/

theorem State.awake_inReset {s : State} (h : s.awake = true) : s.inReset = false := by
  simp only [State.awake, Bool.and_eq_true, Bool.not_eq_true'] at h
  exact h.1

theorem State.awake_noEvents {s : State} (h : s.awake = true) : s.noEvents = true := by
  simp only [State.awake, Bool.and_eq_true] at h
  exact h.2

/-- No event waits, event by event. -/
theorem State.noEvents_iff (s : State) :
    s.noEvents = true ↔ s.carriage.arrivalEvent = false ∧ s.carriage.truncationEvent = false ∧
      s.carriage.faultEvent = false ∧ s.drum.bandLostSignal = false ∧ s.jobs.requestsDue = none := by
  simp [State.noEvents, State.noSignals, and_assoc]

/-- With no carriage or drum event waiting there is nothing to deliver. -/
theorem State.deliver_none (s : State) (ha : s.carriage.arrivalEvent = false)
    (ht : s.carriage.truncationEvent = false) (hf : s.carriage.faultEvent = false)
    (hb : s.drum.bandLostSignal = false) : s.deliver = s := by
  simp [State.deliver, State.takeTruncation, State.takeArrival, State.takeBandLost,
    State.takeCarriageFault, ha, ht, hf, hb]

/-- With no event waiting there is nothing to deliver. -/
theorem State.deliver_noEvents (s : State) (h : s.noEvents = true) : s.deliver = s := by
  obtain ⟨ha, ht, hf, hb, _⟩ := s.noEvents_iff.1 h
  exact s.deliver_none ha ht hf hb

theorem State.noEvents_requests {s : State} (h : s.noEvents = true) : s.jobs.requestsDue = none :=
  (s.noEvents_iff.1 h).2.2.2.2

/-! ## Completion -/

/-- A command's outcome, once its form has been rewritten: the next state is `u` but for the step's end. -/
theorem next_ends {old x u : State} (he : x = u) :
    ∃ t, (Host.Outcome.next (finish old x) : Host.Outcome State Fault Refusal) = .next t ∧ u.Ends t :=
  ⟨_, rfl, finish_ends_of he⟩

end Sys2Proof.Machine
end

