-- ==== Sys2Proof/Laws/Record.lean ====
section
/-! SUPPORT. What the Job Controller's operations at an attempt's end do, said once: the scan-stop and the lamp-off, the
end of a job by a cause, the taking of the Attempt Record and what follows it (R32, R114, R132 to R136), and the end of
an attempt whole (R94). -/

namespace Sys2Proof.Machine
/-! ## Stopping the scanner -/

/-- Track-end (R28). -/
theorem Carriage.trackEnd_atRest (c : Carriage) : c.trackEnd = c.atRest := by
  unfold Carriage.trackEnd Carriage.atRest
  split <;> simp_all [Carriage.toRest]

theorem updateAt_eq {α : Type} (f : α → α) (l : List α) (n : Nat) : updateAt f l n = l.modify n f := by
  induction l generalizing n with
  | nil => simp [updateAt]
  | cons x l ih => cases n <;> simp [updateAt, ih]

theorem Gate.dropScan_eq (g : Gate) : g.dropScan = { g with port := scanWordDropped g.port } := by
  unfold Gate.dropScan
  cases g.port with
  | none => rfl
  | some w => cases w <;> rfl

theorem Gate.dropPrefetch_eq (g : Gate) : g.dropPrefetch = { g with port := prefetchDropped g.port } := by
  unfold Gate.dropPrefetch
  cases g.port with
  | none => rfl
  | some w => cases w <;> rfl

/-- The ring as a scan-stop leaves it (R32, R74). -/
theorem State.ringDropped_eq (s : State) : s.ringDropped =
    { s.ring with
      slots :=
        match s.scan.line with
        | some l =>
          if (s.ring.slot l.slot).state = .filling then
            s.ring.slots.modify l.slot fun _ => { state := .free, frame := 0, line := 0 }
          else s.ring.slots
        | none => s.ring.slots } := by
  unfold State.ringDropped Ring.dropLine
  cases s.scan.line with
  | none => rfl
  | some l =>
    dsimp only
    split <;> simp [updateAt_eq, RingSlot.empty]

/-- What a scan-stop does, said once (R28, R32, R40, R126). -/
theorem State.scanStop_stopped (s : State) : s.scanStop = s.stopped := by
  have hk : ∀ h : s.scan.stops, s.stopped =
      { s with
        scan := { s.scan.dropLine with state := .ready }, carriage := s.carriage.trackEnd, ring := s.ringDropped
        gate := s.gate.dropScan
        jobs :=
          { s.jobs with
            scanSigs :=
              if s.scan.state = .scanning then s.jobs.scanSigs.set s.scan.current s.scan.sig
              else s.jobs.scanSigs } } := by
    intro h
    unfold State.stopped Scan.stopped
    simp only [h, if_true, true_and, State.ringDropped_eq, Gate.dropScan_eq, Carriage.trackEnd_atRest, Scan.dropLine] <;>
      cases s.scan.line <;> rfl
  unfold State.scanStop
  split
  · rename_i h
    rw [hk (.inl h)]
    simp [h, Jobs.keepSig]
  · rename_i h
    rw [hk (.inr h)]
    simp [h]
  · rename_i h1 h2
    have h : ¬ s.scan.stops := by rintro (h | h) <;> contradiction
    have h3 : s.scan.state ≠ .scanning := fun q => h (.inl q)
    unfold State.stopped Scan.stopped
    simp only [h, if_false, false_and, h3]
    cases s.scan.line <;> rfl

theorem State.lampOff_darkened (s : State) : s.lampOff = s.darkened := by
  unfold State.lampOff State.darkened
  rw [State.scanStop_stopped]
  rfl

/-! ## The end of a job by a cause -/

theorem State.issue_eq (kind : OpKind) (todo : List OpWord) (s : State) : s.issue kind todo =
    { s with gate := { s.gate with ops := s.gate.ops ++ [{ kind, todo, got := [] }] } } := rfl

theorem State.issueAll_eq (l : List (OpKind × List OpWord)) (s : State) : s.issueAll l =
    { s with
      gate := { s.gate with ops := s.gate.ops ++ l.map fun x => { kind := x.1, todo := x.2, got := [] } } } := by
  unfold State.issueAll
  induction l generalizing s with
  | nil => simp
  | cons x l ih =>
    rw [List.foldl_cons, ih, State.issue_eq]
    simp

/-- The results writes issued are those of `resultOps` (R117). -/
theorem Job.results_ops (last : OpKind) (cause : Option Cause) (ds : List Dest) (sigs : List Sig) (j : Job) :
    ((j.results last cause ds sigs).map fun x => ({ kind := x.1, todo := x.2, got := [] } : Op)) =
      resultOps last cause ds sigs j := by
  simp only [Job.results, resultOps, List.mapIdx_eq_zipIdx_map, List.map_map]
  rfl

/-- Entry to FINISHING, said once (R117). -/
theorem State.enterFinishing_finishing (s : State) : s.enterFinishing = s.finishing := by
  unfold State.enterFinishing State.finishing
  cases s.jobs.current with
  | none => rfl
  | some j => simp [State.issueAll_eq, Job.results_ops, State.withJobs]

/-- Steps 3 to 5 of a job's end by a cause, said once (R114, R130, R137). -/
theorem State.finalizeJob_closed (cause : Cause) (s : State) : s.finalizeJob cause = s.closedBy cause := by
  unfold State.finalizeJob State.closedBy
  dsimp only
  rw [State.enterFinishing_finishing, State.lampOff_darkened]
  rfl

/-- The requests of an end cause reach their units (R111, R114). -/
theorem State.endLate_reached (base : Nat) (cause : Cause) (s : State)
    (h : s.jobs.requestsDue = some { freeAhead := none }) : s.endLate base cause = s.requestsReached cause := by
  unfold State.endLate State.requestsReached
  simp only [h, Option.bind_some, State.finalizeJob_closed]
  congr 1
  split <;> simp [State.park, State.withJobs, State.withDrum]

/-- A take's end (R184). -/
theorem State.endTake_freed (s : State) (take : Take) (h : s.mailbox.take = some take) :
    s.endTake = s.entryFreed take := by
  simp [State.endTake, h, State.entryFreed, State.issue_eq, State.withMailbox, ringNext, State.sendCount]
  rfl

theorem State.closedBy_mailbox (cause : Cause) (s : State) : (s.closedBy cause).mailbox = s.mailbox := by
  rw [← State.finalizeJob_closed]
  simp

/-- The same with an ABORT's take, which ends with it (R165, R184). -/
theorem State.endLate_among (base n : Nat) (cause : Cause) (s : State)
    (h : s.jobs.requestsDue = some { freeAhead := some n }) :
    s.endLate base cause = (s.requestsReached cause).endTakeAmong base n ∧
      (s.requestsReached cause).mailbox = s.mailbox := by
  refine ⟨?_, State.closedBy_mailbox _ _⟩
  unfold State.endLate State.requestsReached
  simp only [h, Option.bind_some, State.finalizeJob_closed]
  congr 2
  split <;> simp [State.park, State.withJobs, State.withDrum]

/-! ## Between two attempts -/

/-- The job's state between two attempts (R110, R135). -/
theorem State.runState_iff (s : State) :
    (s.attemptsOn → s.runState = .attempting) ∧ (¬ s.attemptsOn → s.runState = .retryWait) := by
  have hu : s.jobs.firstUntried.isSome = true ↔ ∃ x ∈ s.jobs.progress, x.progress = .untried := by
    simp [Jobs.firstUntried]
  have hd : s.headDue = true ↔ ∃ e, s.jobs.retryList.head? = some e ∧ e.2 ≤ s.clock.uptime := by
    unfold State.headDue
    cases s.jobs.retryList.head? <;> simp
  have h : (s.jobs.startInFlight.isSome || s.jobs.attemptInProgress || s.jobs.firstUntried.isSome || s.headDue) =
      true ↔ s.attemptsOn := by
    unfold State.attemptsOn
    rw [Bool.or_eq_true, Bool.or_eq_true, Bool.or_eq_true, hu, hd, or_assoc, or_assoc, Option.isSome_iff_ne_none]
  unfold State.runState
  exact ⟨fun q => if_pos (h.2 q), fun q => if_neg (fun z => q (h.1 z))⟩

/-- The time between two attempts (R110, R135, R136). -/
theorem State.settle_settled (s : State) : s.Settled s.settle where
  again h h2 := by
    unfold State.settle
    rw [(s.runState_iff).1 h]
    dsimp only
    simp [h2, State.withJobs]
  latched h h2 := by
    unfold State.settle
    rw [(s.runState_iff).1 h]
    dsimp only
    simp [h2, State.withJobs, State.lampOff_darkened]
  waits h h2 := by
    unfold State.settle
    rw [(s.runState_iff).2 h]
    have : ¬ s.profile.drum.parkDelay ≤ (s.jobs.retryList.head?.map (·.2)).getD 0 - s.clock.uptime := by
      unfold State.headWait at h2; omega
    dsimp only
    simp [this, State.withJobs]
  parked h h2 := by
    unfold State.settle
    rw [(s.runState_iff).2 h]
    have : s.profile.drum.parkDelay ≤ (s.jobs.retryList.head?.map (·.2)).getD 0 - s.clock.uptime := h2
    dsimp only
    simp only [State.mapJobs_eq, State.withJobs_jobs, State.withJobs_profile, State.withJobs_clock, this, if_true,
      State.lampOff_darkened]
    rfl

/-! ## The decision on an outcome -/

theorem updateAt_at {α : Type} (f : α → α) (l : List α) (n : Nat) : (updateAt f l n)[n]? = l[n]?.map f := by
  simp [updateAt_eq]

theorem updateAt_other {α : Type} (f : α → α) (l : List α) {n m : Nat} (h : m ≠ n) :
    (updateAt f l n)[m]? = l[m]? := by
  simp [updateAt_eq, Ne.symm h]

@[simp] theorem updateAt_length {α : Type} (f : α → α) (l : List α) (n : Nat) :
    (updateAt f l n).length = l.length := by
  simp [updateAt_eq]

/-- What the decision on an outcome does (R133, R134), of the destination in slot n. -/
structure Jobs.Decided (n up : Nat) (o : AttemptOutcome) (j k : Jobs) : Prop where
  rest : k = { j with progress := k.progress, retryList := k.retryList }
  others : k.progress.length = j.progress.length ∧ ∀ m, m ≠ n → k.progress[m]? = j.progress[m]?
  dest : ∀ x, j.progress[n]? = some x → ∃ y, k.progress[n]? = some y ∧
    y = { x with progress := y.progress, final := y.final, cause := y.cause } ∧
    (o = .sent → y.progress = .final ∧ y.final = some .sent ∧ y.cause = none) ∧
    (o = .halted → y.progress = .final ∧ y.final = some .halted ∧ y.cause = none) ∧
    (∀ c, j.endCause = some c → o ≠ .sent → o ≠ .halted →
      y.progress = .final ∧ y.final = some .notSent ∧ y.cause = some c) ∧
    (j.endCause = none → o ∈ retryOutcomes → j.mayRetry n o = true → y.progress = .retryWait) ∧
    (j.endCause = none → o ∈ retryOutcomes → j.mayRetry n o = false →
      y.progress = .final ∧ y.final = some .gaveUp ∧ y.cause = none) ∧
    (j.endCause = none → o = .carriageFault →
      y.progress = .final ∧ y.final = some .notSent ∧ y.cause = some .carriageFault)
  waits : j.endCause = none → o ∈ retryOutcomes → j.mayRetry n o = true →
    k.retryList = insertRetry n (up + (j.current.map (·.retryInterval)).getD 0) j.retryList
  unlisted : j.endCause ≠ none ∨ o ∉ retryOutcomes ∨ j.mayRetry n o = false → k.retryList = j.retryList

theorem Jobs.decide_decided (n up : Nat) (o : AttemptOutcome) (j : Jobs) :
    Jobs.Decided n up o j (j.decide n up o) where
  rest := by
    unfold Jobs.decide
    (repeat' split) <;> simp [Jobs.mapDest]
  others := by
    unfold Jobs.decide
    refine ⟨?_, fun m h => ?_⟩ <;> (repeat' split) <;> simp [Jobs.mapDest, updateAt_other, *]
  dest x h := by
    unfold Jobs.decide
    cases o <;> cases he : j.endCause <;>
      simp [Jobs.mapDest, updateAt_at, h, Dest.finish, retryOutcomes, AttemptOutcome.retryable] <;>
      (split <;> simp_all [updateAt_at, Dest.finish])
  waits h1 h2 h3 := by
    unfold Jobs.decide
    cases o <;> simp_all [retryOutcomes, AttemptOutcome.retryable]
  unlisted h := by
    unfold Jobs.decide
    cases o <;> cases he : j.endCause <;> simp_all [Jobs.mapDest, retryOutcomes, AttemptOutcome.retryable]

theorem retryOutcomes_retryable (o : AttemptOutcome) (h : o ∈ retryOutcomes) : o.retryable = true := by
  revert h; cases o <;> decide

/-- A further attempt is allowed (R133). -/
theorem Jobs.mayRetry_iff (n : Nat) (o : AttemptOutcome) (j : Jobs) (x : Dest) (h : j.progress[n]? = some x)
    (ho : o.retryable = true) : j.mayRetry n o = true ↔
      x.attempts < 1 + (j.current.map fun j => j.retryLimit).getD 0 ∧ j.noRetry = false := by
  unfold Jobs.mayRetry
  rw [h, ho, Bool.and_eq_true, Bool.and_eq_true, decide_eq_true_iff]
  simp [and_comm]

/-- The decision of the Job Controller in `u` on its attempt's record `r` (R132 to R134). -/
theorem State.decide_recorded (u : State) (o : AttemptOutcome) (d : Detail) (r : AttemptRecord) (sigs : List Sig)
    (j k : Jobs)
    (hr : r = { u.record with
      frames := u.closedFrames, outcome := some o, detail := d, endingState := u.line.state
      endUptime := u.clock.uptime })
    (hj : j = { u.jobs.mapDest u.record.destSlot (Dest.takeFigures r) with scanSigs := sigs })
    (hk : k = j.decide u.record.destSlot u.clock.uptime o) :
    u.RecordDecided o d k.progress k.retryList ∧
      k = { u.jobs with scanSigs := sigs, progress := k.progress, retryList := k.retryList } := by
  have hd := j.decide_decided u.record.destSlot u.clock.uptime o
  rw [← hk] at hd
  have he : j.endCause = u.jobs.endCause := by rw [hj]; rfl
  have hat : ∀ w, u.jobs.progress[u.record.destSlot]? = some w →
      j.progress[u.record.destSlot]? = some (w.takeFigures r) := by
    intro w hw
    rw [hj]
    show (updateAt (Dest.takeFigures r) u.jobs.progress u.record.destSlot)[u.record.destSlot]? = _
    rw [updateAt_at, hw]
    rfl
  have hal : ∀ w, u.jobs.progress[u.record.destSlot]? = some w → o ∈ retryOutcomes →
      (j.mayRetry u.record.destSlot o = true ↔ u.retryAllowed w) := by
    intro w hw ho
    rw [Jobs.mayRetry_iff _ _ _ _ (hat w hw) (retryOutcomes_retryable o ho), hj]
    exact Iff.rfl
  have hfalse : ∀ b : Bool, ¬ b = true → b = false := by decide
  refine ⟨?_, hd.rest.trans (by rw [hj]; rfl)⟩
  constructor
  · intro w hw
    obtain ⟨y, hy, e1, e2, e3, e4, e5, e6, e7⟩ := hd.dest _ (hat w hw)
    refine ⟨y, hy, ?_⟩
    exact
      { figures := by rw [e1]; simp [Dest.takeFigures, hr]
        sent := e2
        halted := e3
        ended := fun c hc => e4 c (he.trans hc)
        again := fun a b c => e5 (he.trans a) b ((hal w hw b).2 c)
        gaveUp := fun a b c => e6 (he.trans a) b (hfalse _ fun q => c ((hal w hw b).1 q))
        carriage := fun a => e7 (he.trans a) }
  · refine ⟨by rw [hd.others.1, hj]; exact updateAt_length _ _ _, fun m hm => ?_⟩
    rw [hd.others.2 m hm, hj]
    exact updateAt_other _ _ hm
  · intro w hw hc ho ha
    rw [hd.waits (he.trans hc) ho ((hal w hw ho).2 ha), hj]
    rfl
  · intro h
    rw [hd.unlisted ?_, hj]
    · rfl
    · rcases h with h | h | ⟨x, hx, h⟩
      · exact .inl (by rw [he]; exact h)
      · exact .inr (.inl h)
      · by_cases ho : o ∈ retryOutcomes
        · exact .inr (.inr (hfalse _ fun q => h ((hal x hx ho).1 q)))
        · exact .inr (.inl ho)

/-! ## The look for the next attempt -/

/-- An update of an entry that is there sets it. -/
theorem updateAt_set {α : Type} (f : α → α) (l : List α) (n : Nat) (x : α) (h : l[n]? = some x) :
    updateAt f l n = l.set n (f x) := by
  induction l generalizing n with
  | nil => simp at h
  | cons a l ih =>
    cases n with
    | zero => simp at h; subst h; rfl
    | succ n => simp only [List.getElem?_cons_succ] at h; simp [updateAt, ih n h]

/-- The look for the next attempt (R127 to R129). -/
theorem State.look_looked (u : State) : u.Looked u.look where
  starts n d l h1 h2 h3 h4 := by
    obtain ⟨a, b, c, d', e, f⟩ := h1
    have hm : u.mayStart = true := by
      rcases a with a | a <;> simp [State.mayStart, a, JobState.running, b, c, d', e, f]
    unfold State.look
    rw [if_pos hm, h2]
    simp [State.startAttempt, h3, State.directoryAddr, h4, Jobs.mapDest, State.withJobs, updateAt_set _ _ _ _ h3,
      State.issue_eq, reads, addrsFrom]
  rests h := by
    unfold State.look
    split
    · rename_i hm
      rcases h with h | h
      · refine absurd ?_ h
        simp only [State.mayStart, Bool.and_eq_true, Option.isNone_iff_eq_none, Bool.not_eq_true', bne_iff_ne] at hm
        obtain ⟨⟨⟨⟨⟨a, b⟩, c⟩, d⟩, e⟩, f⟩ := hm
        refine ⟨?_, b, c, d, e, f⟩
        cases hs : u.jobs.state <;> simp_all [JobState.running]
      · rw [h]
    · rfl
  others := by
    unfold State.look
    split
    · split <;> rfl
    · rfl

/-! ## Taking the record -/

/-- Step 5 of R132, said once. -/
theorem State.afterRecord_followed (base : Nat) (o : AttemptOutcome) (s : State) :
    State.RecordFollowed o base s (s.afterRecord base o) where
  cut c h1 h2 := by simp [State.afterRecord, h1, h2]
  late c h1 h2 := by
    rw [← State.endLate_reached base c s h2]
    simp [State.afterRecord, h1, h2]
  freed c n take h1 h2 h3 := by
    obtain ⟨e1, e2⟩ := State.endLate_among base n c s h2
    rw [← State.endTake_freed _ take (by rw [e2]; exact h3), ← State.endTakeAmong, ← e1]
    simp [State.afterRecord, h1, h2]
  untaken c n h1 h2 h3 := by
    obtain ⟨e1, e2⟩ := State.endLate_among base n c s h2
    have : (s.requestsReached c).endTake = s.requestsReached c := by simp [State.endTake, e2, h3]
    rw [← this, ← State.endTakeAmong, ← e1]
    simp [State.afterRecord, h1, h2]
  carriage h1 h2 := by
    simp [State.afterRecord, h1, h2, State.finalizeJob_closed, State.withJobs]
  last h1 h2 h3 := by
    have : s.jobs.allFinal = true := by simpa [Jobs.allFinal] using h3
    simp [State.afterRecord, h1, h2, this, State.enterFinishing_finishing]
  more h1 h2 h3 := by
    have : s.jobs.allFinal = false := by
      obtain ⟨d, hd, hn⟩ := h3
      cases hq : s.jobs.allFinal with
      | false => rfl
      | true =>
        simp only [Jobs.allFinal, List.all_eq_true, beq_iff_eq] at hq
        exact absurd (hq d hd) hn
    refine ⟨s.settle, s.settle_settled, ?_⟩
    have he : s.afterRecord base o = s.settle.look := by simp [State.afterRecord, h1, h2, this]
    rw [he]
    exact s.settle.look_looked

/-- The Line Unit's part of an attempt's end (R74, R94). -/
theorem State.callEnded_eq (u : State) (o : AttemptOutcome) (d : Detail) (tone : Bool) :
    { u with
      record := u.closedRecord o d, line := u.line.endCall u.crystal u.now o d tone
      ring := u.ring.release, gate := u.gate.dropPrefetch } = u.callEnded o d tone := by
  unfold State.callEnded
  rw [Gate.dropPrefetch_eq]
  cases tone <;>
    simp [State.closedRecord, Line.endCall, Line.enterStopTone, Line.openRelay, Line.stopTimers, Line.tone,
      Line.snap, Ring.release, freshSlots, RingSlot.empty]

/-- The record taken up to step 4 of R132, said once. -/
theorem State.takeRecord_kept (v : State) (o : AttemptOutcome) (ha : v.jobs.attemptInProgress = true)
    (ho : v.record.outcome = some o) (j k : Jobs)
    (hj : j = { v.jobs.mapDest v.record.destSlot (Dest.takeFigures v.record) with scanSigs := v.stopped.jobs.scanSigs })
    (hk : k = j.decide v.record.destSlot v.clock.uptime o)
    (hr : k = { v.jobs with
      scanSigs := v.stopped.jobs.scanSigs, progress := k.progress, retryList := k.retryList }) :
    v.takeRecord = (v.recordKept o k.progress k.retryList).afterRecord v.gate.ops.length o := by
  have hs : (v.mapJobs (·.mapDest v.record.destSlot (Dest.takeFigures v.record))).stopped =
      { v.stopped with jobs := j } := by rw [hj]; rfl
  unfold State.takeRecord
  rw [if_pos ha]
  simp only [ho, Option.getD_some, State.scanStop_stopped, hs]
  congr 1
  have he : State.mapJobs
      (fun j => { j.decide v.record.destSlot v.clock.uptime o with attemptInProgress := false, currentDest := none })
      { v.stopped with jobs := j } =
      { v.stopped with
        jobs :=
          { v.stopped.jobs with
            progress := k.progress, retryList := k.retryList, attemptInProgress := false, currentDest := none } } := by
    have : ({ j.decide v.record.destSlot v.clock.uptime o with
        attemptInProgress := false, currentDest := none } : Jobs) =
        { v.stopped.jobs with
          progress := k.progress, retryList := k.retryList, attemptInProgress := false, currentDest := none } := by
      rw [← hk]; generalize hp : k.progress = ds at *; generalize k.retryList = l at *; rw [hr]; rfl
    simp only [State.mapJobs, State.withJobs, this]
  refine (congrArg State.issueHistory he).trans ?_
  simp [State.issueHistory, State.issue_eq, State.recordKept, State.historyOp, ho, codeOr, reads, State.directoryAddr, State.stopped]

/-- Taking the record touches neither the Slip Unit nor what it reads. -/
theorem State.afterRecord_slips (base : Nat) (o : AttemptOutcome) (s : State) :
    (s.afterRecord base o).slips = s.slips ∧ (s.afterRecord base o).layout = s.layout ∧
    (s.afterRecord base o).profile = s.profile ∧ (s.afterRecord base o).crystal = s.crystal ∧
    (s.afterRecord base o).record = s.record := by
  simp

/-- What an attempt's end does, said once (R74, R94 to R96, R132, R142). -/
theorem State.endAttempt_over (u : State) (o : AttemptOutcome) (d : Detail) (tone : Bool) :
    u.AttemptOver o d tone (u.endAttempt o d tone) := by
  have hv := u.callEnded_eq o d tone
  have hr : (u.callEnded o d tone).record = { u.record with
      frames := u.closedFrames, outcome := some o, detail := d, endingState := u.line.state
      endUptime := u.clock.uptime } := rfl
  have he : u.endAttempt o d tone = (u.callEnded o d tone).takeRecord.composeSlip := by
    rw [← hv]; rfl
  have hs : ∀ y : State, y.slips = u.slips → y.layout = u.layout → y.profile = u.profile → y.crystal = u.crystal →
      y.record = (u.callEnded o d tone).record → y.composeSlip =
      { y with slips := u.slips.compose u.now u.slipLog u.profile.header (u.callEnded o d tone).record } := by
    intro y h1 h2 h3 h4 h5
    simp [State.composeSlip, State.withSlips, State.slipLog, State.now, h1, h2, h3, h4, h5]
  constructor
  · intro ha
    have : (u.callEnded o d tone).takeRecord = u.callEnded o d tone := by
      unfold State.takeRecord
      rw [if_neg]
      rw [show (u.callEnded o d tone).jobs = u.jobs from rfl, ha]
      decide
    rw [he, this]
    exact hs _ rfl rfl rfl rfl rfl
  · intro ha
    generalize hw : u.callEnded o d tone = v at *
    have ho : v.record.outcome = some o := by rw [hr]
    have hj : v.jobs = u.jobs := by rw [← hw]; rfl
    have hn : v.record.destSlot = u.record.destSlot := by rw [hr]
    have hc : v.clock = u.clock := by rw [← hw]; rfl
    have hg : v.gate.ops = u.gate.ops := by rw [← hw]; rfl
    obtain ⟨k, hk⟩ : ∃ k, k = Jobs.decide u.record.destSlot u.clock.uptime o
        { u.jobs.mapDest u.record.destSlot (Dest.takeFigures v.record) with
          scanSigs := v.stopped.jobs.scanSigs } := ⟨_, rfl⟩
    obtain ⟨hd, hkr⟩ := u.decide_recorded o d v.record v.stopped.jobs.scanSigs _ k hr rfl hk
    have hm := v.takeRecord_kept o (by rw [hj]; exact ha) ho _ k rfl (by rw [hj, hn, hc]; exact hk)
      (by rw [hj]; exact hkr)
    rw [hg] at hm
    refine ⟨_, _, _, hd, State.afterRecord_followed _ _ _, ?_⟩
    rw [he, hm]
    obtain ⟨h1, h2, h3, h4, h5⟩ := State.afterRecord_slips u.gate.ops.length o (v.recordKept o k.progress k.retryList)
    exact hs _ (by rw [h1, ← hw]; rfl) (by rw [h2, ← hw]; rfl) (by rw [h3, ← hw]; rfl) (by rw [h4, ← hw]; rfl)
      (by rw [h5]; rfl)

end Sys2Proof.Machine
end

