-- ==== Sys2Proof/Laws/Attempt.lean ====
section
/-! SUPPORT. The end of an attempt as a step ends by it (R94): the events that wait after it, and what is left of a
record's taking under an end cause. -/

namespace Sys2Proof.Machine

/-! ## The carriage's events across an attempt's end -/

theorem Carriage.trackEnd_events (c : Carriage) : c.trackEnd.arrivalEvent = c.arrivalEvent ∧
    c.trackEnd.truncationEvent = c.truncationEvent ∧ c.trackEnd.faultEvent = c.faultEvent := by
  unfold Carriage.trackEnd
  split <;> simp [Carriage.toRest]

@[simp] theorem State.scanStop_events (s : State) :
    s.scanStop.carriage.arrivalEvent = s.carriage.arrivalEvent ∧
    s.scanStop.carriage.truncationEvent = s.carriage.truncationEvent ∧
    s.scanStop.carriage.faultEvent = s.carriage.faultEvent := by
  unfold State.scanStop
  split <;> simp [Carriage.trackEnd_events]

@[simp] theorem State.lampOff_events (s : State) :
    s.lampOff.carriage.arrivalEvent = s.carriage.arrivalEvent ∧
    s.lampOff.carriage.truncationEvent = s.carriage.truncationEvent ∧
    s.lampOff.carriage.faultEvent = s.carriage.faultEvent := by
  simp [State.lampOff]

@[simp] theorem State.finalizeJob_events (cause : Cause) (s : State) :
    (s.finalizeJob cause).carriage.arrivalEvent = s.carriage.arrivalEvent ∧
    (s.finalizeJob cause).carriage.truncationEvent = s.carriage.truncationEvent ∧
    (s.finalizeJob cause).carriage.faultEvent = s.carriage.faultEvent := by
  simp [State.finalizeJob]

@[simp] theorem State.endLate_events (base : Nat) (cause : Cause) (s : State) :
    (s.endLate base cause).carriage.arrivalEvent = s.carriage.arrivalEvent ∧
    (s.endLate base cause).carriage.truncationEvent = s.carriage.truncationEvent ∧
    (s.endLate base cause).carriage.faultEvent = s.carriage.faultEvent := by
  unfold State.endLate
  dsimp only
  (repeat' split) <;> simp

@[simp] theorem State.settle_events (s : State) :
    s.settle.carriage.arrivalEvent = s.carriage.arrivalEvent ∧
    s.settle.carriage.truncationEvent = s.carriage.truncationEvent ∧
    s.settle.carriage.faultEvent = s.carriage.faultEvent := by
  unfold State.settle
  dsimp only
  (repeat' split) <;> simp

@[simp] theorem State.takeRecord_events (s : State) :
    s.takeRecord.carriage.arrivalEvent = s.carriage.arrivalEvent ∧
    s.takeRecord.carriage.truncationEvent = s.carriage.truncationEvent ∧
    s.takeRecord.carriage.faultEvent = s.carriage.faultEvent := by
  unfold State.takeRecord State.afterRecord
  dsimp only
  (repeat' split) <;> simp

/-- The carriage's events across an attempt's end. -/
@[simp] theorem State.endAttempt_events (u : State) (o : AttemptOutcome) (d : Detail) (tone : Bool) :
    (u.endAttempt o d tone).carriage.arrivalEvent = u.carriage.arrivalEvent ∧
    (u.endAttempt o d tone).carriage.truncationEvent = u.carriage.truncationEvent ∧
    (u.endAttempt o d tone).carriage.faultEvent = u.carriage.faultEvent := by
  simp [State.endAttempt]

/-- After an attempt's end the Line Unit is not sending. -/
theorem State.endAttempt_notSending (u : State) (o : AttemptOutcome) (d : Detail) (tone : Bool) :
    (u.endAttempt o d tone).line.state.sending = false := by
  cases tone <;> simp [State.endAttempt, Line.endCall, Line.enterStopTone, Line.openRelay] <;> rfl

/-! ## The step that an attempt's end ends -/

/-- With no carriage event waiting, delivering events after an attempt's end at most takes the BAND_LOST of a
parked drum, which no turn is there to lose. -/
theorem State.endAttempt_deliver (u : State) (o : AttemptOutcome) (d : Detail) (tone : Bool)
    (ha : u.carriage.arrivalEvent = false) (ht : u.carriage.truncationEvent = false)
    (hf : u.carriage.faultEvent = false) :
    (u.endAttempt o d tone).deliver = (u.endAttempt o d tone).lossTaken := by
  obtain ⟨e1, e2, e3⟩ := u.endAttempt_events o d tone
  have hn := u.endAttempt_notSending o d tone
  generalize u.endAttempt o d tone = t at *
  cases hs : t.drum.bandLostSignal with
  | false =>
    rw [t.deliver_none (e1.trans ha) (e2.trans ht) (e3.trans hf) hs]
    simp [State.withDrum, ← hs]
  | true =>
    simp [State.deliver, State.takeTruncation, State.takeArrival, State.takeBandLost,
      State.takeCarriageFault, e1, e2, e3, ha, ht, hf, hs, hn]

/-- A command whose effect is an attempt's end, its events taken. -/
theorem State.endAttempt_ended (old u : State) (o : AttemptOutcome) (d : Detail) (tone : Bool)
    (ha : u.carriage.arrivalEvent = false) (ht : u.carriage.truncationEvent = false)
    (hf : u.carriage.faultEvent = false) :
    u.AttemptEnded o d tone (finish old (u.endAttempt o d tone).deliver) :=
  ⟨_, u.endAttempt_over o d tone, finish_ends_of (by rw [u.endAttempt_deliver o d tone ha ht hf]; rfl)⟩

/-- A BAND_LOST signalled while turns are sent ends the attempt (R88). -/
theorem State.bandLost_ended (old u v : State) (hu : v = { u with drum := { u.drum with bandLostSignal := true } })
    (hb : u.drum.bandLostSignal = false) (hs : u.line.state.sending = true)
    (ha : u.carriage.arrivalEvent = false) (ht : u.carriage.truncationEvent = false)
    (hf : u.carriage.faultEvent = false) :
    u.AttemptEnded .drumFault .bandLost true (finish old v.deliver) := by
  have hv : v.takeBandLost = (u.endAttempt .drumFault .bandLost true).lossTaken := by
    have : v.lossTaken = u := by rw [hu]; simp [State.withDrum, ← hb]
    unfold State.takeBandLost
    rw [this, hu]
    simp [hs]
  refine ⟨_, u.endAttempt_over .drumFault .bandLost true, finish_ends_of ?_⟩
  have h1 : v.takeTruncation = v := by simp [State.takeTruncation, hu, ht]
  have h2 : v.takeArrival = v := by simp [State.takeArrival, hu, ha]
  unfold State.deliver
  rw [h1, h2, hv]
  simp [State.takeCarriageFault, hf, State.withDrum]

end Sys2Proof.Machine
end

