-- ==== Sys2Proof/Laws/Captures.lean ====
section
/-! SUPPORT. What a capture makes of the Profile Shadow, said once (R176, R177). -/

namespace Sys2Proof.Machine

/-- A drum word in its range is captured into its value alone. -/
theorem DrumProfile.capture_allowed (p : Profile) (w v : Nat) (hw : w ≤ 25) (h : valueAllowed w v) :
    ∃ d, p.drum.capture w v = some d ∧ ({ p with drum := d } : Profile).values = p.values.set w v := by
  interval_cases w <;> simp only [valueAllowed] at h <;>
    simp only [DrumProfile.capture, inRange, stairValue, oneOf] <;>
    first
      | (rw [if_pos (by omega)]; exact ⟨_, rfl, rfl⟩)
      | (rcases h with rfl | rfl | rfl <;> exact ⟨_, rfl, rfl⟩)
      | (rcases h with rfl | rfl | rfl | rfl <;> exact ⟨_, rfl, rfl⟩)
      | (rcases h with rfl | h
         · exact ⟨_, rfl, rfl⟩
         · rw [if_neg (by omega), if_pos h]
           exact ⟨_, rfl, rfl⟩)
      | (interval_cases v <;> exact ⟨_, rfl, rfl⟩)

/-- A drum word out of its range is not captured. -/
theorem DrumProfile.capture_outside (p : DrumProfile) (w v : Nat) (hw : w ≤ 25) (h : ¬ valueAllowed w v) :
    p.capture w v = none := by
  interval_cases w <;> simp only [valueAllowed] at h <;>
    simp only [DrumProfile.capture, inRange, stairValue, oneOf] <;>
    first
      | (rw [if_neg (by omega)]; rfl)
      | (rw [if_neg (by omega), if_neg (by omega)]; rfl)
      | (rw [if_neg (by simp; omega)]; rfl)
      | (unfold policyOfCode; split <;> first | omega | rfl)

/-- A line word in its range is captured into its value alone. -/
theorem LineProfile.capture_allowed (p : Profile) (w v : Nat) (h1 : 32 ≤ w) (h2 : w < 47) (h : valueAllowed w v) :
    ∃ l, p.line.capture (w - 32) v = some l ∧ ({ p with line := l } : Profile).values = p.values.set w v := by
  interval_cases w <;> simp only [valueAllowed] at h <;>
    simp only [LineProfile.capture, inRange] <;> rw [if_pos (by omega)] <;> exact ⟨_, rfl, rfl⟩

/-- A line word out of its range is not captured. -/
theorem LineProfile.capture_outside (p : LineProfile) (w v : Nat) (h1 : 32 ≤ w) (h2 : w < 47)
    (h : ¬ valueAllowed w v) : p.capture (w - 32) v = none := by
  interval_cases w <;> simp only [valueAllowed] at h <;> simp only [LineProfile.capture, inRange] <;>
    rw [if_neg (by omega)] <;> rfl

/-- Words 26 to 31 and 48 to 63 hold no value. -/
theorem valueAllowed_holds (w v : Nat) (h : valueAllowed w v) : w ≤ 25 ∨ (32 ≤ w ∧ w ≤ 47) := by
  rcases Nat.lt_or_ge w 64 with hw | hw
  · interval_cases w <;> first | omega | exact absurd h (by simp [valueAllowed])
  · unfold valueAllowed at h
    split at h <;> first | omega | exact h.elim

/-- What a capture does (R176, R177). -/
theorem Profile.capture_captured (p : Profile) (w : Nat) (data : Word) : p.Captured w data (p.capture w data) where
  value v hw hv ha := by
    have hf : field data 0 31 = v := by simp [field, hv]
    unfold Profile.capture
    rw [hf]
    rcases valueAllowed_holds w v ha with h | h
    · obtain ⟨d, h1, h2⟩ := DrumProfile.capture_allowed p w v h ha
      rw [if_pos h, h1]
      exact ⟨_, rfl, h2, rfl, rfl, rfl⟩
    · rw [if_neg (by omega), if_neg (by omega)]
      rcases Nat.lt_or_ge w 47 with h' | h'
      · obtain ⟨l, h1, h2⟩ := LineProfile.capture_allowed p w v h.1 h' ha
        rw [if_pos h', h1]
        exact ⟨_, rfl, h2, rfl, rfl, rfl⟩
      · obtain rfl : w = 47 := by omega
        have ha : v ≤ 100 := ha
        rw [if_neg (by omega), if_pos rfl, inRange, if_pos (by omega)]
        exact ⟨_, rfl, rfl, rfl, rfl, rfl⟩
  outside v hw hv ha := by
    have hf : field data 0 31 = v := by simp [field, hv]
    unfold Profile.capture
    rw [hf]
    dsimp only
    rcases Nat.lt_or_ge 25 w with h | h
    · rw [if_neg (by omega)]
      rcases Nat.lt_or_ge w 32 with h' | h'
      · rw [if_pos h']
      · rw [if_neg (by omega)]
        rcases Nat.lt_trichotomy w 47 with h'' | rfl | h''
        · rw [if_pos h'', LineProfile.capture_outside p.line w v h' h'' ha]
          rfl
        · have ha : ¬ v ≤ 100 := ha
          rw [if_neg (by omega), if_pos rfl, inRange, if_neg (by omega)]
          rfl
        · rw [if_neg (by omega), if_neg (by omega), if_pos hw]
    · rw [if_pos h, DrumProfile.capture_outside p.drum w v h ha]
      rfl
  tones i a b h1 h2 hi ha hb := by
    have e1 : field data 0 16 = a := by simp [field, ha]
    have e2 : field data 16 15 = b := by simp [field, hb]
    unfold Profile.capture bankCapture
    rw [if_neg (by omega), if_neg (by omega), if_neg (by omega), if_neg (by omega), if_neg (by omega)]
    by_cases h : w < 96
    · rw [if_pos h, if_pos h, show w - 64 = i by omega]
      by_cases hh : 255 < a ∨ 255 < b
      · rw [if_pos hh, e1, e2, if_neg (by omega)]
        rfl
      · rw [if_neg hh, e1, e2, if_pos (by omega)]
        rfl
    · rw [if_neg h, if_neg h, if_pos h2, show w - 96 = i by omega]
      by_cases hh : 255 < a ∨ 255 < b
      · rw [if_pos hh, e1, e2, if_neg (by omega)]
        rfl
      · rw [if_neg hh, e1, e2, if_pos (by omega)]
        rfl
  text i a b c d h1 h2 hi ha hb hc hd := by
    have e1 : field data 0 8 = a := by simp [field, ha]
    have e2 : field data 8 8 = b := by simp [field, hb]
    have e3 : field data 16 8 = c := by simp [field, hc]
    have e4 : field data 24 7 = d := by simp [field, hd]
    unfold Profile.capture headerCapture
    rw [if_neg (by omega), if_neg (by omega), if_neg (by omega), if_neg (by omega), if_neg (by omega),
      if_neg (by omega), if_neg (by omega), if_pos h2, e1, e2, e3, e4, ← hi]
    by_cases hh : ∃ x ∈ [a, b, c, d], x < 32 ∨ 126 < x
    · rw [if_pos hh, if_neg (by simp at hh ⊢; omega)]
      rfl
    · rw [if_neg hh, if_pos (by simp at hh ⊢; omega)]
      rfl

end Sys2Proof.Machine
end

