-- ==== Sys2Proof/Laws/HostRead.lean ====
section
/-! SUPPORT. No operation of the part touches the read on the host bus but the taking of a host cycle, the end of its
word, and RESET; so what becomes of it at a step's end is `finish_reads` (R154, R160 to R162). -/

namespace Sys2Proof.Machine

/-! ## The Gate's own operations -/

@[simp] theorem Gate.issue_read (op : Op) (g : Gate) : (g.issue op).read = g.read := rfl
@[simp] theorem Gate.drop_read (a : Nat) (why : DropReason) (g : Gate) : (g.drop a why).read = g.read := rfl
@[simp] theorem Gate.forgetReturns_read (n : Nat) (g : Gate) : (g.forgetReturns n).read = g.read := rfl
@[simp] theorem Gate.forgetSends_read (e : Nat) (g : Gate) : (g.forgetSends e).read = g.read := rfl
@[simp] theorem Gate.takeLayout_read (l : Layout) (g : Gate) : (g.takeLayout l).read = g.read := rfl
@[simp] theorem Gate.clearCounters_read (g : Gate) : g.clearCounters.read = g.read := rfl
@[simp] theorem Gate.placeGuards_read (gs : List Guard) (g : Gate) : (g.placeGuards gs).read = g.read := rfl
@[simp] theorem Gate.dropScan_read (g : Gate) : g.dropScan.read = g.read := rfl
@[simp] theorem Gate.dropPrefetch_read (g : Gate) : g.dropPrefetch.read = g.read := rfl

/-! ## The operations of the blocks -/

@[simp] theorem State.issue_read (kind : OpKind) (todo : List OpWord) (s : State) :
    (s.issue kind todo).gate.read = s.gate.read := rfl
@[simp] theorem State.issueAll_read (ops : List (OpKind × List OpWord)) (s : State) :
    (s.issueAll ops).gate.read = s.gate.read := by
  unfold State.issueAll
  induction ops generalizing s with
  | nil => rfl
  | cons op ops ih => rw [List.foldl_cons, ih]; exact s.issue_read _ _

@[simp] theorem State.slideLast_read (base ahead : Nat) (s : State) :
    (s.slideLast base ahead).gate.read = s.gate.read := rfl
@[simp] theorem State.controlStep_read (s : State) : s.controlStep.gate.read = s.gate.read := by
  unfold State.controlStep
  split <;> simp
@[simp] theorem State.acceptWrite_read (w : HostWrite) (s : State) : (s.acceptWrite w).gate.read = s.gate.read := by
  unfold State.acceptWrite
  (repeat' split) <;> simp
@[simp] theorem State.acceptWaiting_read (s : State) : s.acceptWaiting.gate.read = s.gate.read := by
  unfold State.acceptWaiting
  split <;> simp
@[simp] theorem State.drain_read (w : HostWrite) (rest : List HostWrite) (s : State) :
    (s.drain w rest).gate.read = s.gate.read := by simp [State.drain]
@[simp] theorem State.parkWrite_read (w : HostWrite) (s : State) : (s.parkWrite w).gate.read = s.gate.read := rfl
@[simp] theorem State.post_read (c : Completion) (s : State) : (s.post c).gate.read = s.gate.read := rfl
@[simp] theorem State.handOn_read (c : Completion) (s : State) : (s.handOn c).gate.read = s.gate.read := by
  unfold State.handOn
  split <;> simp
@[simp] theorem State.handOnAll_read (cs : List Completion) (s : State) :
    (s.handOnAll cs).gate.read = s.gate.read := by
  unfold State.handOnAll
  induction cs generalizing s with
  | nil => rfl
  | cons c cs ih => rw [List.foldl_cons, ih, State.handOn_read]

@[simp] theorem State.postBacklog_read (cs : List Completion) (s : State) :
    (State.postBacklog cs s).gate.read = s.gate.read := by
  induction cs generalizing s with
  | nil => rfl
  | cons c cs ih =>
    unfold State.postBacklog
    split
    · rw [ih, State.post_read]
    · rfl

@[simp] theorem State.posted_read (slot : Option Nat) (quiet : Bool) (s : State) :
    (s.posted slot quiet).gate.read = s.gate.read := by
  unfold State.posted
  split <;> simp
@[simp] theorem State.beginTake_read (s : State) : s.beginTake.gate.read = s.gate.read := rfl
@[simp] theorem State.entryRead_read (e : Nat) (s : State) : (s.entryRead e).gate.read = s.gate.read := by
  unfold State.entryRead
  split <;> simp
@[simp] theorem State.endTake_read (s : State) : s.endTake.gate.read = s.gate.read := by
  unfold State.endTake
  split <;> simp
@[simp] theorem State.endTakeAmong_read (base ahead : Nat) (s : State) :
    (s.endTakeAmong base ahead).gate.read = s.gate.read := by simp [State.endTakeAmong]
@[simp] theorem State.takeEntry_read (e : Nat) (s : State) : (s.takeEntry e).gate.read = s.gate.read := by
  simp [State.takeEntry]
@[simp] theorem State.popMailbox_read (s : State) : s.popMailbox.gate.read = s.gate.read := rfl
@[simp] theorem State.popLayout_read (s : State) : s.popLayout.gate.read = s.gate.read := rfl
@[simp] theorem State.beginLoad_read (s : State) : s.beginLoad.gate.read = s.gate.read := rfl
@[simp] theorem State.endLoad_read (result : LoadResult) (reason : Option LoadReason) (s : State) :
    (s.endLoad result reason).gate.read = s.gate.read := by
  unfold State.endLoad
  dsimp only
  (repeat' split) <;> simp
@[simp] theorem State.takeLayout_read (l : Layout) (s : State) : (s.takeLayout l).gate.read = s.gate.read := rfl
@[simp] theorem State.endProfileLoad_read (l : Layout) (s : State) :
    (s.endProfileLoad l).gate.read = s.gate.read := by
  unfold State.endProfileLoad
  split <;> simp
@[simp] theorem State.blockArrived_read (words : List Word) (s : State) :
    (s.blockArrived words).gate.read = s.gate.read := by
  unfold State.blockArrived
  split <;> simp
@[simp] theorem State.generationWritten_read (s : State) : s.generationWritten.gate.read = s.gate.read := by
  unfold State.generationWritten
  split <;> simp
@[simp] theorem State.clearCounters_read (s : State) : s.clearCounters.gate.read = s.gate.read := rfl
@[simp] theorem State.nextCurrent_read (s : State) : s.nextCurrent.gate.read = s.gate.read := by
  unfold State.nextCurrent
  split <;> simp
@[simp] theorem State.queueChain_read (j : Job) (s : State) : (s.queueChain j).gate.read = s.gate.read := by
  simp [State.queueChain]
@[simp] theorem State.startAttempt_read (n : Nat) (s : State) : (s.startAttempt n).gate.read = s.gate.read := rfl
@[simp] theorem State.look_read (s : State) : s.look.gate.read = s.gate.read := by
  unfold State.look
  (repeat' split) <;> simp
@[simp] theorem State.leaveMountWait_read (s : State) : s.leaveMountWait.gate.read = s.gate.read := by
  unfold State.leaveMountWait
  split <;> simp
@[simp] theorem State.serveBacklog_read (s : State) : s.serveBacklog.gate.read = s.gate.read := by
  unfold State.serveBacklog
  dsimp only
  (repeat' split) <;> simp
@[simp] theorem State.enterFinishing_read (s : State) : s.enterFinishing.gate.read = s.gate.read := by
  unfold State.enterFinishing
  split <;> simp
@[simp] theorem State.scanStop_read (s : State) : s.scanStop.gate.read = s.gate.read := by
  unfold State.scanStop
  split <;> simp
@[simp] theorem State.lampOff_read (s : State) : s.lampOff.gate.read = s.gate.read := by simp [State.lampOff]
@[simp] theorem State.truncateFrame_read (s : State) : s.truncateFrame.gate.read = s.gate.read := by
  unfold State.truncateFrame
  (repeat' split) <;> simp
@[simp] theorem State.takeTruncation_read (s : State) : s.takeTruncation.gate.read = s.gate.read := by
  unfold State.takeTruncation
  split <;> simp
@[simp] theorem State.scanWrote_read (x : Access) (s : State) : (s.scanWrote x).gate.read = s.gate.read := rfl
@[simp] theorem State.entryWritten_read (x : Access) (isLive : Bool) (s : State) :
    (s.entryWritten x isLive).gate.read = s.gate.read := by
  unfold State.entryWritten
  split <;> simp
@[simp] theorem State.headerWritten_read (x : Access) (isLive : Bool) (s : State) :
    (s.headerWritten x isLive).gate.read = s.gate.read := by
  unfold State.headerWritten
  dsimp only
  (repeat' split) <;> simp
@[simp] theorem State.finalizeJob_read (cause : Cause) (s : State) :
    (s.finalizeJob cause).gate.read = s.gate.read := by simp [State.finalizeJob]
@[simp] theorem State.endLate_read (base : Nat) (cause : Cause) (s : State) :
    (s.endLate base cause).gate.read = s.gate.read := by
  unfold State.endLate
  dsimp only
  (repeat' split) <;> simp
@[simp] theorem State.issueHistory_read (s : State) : s.issueHistory.gate.read = s.gate.read := rfl
@[simp] theorem State.settle_read (s : State) : s.settle.gate.read = s.gate.read := by
  unfold State.settle
  dsimp only
  (repeat' split) <;> simp
@[simp] theorem State.afterRecord_read (base : Nat) (o : AttemptOutcome) (s : State) :
    (s.afterRecord base o).gate.read = s.gate.read := by
  unfold State.afterRecord
  (repeat' split) <;> simp
@[simp] theorem State.takeRecord_read (s : State) : s.takeRecord.gate.read = s.gate.read := by
  unfold State.takeRecord
  split <;> simp
@[simp] theorem State.finishJob_read (s : State) : s.finishJob.gate.read = s.gate.read := by
  unfold State.finishJob
  split <;> simp
@[simp] theorem State.endOfProfile_read (s : State) : s.endOfProfile.gate.read = s.gate.read := by
  unfold State.endOfProfile
  split <;> simp
@[simp] theorem State.closeTurn_read (s : State) : s.closeTurn.gate.read = s.gate.read := rfl
@[simp] theorem State.endAttempt_read (o : AttemptOutcome) (d : Detail) (tone : Bool) (s : State) :
    (s.endAttempt o d tone).gate.read = s.gate.read := by simp [State.endAttempt]
@[simp] theorem State.cut_read (cause : Cause) (s : State) : (s.cut cause).gate.read = s.gate.read := by
  unfold State.cut
  (repeat' split) <;> simp
@[simp] theorem State.takeBandLost_read (s : State) : s.takeBandLost.gate.read = s.gate.read := by
  unfold State.takeBandLost
  (repeat' split) <;> simp
@[simp] theorem State.endJob_read (cause : Cause) (bandLostFirst : Bool) (s : State) :
    (s.endJob cause bandLostFirst).gate.read = s.gate.read := by
  unfold State.endJob
  dsimp only
  (repeat' split) <;> simp
@[simp] theorem State.endJobAs_read (late : Bool) (cause : Cause) (s : State) :
    (s.endJobAs late cause).gate.read = s.gate.read := by
  unfold State.endJobAs
  split <;> simp
@[simp] theorem State.completeEnd_read (s : State) : s.completeEnd.gate.read = s.gate.read := by
  unfold State.completeEnd
  dsimp only
  (repeat' split) <;> simp
@[simp] theorem State.takeCarriageFault_read (s : State) : s.takeCarriageFault.gate.read = s.gate.read := by
  unfold State.takeCarriageFault
  dsimp only
  (repeat' split) <;> simp
@[simp] theorem State.deliver_read (s : State) : s.deliver.gate.read = s.gate.read := by simp [State.deliver]
@[simp] theorem State.drumFault_read (kind : DrumFault) (s : State) : (s.drumFault kind).gate.read = s.gate.read := by
  unfold State.drumFault
  dsimp only
  split <;> simp
@[simp] theorem State.drumNotReady_read (s : State) : s.drumNotReady.gate.read = s.gate.read := by
  simp [State.drumNotReady]
@[simp] theorem State.sendTurn_read (s : State) : s.sendTurn.gate.read = s.gate.read := by
  unfold State.sendTurn
  (repeat' split) <;> simp
@[simp] theorem State.whiteTurn_read (b : Bool) (s : State) : (s.whiteTurn b).gate.read = s.gate.read := by
  unfold State.whiteTurn
  split <;> simp
@[simp] theorem State.askFrames_read (b : Bool) (n : Nat) (s : State) :
    (State.askFrames b n s).gate.read = s.gate.read := by
  induction n generalizing s with
  | zero => rfl
  | succ n ih =>
    unfold State.askFrames
    dsimp only
    (repeat' split) <;> simp [ih]

@[simp] theorem State.enterSeparator_read (s : State) : s.enterSeparator.gate.read = s.gate.read := by
  simp [State.enterSeparator]
@[simp] theorem State.pictureTurn_read (s : State) : s.pictureTurn.gate.read = s.gate.read := by
  unfold State.pictureTurn
  dsimp only
  (repeat' split) <;> simp
@[simp] theorem State.nextPhasingTurn_read (s : State) : s.nextPhasingTurn.gate.read = s.gate.read := by
  unfold State.nextPhasingTurn
  dsimp only
  (repeat' split) <;> simp
@[simp] theorem State.lineIndex_read (s : State) : s.lineIndex.gate.read = s.gate.read := by
  unfold State.lineIndex
  dsimp only
  (repeat' split) <;> simp
@[simp] theorem State.endPhasing_read (s : State) : s.endPhasing.gate.read = s.gate.read := by
  unfold State.endPhasing
  split <;> simp
@[simp] theorem State.index_read (b : Bool) (s : State) : (s.index b).gate.read = s.gate.read := by
  unfold State.index
  (repeat' split) <;> simp
@[simp] theorem State.tachEvent_read (cells : Cells) (b : Bool) (s : State) :
    (s.tachEvent cells b).gate.read = s.gate.read := by
  unfold State.tachEvent
  dsimp only
  (repeat' split) <;> simp
@[simp] theorem State.actOnTone_read (tone : Tone) (s : State) : (s.actOnTone tone).gate.read = s.gate.read := by
  unfold State.actOnTone
  split <;> simp
@[simp] theorem State.refuseChain_read (head : Nat) (reason : RefusalReason) (s : State) :
    (s.refuseChain head reason).gate.read = s.gate.read := by simp [State.refuseChain]
@[simp] theorem State.fetchMember_read (head : Option ChainHead) (members : List Member) (a : Nat) (s : State) :
    (s.fetchMember head members a).gate.read = s.gate.read := by
  unfold State.fetchMember
  split <;> simp
@[simp] theorem State.endChain_read (h : ChainHead) (members : List Member) (s : State) :
    (s.endChain h members).gate.read = s.gate.read := by
  unfold State.endChain
  split <;> simp
@[simp] theorem State.memberArrived_read (words : List Word) (s : State) :
    (s.memberArrived words).gate.read = s.gate.read := by
  unfold State.memberArrived
  dsimp only
  (repeat' split) <;> simp
@[simp] theorem State.abortNotFound_read (a : Nat) (s : State) : (s.abortNotFound a).gate.read = s.gate.read := by
  simp [State.abortNotFound]
@[simp] theorem State.abort_read (late : Bool) (ahead a : Nat) (s : State) :
    (s.abort late ahead a).gate.read = s.gate.read := by
  unfold State.abort
  (repeat' split) <;> simp
@[simp] theorem State.abortedWritten_read (j : Job) (s : State) : (s.abortedWritten j).gate.read = s.gate.read := by
  simp [State.abortedWritten]
@[simp] theorem State.clampOpen_read (b late : Bool) (s : State) : (s.clampOpen b late).gate.read = s.gate.read := by
  unfold State.clampOpen
  dsimp only
  (repeat' split) <;> simp
@[simp] theorem State.tick_read (s : State) : s.tick.gate.read = s.gate.read := by simp [State.tick]
@[simp] theorem State.loseLine_read (s : State) : s.loseLine.gate.read = s.gate.read := by
  unfold State.loseLine
  (repeat' split) <;> simp
@[simp] theorem State.lineRests_read (s : State) : s.lineRests.gate.read = s.gate.read := by simp [State.lineRests]
@[simp] theorem State.clearDrum_read (s : State) : s.clearDrum.gate.read = s.gate.read := by
  unfold State.clearDrum
  dsimp only
  split <;> simp
theorem State.tryAction_read (w : Nat) (data : Word) (be : ByteEnables) (act : Option (State → State)) (s : State)
    (h : ∀ f, act = some f → ∀ s : State, (f s).gate.read = s.gate.read) :
    (s.tryAction w data be act).gate.read = s.gate.read := by
  unfold State.tryAction
  split
  · simp
  · split
    · exact h _ rfl _
    · simp

end Sys2Proof.Machine
end

