-- ==== Sys2Proof/Laws/Turn.lean ====
section
/-! SUPPORT. The turn measurement of the drum (R1) across everything that the other blocks do at a tach
event: only the tach event itself changes it. -/

namespace Sys2Proof.Machine

/-- What R1 keeps of the turn. -/
structure Drum.SameTurn (d e : Drum) : Prop where
  armed : e.indexArmed = d.indexArmed
  interval : e.interval = d.interval
  synced : e.synced = d.synced
  lenLast : e.lenLast = d.lenLast
  lenPrev : e.lenPrev = d.lenPrev
  lastTach : e.lastTach = d.lastTach
  turnErrors : e.turnErrors = d.turnErrors

theorem Drum.SameTurn.refl (d : Drum) : d.SameTurn d := ⟨rfl, rfl, rfl, rfl, rfl, rfl, rfl⟩

theorem Drum.SameTurn.of_eq {d e : Drum} (h : e = d) : d.SameTurn e := h ▸ .refl d

theorem Drum.SameTurn.trans {d e f : Drum} (a : d.SameTurn e) (b : e.SameTurn f) : d.SameTurn f :=
  ⟨b.armed.trans a.armed, b.interval.trans a.interval, b.synced.trans a.synced, b.lenLast.trans a.lenLast,
    b.lenPrev.trans a.lenPrev, b.lastTach.trans a.lastTach, b.turnErrors.trans a.turnErrors⟩

theorem Drum.park_turn (p : DrumProfile) (t : Nat) (m : ParkMode) (d : Drum) : d.SameTurn (d.park p t m) := by
  unfold Drum.park
  dsimp only
  split <;> exact ⟨rfl, rfl, rfl, rfl, rfl, rfl, rfl⟩

theorem State.settle_turn (s : State) : s.drum.SameTurn s.settle.drum := by
  unfold State.settle
  dsimp only
  split
  · split
    · simpa [State.park] using s.drum.park_turn _ _ _
    · exact .of_eq (by simp)
  · split <;> exact .of_eq (by simp)

theorem State.endLate_turn (base : Nat) (cause : Cause) (s : State) :
    s.drum.SameTurn (s.endLate base cause).drum := by
  unfold State.endLate
  dsimp only
  by_cases hc : cause = .mediaRemoved
  · rw [if_pos hc]
    (repeat' split) <;> simpa [State.park] using s.drum.park_turn _ _ _
  · rw [if_neg hc]
    (repeat' split) <;> exact .of_eq (by simp)

theorem State.afterRecord_turn (b : Nat) (o : AttemptOutcome) (s : State) :
    s.drum.SameTurn (s.afterRecord b o).drum := by
  unfold State.afterRecord
  split
  · split
    · exact s.endLate_turn _ _
    · exact .refl _
  · split
    · exact .of_eq (by simp)
    · split
      · exact .of_eq (by simp)
      · simpa using s.settle_turn

theorem State.takeRecord_turn (s : State) : s.drum.SameTurn s.takeRecord.drum := by
  unfold State.takeRecord
  split
  · dsimp only
    refine Drum.SameTurn.trans (.of_eq ?_) (State.afterRecord_turn _ _ _)
    simp
  · exact .refl _

theorem State.endAttempt_turn (o : AttemptOutcome) (d : Detail) (tone : Bool) (s : State) :
    s.drum.SameTurn (s.endAttempt o d tone).drum := by
  unfold State.endAttempt
  rw [show ∀ x : State, x.composeSlip.drum = x.drum from fun x => by simp]
  exact Drum.SameTurn.trans (.of_eq (by rfl)) (State.takeRecord_turn _)

theorem State.drumNotReady_turn (s : State) : s.drum.SameTurn s.drumNotReady.drum := s.endAttempt_turn _ _ _

theorem State.sendTurn_turn (s : State) : s.drum.SameTurn s.sendTurn.drum := by
  unfold State.sendTurn
  split
  · split <;> exact .of_eq (by simp)
  · exact s.drumNotReady_turn

theorem State.whiteTurn_turn (b : Bool) (s : State) : s.drum.SameTurn (s.whiteTurn b).drum := by
  unfold State.whiteTurn
  split
  · exact .of_eq (by simp)
  · exact s.drumNotReady_turn

theorem State.askFrames_turn (b : Bool) (n : Nat) (s : State) : s.drum.SameTurn (State.askFrames b n s).drum := by
  induction n generalizing s with
  | zero => exact .refl _
  | succ n ih =>
    unfold State.askFrames
    split
    · dsimp only
      split
      · exact Drum.SameTurn.trans (.of_eq (by simp)) (State.endAttempt_turn _ _ _ _)
      · exact Drum.SameTurn.trans (.of_eq (by simp)) (ih _)
    · split
      · split
        · exact Drum.SameTurn.trans (.of_eq (by simp)) (State.sendTurn_turn _)
        · exact s.drumNotReady_turn
      · exact s.whiteTurn_turn b
    · exact s.whiteTurn_turn b

theorem State.enterSeparator_turn (s : State) : s.drum.SameTurn s.enterSeparator.drum :=
  Drum.SameTurn.trans (.of_eq (by simp)) (State.askFrames_turn _ _ _)

theorem State.pictureTurn_turn (s : State) : s.drum.SameTurn s.pictureTurn.drum := by
  unfold State.pictureTurn
  split
  · dsimp only
    split
    · exact Drum.SameTurn.trans (.of_eq (by simp)) (State.endAttempt_turn _ _ _ _)
    · exact Drum.SameTurn.trans (.of_eq (by simp)) (State.enterSeparator_turn _)
  · exact s.sendTurn_turn

theorem State.nextPhasingTurn_turn (s : State) : s.drum.SameTurn s.nextPhasingTurn.drum := by
  unfold State.nextPhasingTurn
  dsimp only
  split
  · exact .of_eq (by simp)
  · split
    · exact .of_eq (by simp)
    · exact Drum.SameTurn.trans (.of_eq (by simp)) (State.drumNotReady_turn _)

theorem State.lineIndex_turn (s : State) : s.drum.SameTurn s.lineIndex.drum := by
  have h : s.closeTurn.drum = s.drum := by simp
  unfold State.lineIndex
  dsimp only
  split
  · split <;> exact .of_eq (by simp)
  · exact Drum.SameTurn.trans (.of_eq h) (State.nextPhasingTurn_turn _)
  · exact Drum.SameTurn.trans (.of_eq h) (State.pictureTurn_turn _)
  · exact Drum.SameTurn.trans (.of_eq h) (State.askFrames_turn _ _ _)
  · exact .of_eq h

theorem State.index_turn (b : Bool) (s : State) : s.drum.SameTurn (s.index b).drum := by
  have h : ∀ x : State, x.scanIndex.drum = x.drum := fun x => by simp
  unfold State.index
  split
  · exact Drum.SameTurn.trans (.of_eq (h s)) (State.lineIndex_turn _)
  · split
    · rw [h]; exact s.lineIndex_turn
    · exact s.lineIndex_turn

theorem State.takeBandLost_turn (s : State) : s.drum.SameTurn s.takeBandLost.drum := by
  unfold State.takeBandLost
  split
  · split
    · have h := s.lossTaken.endAttempt_turn .drumFault .bandLost true
      exact ⟨h.1, h.2, h.3, h.4, h.5, h.6, h.7⟩
    · exact ⟨rfl, rfl, rfl, rfl, rfl, rfl, rfl⟩
  · exact .refl _

theorem State.cut_turn (c : Cause) (s : State) : s.drum.SameTurn (s.cut c).drum := by
  unfold State.cut
  split
  · exact s.endAttempt_turn _ _ _
  · split
    · exact s.endAttempt_turn _ _ _
    · exact .refl _

theorem State.endJob_turn (c : Cause) (b : Bool) (s : State) : s.drum.SameTurn (s.endJob c b).drum := by
  unfold State.endJob
  dsimp only
  rw [show ∀ x : State, (x.finalizeJob c).drum = x.drum from fun x => by simp]
  split
  · split
    · exact Drum.SameTurn.trans (.of_eq (by rfl)) ((State.takeBandLost_turn _).trans (State.cut_turn _ _))
    · exact Drum.SameTurn.trans (.of_eq (by rfl)) (State.takeBandLost_turn _)
  · split
    · exact Drum.SameTurn.trans (.of_eq (by rfl)) (State.cut_turn _ _)
    · exact .of_eq (by rfl)

theorem State.endJobAs_turn (late : Bool) (c : Cause) (s : State) :
    s.drum.SameTurn (s.endJobAs late c).drum := by
  unfold State.endJobAs
  split
  · exact .of_eq (by simp)
  · exact s.endJob_turn _ _

theorem State.takeCarriageFault_turn (s : State) :
    s.drum.SameTurn s.takeCarriageFault.drum := by
  unfold State.takeCarriageFault
  dsimp only
  split
  · split
    · exact Drum.SameTurn.trans (.of_eq (by simp)) (State.endJobAs_turn _ _ _)
    · exact .of_eq (by simp)
  · exact .refl _

theorem State.deliver_turn (s : State) : s.drum.SameTurn s.deliver.drum := by
  unfold State.deliver
  have h : s.takeTruncation.takeArrival.drum = s.drum := by simp
  exact (Drum.SameTurn.trans (.of_eq h) (State.takeBandLost_turn _)).trans (State.takeCarriageFault_turn _)

/-- After a tach event the turn is what the Regulator's own rule makes it (R1). -/
theorem State.tachEvent_turn (cells : Cells) (b : Bool) (s : State) :
    (s.drum.tach s.profile.drum s.now).SameTurn (s.tachEvent cells b).deliver.drum := by
  refine Drum.SameTurn.trans ?_ (State.deliver_turn _)
  unfold State.tachEvent
  dsimp only
  have hp : (s.closeInterval cells).profile = s.profile := by simp
  have hd : (s.closeInterval cells).drum = s.drum := by simp
  have hc : (s.closeInterval cells).crystal = s.crystal := by simp
  split
  · refine Drum.SameTurn.trans (.of_eq ?_) (State.index_turn _ _)
    split <;> simp [State.now]
  · refine .of_eq ?_
    simp only [State.phasingWhite]
    (repeat' split) <;> simp [State.now]

end Sys2Proof.Machine
end

