-- ==== Sys2Proof/Laws/JobEnd.lean ====
section
/-! SUPPORT. What the end of a job by a cause does, said once (R114), at once or after its requests were on their
way. -/

namespace Sys2Proof.Machine

/-! ## An attempt's end under an end cause -/

/-- The decision on the record of the attempt in progress, once its scanner is stopped (R132 to R134). -/
def State.decision (u : State) (o : AttemptOutcome) (d : Detail) (tone : Bool) : Jobs :=
  Jobs.decide u.record.destSlot u.clock.uptime o
    { u.jobs.mapDest u.record.destSlot (Dest.takeFigures (u.callEnded o d tone).record) with
      scanSigs := (u.callEnded o d tone).stopped.jobs.scanSigs }

/-- An attempt's end up to step 4 of R132, said once. -/
theorem State.endAttempt_kept (u : State) (o : AttemptOutcome) (d : Detail) (tone : Bool)
    (ha : u.jobs.attemptInProgress = true) :
    u.endAttempt o d tone =
      (((u.callEnded o d tone).recordKept o (u.decision o d tone).progress (u.decision o d tone).retryList).afterRecord
        u.gate.ops.length o).composeSlip := by
  obtain ⟨_, hk⟩ := u.decide_recorded o d (u.callEnded o d tone).record (u.callEnded o d tone).stopped.jobs.scanSigs _
    (u.decision o d tone) rfl rfl rfl
  have hm := (u.callEnded o d tone).takeRecord_kept o ha rfl _ (u.decision o d tone) rfl rfl hk
  rw [← show (u.callEnded o d tone).gate.ops.length = u.gate.ops.length from rfl, ← hm, ← u.callEnded_eq o d tone]
  rfl

/-- Under an end cause whose requests have reached their units the job goes no further (R132). -/
theorem State.endAttempt_cut (u : State) (o : AttemptOutcome) (d : Detail) (tone : Bool) (c : Cause)
    (hc : u.jobs.endCause = some c) (hr : u.jobs.requestsDue = none) :
    u.endAttempt o d tone = State.composeSlip
      (if u.jobs.attemptInProgress = true then
        (u.callEnded o d tone).recordKept o (u.decision o d tone).progress (u.decision o d tone).retryList
      else u.callEnded o d tone) := by
  by_cases ha : u.jobs.attemptInProgress = true
  · rw [if_pos ha, u.endAttempt_kept o d tone ha]
    exact congrArg State.composeSlip ((State.afterRecord_followed _ _ _).cut c hc hr)
  · rw [if_neg ha, ← u.callEnded_eq o d tone, State.endAttempt, State.takeRecord, if_neg ha]

/-- The drum, the end cause and its requests across such an end. -/
theorem State.endAttempt_underCause (u : State) (o : AttemptOutcome) (d : Detail) (tone : Bool) (c : Cause)
    (hc : u.jobs.endCause = some c) (hr : u.jobs.requestsDue = none) :
    (u.endAttempt o d tone).drum = u.drum ∧ (u.endAttempt o d tone).jobs.endCause = some c ∧
    (u.endAttempt o d tone).jobs.requestsDue = none := by
  rw [u.endAttempt_cut o d tone c hc hr]
  split <;> exact ⟨rfl, hc, hr⟩

/-- The cut request of an end cause (R93). -/
theorem State.cut_eq (u : State) (cause : Cause) : u.cut cause =
    if u.line.state.attempting = true then u.endAttempt cause.outcome cause.detail (!u.line.state.unanswered)
    else u := by
  unfold State.cut LineState.attempting
  cases u.line.state.unanswered <;> cases u.line.state.answered <;> rfl

/-! ## The end of a job by a cause -/

/-- What a job's end by a cause does, said once (R114). -/
theorem State.endJob_over (u : State) (cause : Cause) : u.JobOver cause (u.endJob cause false) where
  calling ha hl := by
    refine ⟨_, State.endAttempt_over _ _ _ _, ?_⟩
    unfold State.endJob
    simp only [State.finalizeJob_closed, State.cut_eq, Bool.false_eq_true, if_false]
    rw [if_pos (show (u.mapJobs fun j => { j with endCause := some cause }).jobs.attemptInProgress = true from ha),
      if_pos (show (u.mapJobs fun j => { j with endCause := some cause }).line.state.attempting = true from hl)]
    rfl
  waiting h := by
    unfold State.endJob
    simp only [State.finalizeJob_closed, State.cut_eq, Bool.false_eq_true, if_false]
    have h' : (if (u.mapJobs fun j => { j with endCause := some cause }).jobs.attemptInProgress = true then
        if (u.mapJobs fun j => { j with endCause := some cause }).line.state.attempting = true then
          (u.mapJobs fun j => { j with endCause := some cause }).endAttempt cause.outcome cause.detail
            (!(u.mapJobs fun j => { j with endCause := some cause }).line.state.unanswered)
        else u.mapJobs fun j => { j with endCause := some cause }
      else u.mapJobs fun j => { j with endCause := some cause }) =
        u.mapJobs fun j => { j with endCause := some cause } := by
      rcases h with h | h <;> simp [h]
    rw [h']
    rfl

/-- A command whose effect is a job's end. -/
theorem State.endJob_ended (old u : State) (cause : Cause) : u.JobEnded cause (finish old (u.endJob cause false)) :=
  ⟨_, u.endJob_over cause, finish_ends _ _⟩

/-- A job's end by a cause does not look at the signal of a BAND_LOST. -/
theorem State.endJob_lost (u : State) (cause : Cause) (b : Bool) (hr : u.jobs.requestsDue = none) :
    State.endJob cause false { u with drum := { u.drum with bandLostSignal := b } } =
      { u.endJob cause false with drum := { (u.endJob cause false).drum with bandLostSignal := b } } := by
  have hf : ∀ x : State, State.finishing { x with drum := { x.drum with bandLostSignal := b } } =
      { x.finishing with drum := { x.finishing.drum with bandLostSignal := b } } := by
    intro x
    unfold State.finishing
    dsimp only
    cases x.jobs.current <;> rfl
  have hc : ∀ x : State, State.closedBy cause { x with drum := { x.drum with bandLostSignal := b } } =
      { x.closedBy cause with drum := { (x.closedBy cause).drum with bandLostSignal := b } } := by
    intro x
    unfold State.closedBy
    rw [← hf]
    rfl
  have he : ∀ (x : State) (o : AttemptOutcome) (d : Detail) (tone : Bool), x.jobs.endCause = some cause →
      x.jobs.requestsDue = none →
      State.endAttempt o d tone { x with drum := { x.drum with bandLostSignal := b } } =
        { x.endAttempt o d tone with drum := { (x.endAttempt o d tone).drum with bandLostSignal := b } } := by
    intro x o d tone h1 h2
    rw [x.endAttempt_cut o d tone cause h1 h2,
      State.endAttempt_cut { x with drum := { x.drum with bandLostSignal := b } } o d tone cause h1 h2]
    dsimp only
    split <;> rfl
  unfold State.endJob
  simp only [State.finalizeJob_closed, State.cut_eq, Bool.false_eq_true, if_false]
  rw [← hc]
  congr 1
  have hj : (State.mapJobs (fun j => { j with endCause := some cause })
      { u with drum := { u.drum with bandLostSignal := b } }) =
      { (u.mapJobs fun j => { j with endCause := some cause }) with
        drum := { (u.mapJobs fun j => { j with endCause := some cause }).drum with bandLostSignal := b } } := rfl
  rw [hj]
  have h1 : (u.mapJobs fun j => { j with endCause := some cause }).jobs.endCause = some cause := rfl
  have h2 : (u.mapJobs fun j => { j with endCause := some cause }).jobs.requestsDue = none := hr
  generalize (u.mapJobs fun j => { j with endCause := some cause }) = v at *
  rw [he v _ _ _ h1 h2]
  dsimp only
  split
  · split <;> rfl
  · rfl

/-- The events and the requests across a job's end. -/
theorem State.endJob_events (s : State) (cause : Cause) (hr : s.jobs.requestsDue = none) :
    (s.endJob cause false).carriage.arrivalEvent = s.carriage.arrivalEvent ∧
    (s.endJob cause false).carriage.truncationEvent = s.carriage.truncationEvent ∧
    (s.endJob cause false).carriage.faultEvent = s.carriage.faultEvent ∧
    (s.endJob cause false).drum = s.drum ∧ (s.endJob cause false).jobs.requestsDue = none := by
  have hf : ∀ x : State, (x.finalizeJob cause).jobs.requestsDue = x.jobs.requestsDue := by
    intro x
    rw [State.finalizeJob_closed, State.closedBy, State.finishing]
    split <;> rfl
  unfold State.endJob
  simp only [Bool.false_eq_true, if_false, hf, State.cut_eq]
  have hk := fun o d tone => State.endAttempt_underCause (s.mapJobs fun j => { j with endCause := some cause }) o d
    tone cause rfl hr
  have h1 : (s.mapJobs fun j => { j with endCause := some cause }).carriage = s.carriage := rfl
  have h2 : (s.mapJobs fun j => { j with endCause := some cause }).drum = s.drum := rfl
  have h3 : (s.mapJobs fun j => { j with endCause := some cause }).jobs.requestsDue = none := hr
  generalize (s.mapJobs fun j => { j with endCause := some cause }) = v at *
  (repeat' split) <;> simp [h1, h2, h3, hk]

/-- A carriage that is not tracking is left alone by a job's end (R28, R32). -/
theorem State.endJob_carriage (u : State) (cause : Cause) (hr : u.jobs.requestsDue = none)
    (ht : u.carriage.state ≠ .tracking) : (u.endJob cause false).carriage = u.carriage := by
  have hs : ∀ x : State, x.carriage = u.carriage → x.stopped.carriage = u.carriage := by
    intro x hx
    show (if x.scan.stops then x.carriage.atRest else x.carriage) = u.carriage
    rw [hx, Carriage.atRest, if_neg ht, ite_self]
  have hc : ∀ x : State, x.carriage = u.carriage → (x.finalizeJob cause).carriage = u.carriage := by
    intro x hx
    rw [State.finalizeJob_closed, State.closedBy, State.finishing]
    split <;> exact hs x hx
  unfold State.endJob
  simp only [Bool.false_eq_true, if_false, State.cut_eq]
  refine hc _ ?_
  have h1 : (u.mapJobs fun j => { j with endCause := some cause }).jobs.endCause = some cause := rfl
  have h2 : (u.mapJobs fun j => { j with endCause := some cause }).jobs.requestsDue = none := hr
  have h3 : (u.mapJobs fun j => { j with endCause := some cause }).carriage = u.carriage := rfl
  generalize (u.mapJobs fun j => { j with endCause := some cause }) = v at *
  rw [v.endAttempt_cut _ _ _ cause h1 h2]
  (repeat' split) <;> first | exact h3 | exact hs _ h3

/-- With no event waiting before a job's end, none waits after it. -/
theorem State.endJob_noEvents (s : State) (cause : Cause) (h : s.noEvents = true) :
    (s.endJob cause false).noEvents = true := by
  have hr := State.noEvents_requests h
  obtain ⟨h1, h2, h3, h4, h5⟩ := s.endJob_events cause hr
  simpa [State.noEvents, State.noSignals, h1, h2, h3, h4, h5, hr] using h

/-! ## Requests that were on their way -/

/-- An attempt's end under them leaves none on its way (R114, R116). -/
theorem State.endAttempt_reached (u : State) (o : AttemptOutcome) (d : Detail) (tone : Bool) (c : Cause)
    (ha : u.jobs.attemptInProgress = true) (hc : u.jobs.endCause = some c)
    (hr : u.jobs.requestsDue.isSome = true) : (u.endAttempt o d tone).jobs.requestsDue = none := by
  have hf : ∀ x : State, (x.finalizeJob c).jobs.requestsDue = x.jobs.requestsDue := by
    intro x
    rw [State.finalizeJob_closed, State.closedBy, State.finishing]
    split <;> rfl
  have hl : ∀ (b : Nat) (x : State), (x.endLate b c).jobs.requestsDue = none := by
    intro b x
    unfold State.endLate
    dsimp only
    (repeat' split) <;> simp [hf]
  rw [u.endAttempt_kept o d tone ha]
  generalize hm : (u.callEnded o d tone).recordKept o _ _ = m
  have h1 : m.jobs.endCause = some c := by rw [← hm]; exact hc
  have h2 : m.jobs.requestsDue = u.jobs.requestsDue := by rw [← hm]; rfl
  simp [State.afterRecord, h1, h2, hr, hl]

/-- When the moment of the cause is over, the cut ends the attempt still in progress with the cause's outcome, and the
job ends (R93, R114). -/
theorem State.completeEnd_eq (u : State) (cause : Cause) (hc : u.jobs.endCause = some cause)
    (ha : u.jobs.attemptInProgress = true) (hr : u.jobs.requestsDue.isSome = true)
    (hl : u.line.state.attempting = true) :
    u.completeEnd = u.endAttempt cause.outcome cause.detail (!u.line.state.unanswered) := by
  obtain ⟨l, hl'⟩ := Option.isSome_iff_exists.1 hr
  have hn := u.endAttempt_reached cause.outcome cause.detail (!u.line.state.unanswered) cause ha hc hr
  unfold State.completeEnd
  rw [hl', hc]
  simp only [ha, if_true, State.cut_eq, hl, hn]
  simp

end Sys2Proof.Machine
end

