-- ==== Sys2Proof/Laws/Index.lean ====
section
/-! SUPPORT. What a slot event and an INDEX do in the Scan Unit and the Line Unit, said once (02, R34 to R41;
04, R61 to R67; 05, R87 to R92). -/

namespace Sys2Proof.Machine

/-! ## Slot events -/

theorem openFor_append (q : List FifoEntry) (e : FifoEntry) (w : Nat) :
    openFor (q ++ [e]) w = (!e.closed && e.word == w) := by simp [openFor]

theorem joinLast_append (i y : Nat) (q : List FifoEntry) (e : FifoEntry) :
    joinLast i y (q ++ [e]) = q ++ [e.join i y] := by
  induction q with
  | nil => rfl
  | cons a q ih =>
    cases q with
    | nil => rfl
    | cons b q => simpa [joinLast] using ih

/-- The last entry of a scan FIFO, when there is one. -/
theorem fifo_last (q : List FifoEntry) : q = [] ∨ ∃ older e, q = older ++ [e] := by
  rcases List.eq_nil_or_concat q with h | ⟨l, e, h⟩
  · exact .inl h
  · exact .inr ⟨l, e, by simpa using h⟩

/-- No entry is open for a word exactly when the last entry, if any, is closed or another word's. -/
theorem openFor_false (q : List FifoEntry) (w : Nat) :
    openFor q w = false ↔ ∀ older e, q = older ++ [e] → e.closed = true ∨ e.word ≠ w := by
  rcases fifo_last q with rfl | ⟨older, e, rfl⟩
  · simp [openFor]
  · rw [openFor_append]
    constructor
    · intro h o f hf
      obtain ⟨-, rfl⟩ := by simpa using hf
      cases hc : e.closed
      · right; simpa [hc] using h
      · left; rfl
    · intro h
      rcases h older e rfl with h | h <;> simp [h]

/-- A level placed in the scan FIFO, or lost (R36). -/
theorem Scan.placeLevel_placed (base j y : Nat) (c : Scan) :
    FifoPlaced base j y c.fifo (c.placeLevel base j y).fifo ∧
      c.placeLevel base j y =
        { c with
          fifo := (c.placeLevel base j y).fifo, header := (c.placeLevel base j y).header
          overruns := (c.placeLevel base j y).overruns } ∧
      (fifoLoses j c.fifo →
        (c.placeLevel base j y).header = { c.header with overrun := true } ∧
        (c.placeLevel base j y).overruns = min (c.overruns + 1) 65535) ∧
      (¬ fifoLoses j c.fifo →
        (c.placeLevel base j y).header = c.header ∧ (c.placeLevel base j y).overruns = c.overruns) := by
  have hd : (j % 4 == 3) = decide (j % 4 = 3) := rfl
  have hs (n : Nat) : satInc n = min (n + 1) 65535 := rfl
  cases ho : openFor c.fifo (j / 4)
  · have hn := (openFor_false _ _).1 ho
    by_cases hl : c.fifo.length < 16
    · have hf : ¬ fifoLoses j c.fifo := fun h => by have := h.1; omega
      simp only [Scan.placeLevel, ho, hl, if_true, Bool.false_eq_true, if_false]
      refine ⟨⟨?_, ?_, ?_⟩, by simp, fun h => absurd h hf, fun _ => by simp⟩
      · intro older e he h1 h2
        rcases hn older e he with h | h
        · simp [h1] at h
        · exact absurd h2 h
      · intro _ _
        simp [closeAll, newEntry, laneWord, laneEnable, hd]
      · intro _ h; omega
    · have hf : fifoLoses j c.fifo := ⟨by omega, hn⟩
      simp only [Scan.placeLevel, ho, hl, Bool.false_eq_true, if_false]
      refine ⟨⟨?_, fun _ h => absurd h hl, fun _ _ => rfl⟩, by simp, fun _ => by simp [hs], fun h => absurd hf h⟩
      intro older e he h1 h2
      rcases hn older e he with h | h
      · simp [h1] at h
      · exact absurd h2 h
  · have hn : ¬ ∀ older e, c.fifo = older ++ [e] → e.closed = true ∨ e.word ≠ j / 4 := fun h => by
      rw [(openFor_false _ _).2 h] at ho; cases ho
    have hf : ¬ fifoLoses j c.fifo := fun h => hn h.2
    simp only [Scan.placeLevel, ho, if_true]
    refine ⟨⟨?_, fun h => absurd h hn, fun h => absurd h hn⟩, by simp, fun h => absurd h hf, fun _ => by simp⟩
    intro older e he h1 h2
    rw [he, joinLast_append]
    simp [FifoEntry.join, laneWord, laneEnable, hd]

/-- The level of a position is the one the statements compute (R46 to R49). -/
theorem lineLevel_eq (p : Profile) (f : Frame) (b w j cell : Nat) :
    lineLevel p f (b, w) j cell = lineLevelOf p f b w j cell := rfl

/-- The Scan Unit's part of a slot event (R35, R36, R56). -/
theorem State.scanSlot_scanned (j : Nat) (cell : Sample) (u : State) :
    State.SlotScanned j cell u (u.scanSlot j cell) where
  idle h := by
    unfold State.scanSlot
    split
    · rename_i l f hl hf
      rw [if_neg]
      intro hs
      simp only [Scan.sampling, hl, Option.map_some, Option.getD_some, Bool.and_eq_true, beq_iff_eq,
        Bool.not_eq_true'] at hs
      rcases h with h | h | h | ⟨m, h1, h2⟩
      · exact h hs.1
      · rw [hl] at h; cases h
      · rw [Scan.frame] at hf; rw [hf] at h; cases h
      · rw [hl] at h1; cases h1; rw [h2] at hs; simp at hs
    · rfl
  sampled l f b w y hs hl hn hf hp hy := by
    obtain ⟨h1, h2, h3, h4⟩ :=
      ({ u.scan with sig := sigFeed u.scan.sig y }).placeLevel_placed (u.slotAddr l.slot + 16) j y
    have hx : u.scanSlot j cell = u.withScan (u.scan.sample u.profile (u.levelAddr l.slot) j cell f) := by
      unfold State.scanSlot
      rw [hl, Scan.frame, hf]
      simp [Scan.sampling, hs, hl, hn]
    have hlv : lineLevel u.profile f (u.scan.pair.getD u.scan.defaultPair) j cell.toNat = y := by
      have : u.scan.defaultPair = (f.black, f.white) := by simp [Scan.defaultPair, Scan.frame, hf]
      rw [this, ← hp, hy]
      rfl
    refine ⟨_, h1, ?_⟩
    rw [hx]
    simp only [Scan.sample, hlv, State.levelAddr]
    rw [h2] at h3 h4 ⊢
    by_cases hlast : j + 1 = f.size
    · have hlast' : j + 1 = 240 * f.k := hlast
      refine ⟨?_, ?_, ?_⟩
      · simp [hlast', Frame.size, Scan.endSampling, State.withScan, hl, closeAll]
      · intro q; simpa [hlast', Frame.size, Scan.endSampling, State.withScan] using h3 q
      · intro q; simpa [hlast', Frame.size, Scan.endSampling, State.withScan] using h4 q
    · have hlast' : ¬ j + 1 = 240 * f.k := hlast
      refine ⟨?_, ?_, ?_⟩
      · simp [hlast', Frame.size, State.withScan, hl, hn]
      · intro q; simpa [hlast', Frame.size, State.withScan] using h3 q
      · intro q; simpa [hlast', Frame.size, State.withScan] using h4 q

/-- The sender's part of a slot event (R51, R57, R67). -/
theorem State.sendSlotEvent_sent (j : Nat) (u : State) : State.SlotSent j u (u.sendSlotEvent j) where
  idle h := by
    unfold State.sendSlotEvent
    rw [if_neg]
    rintro ⟨h1, h2⟩
    rcases h with h | h
    · exact h h1
    · simp [h] at h2
  sent found y h1 h2 hfound hy := by
    have h3 : u.ring.picked.isSome = true := by
      cases hp : u.ring.picked
      · exact absurd hp h2
      · rfl
    have hfind : (u.ring.buffer.filter fun e => decide (j / 4 ≤ e.1)).find? (fun e => e.1 == j / 4) =
        u.ring.buffer.find? fun e => decide (e.1 = j / 4) := by
      rw [List.find?_filter]
      congr 1
      funext e
      by_cases h : e.1 = j / 4 <;> simp [h]
    have hb : (u.ring.discardBelow (j / 4)).bufferedLevel j = found := by
      simp only [Ring.bufferedLevel, Ring.discardBelow, hfind, hfound]
    unfold State.sendSlotEvent
    rw [if_pos ⟨h1, h3⟩]
    cases found with
    | some z =>
      have hy' : y = z := hy
      subst hy'
      simp only [State.sendLevelOf, State.withRing, hb]
      simp [Line.giveLevel, Line.tone, Ring.discardBelow, State.mapLine, State.withLine]
    | none =>
      have hy' : y = if j = 0 then 255 else u.line.lastLevel := hy
      subst hy'
      simp only [State.sendLevelOf, State.withRing, hb]
      simp [Line.giveLevel, Line.tone, Ring.discardBelow, State.mapLine, State.withLine, State.countStarve, satInc,
        satAdd]

/-- Slot event i of interval n (R22). -/
theorem State.fallSlot_spec (n k i : Nat) (cell : Sample) (u : State) :
    ∃ m v, State.SlotScanned ((n - 16) * k + i) cell u m ∧ State.SlotSent ((n - 16) * k + i) m v ∧
      u.fallSlot n k i cell = { v with line := { v.line with slotsFallen := i + 1 } } :=
  ⟨_, _, u.scanSlot_scanned _ cell, State.sendSlotEvent_sent _ _, rfl⟩

/-- The slot events that fall at an interval's end (R22). -/
theorem State.lateSlots_fall (n k : Nat) (cells : Cells) (is : List Nat) (u : State) :
    State.SlotsFall n k cells is u (u.lateSlots n k cells is) := by
  induction is generalizing u with
  | nil => rfl
  | cons i is ih =>
    obtain ⟨m, v, h1, h2, h3⟩ := u.fallSlot_spec n k i (cells.toList.getD i 0)
    exact ⟨m, v, h1, h2, by rw [← h3]; exact ih _⟩

theorem State.slotK_eq (u : State) : u.slotK = u.slotsPerInterval := by
  unfold State.slotK State.slotsPerInterval Scan.frame
  rfl

/-! ## The Scan Unit at an INDEX -/

/-- The advance of the Carriage Drive (R28, R29). -/
theorem Carriage.advance_eq (t : Nat) (c : Carriage) : c.advance t = c.advanced t := by
  unfold Carriage.advance Carriage.advanced
  cases hs : c.state <;> simp
  split
  · rfl
  · split
    · rfl
    · simp only [Carriage.followStep]
      split
      · simp [Carriage.truncate, Carriage.toRest, *]
      · simp only [Carriage.step, trackSpacing, if_true]
        have : (c.pitch.getD 0 - 1 = 0) = (c.pitch.getD 0 = 1) := by apply propext; omega
        simp [this]

theorem Ring.slot_get (r : Ring) (n : Nat) (e : RingSlot) (h : r.slots[n]? = some e) : r.slot n = e := by
  simp [Ring.slot, List.getD_eq_getElem?_getD, h]

/-- A claim succeeds exactly at a slot that is FREE or SENT (R61). -/
theorem Ring.claim_spec (frame line : Nat) (r : Ring) :
    (r.claims → r.claim frame line = some (r.writeIndex,
      { r with
        slots := r.slots.set r.writeIndex { state := .filling, frame := frame, line := line }
        writeIndex := if r.writeIndex + 1 < r.slots.length then r.writeIndex + 1 else 0 })) ∧
    (¬ r.claims → r.claim frame line = none) := by
  have hset : updateAt (fun _ => ({ state := .filling, frame := frame, line := line } : RingSlot)) r.slots r.writeIndex =
      r.slots.set r.writeIndex { state := .filling, frame := frame, line := line } := by
    rw [updateAt_eq]
    apply List.ext_getElem?
    intro i
    rw [List.getElem?_modify, List.getElem?_set]
    by_cases h : r.writeIndex = i
    · subst h
      by_cases hl : r.writeIndex < r.slots.length <;> simp [hl]
    · simp [h]
  constructor
  · rintro ⟨e, he, h⟩
    have hlt := (List.getElem?_eq_some_iff.1 he).1
    unfold Ring.claim
    rw [if_pos, hset]
    · rfl
    · refine ⟨hlt, ?_⟩
      rw [r.slot_get _ e he]
      rcases h with h | h <;> simp [h, SlotState.claimable]
  · intro h
    unfold Ring.claim
    rw [if_neg]
    rintro ⟨h1, h2⟩
    have he : r.slots[r.writeIndex]? = some r.slots[r.writeIndex] := List.getElem?_eq_getElem h1
    refine h ⟨_, he, ?_⟩
    rw [r.slot_get _ _ he] at h2
    cases hs : r.slots[r.writeIndex].state <;> simp [hs, SlotState.claimable] at h2 ⊢

/-- A scanning turn (R34, R61). -/
theorem State.scanTurn_scanned (u : State) : u.TurnScanned u.scanTurn where
  done h := by
    unfold State.scanTurn Scan.frame
    split
    · rfl
    · rename_i f hf
      rw [if_pos (h f hf)]
  stall f hf hn h := by
    unfold State.scanTurn Scan.frame
    simp only [hf]
    rw [if_neg (by omega)]
    split
    · rfl
    · rename_i hl
      have : ¬ u.ring.claims := h.resolve_left (by simpa using hl)
      simp only [(Ring.claim_spec _ _ _).2 this]
      rfl
  begins f hf hn hl hc := by
    unfold State.scanTurn Scan.frame
    simp only [hf]
    rw [if_neg (by omega)]
    simp only [hl, Option.isSome_none, Bool.false_eq_true, if_false, (Ring.claim_spec _ _ _).1 hc, Carriage.advance_eq]
    rfl

/-- A frame begins at an INDEX (R33, R39). -/
theorem State.beginFrame_begun (n : Nat) (u : State) (h : u.carriage.state = .atFrame) :
    u.FrameBegun n (u.beginFrame n) := by
  have : u.beginFrame n = State.scanTurn
    { u with
      scan :=
        { u.scan with
          state := .scanning, current := n, nextLine := 0, sig := 1, arrivalNoted := false, linesDone := 0
          truncating := false }
      carriage :=
        { u.carriage with
          state := .tracking, pitch := some ((u.scan.frames[n]?.map fun f => f.pitch).getD 0), stepsDue := 0
          nextStep := none } } := by
    simp [State.beginFrame, Carriage.trackBegin, h, Scan.beginFrame]
  rw [this]
  exact State.scanTurn_scanned _

/-- Scan-start (R33). -/
theorem State.scanStart_started (u : State) : u.ScanStarted u.scanStart where
  taken h1 h2 := by
    unfold State.scanStart
    rw [if_pos ⟨h1, h2⟩]
    exact u.beginFrame_begun 0 h2
  ignored h := by
    unfold State.scanStart
    rw [if_neg]
    rintro ⟨h1, h2⟩
    rcases h with h | h
    · exact h h1
    · exact h h2

/-- A line cut short (R41, R45). -/
theorem Scan.cutShort_cut (c : Scan) (l : LineInProgress) (f : Frame) (hl : c.line = some l)
    (hf : c.frames[c.current]? = some f) (hn : l.sampled = false) : c.cutShort = c.cutAt f l := by
  have hd : c.defaultPair = (f.black, f.white) := by simp [Scan.defaultPair, Scan.frame, hf]
  unfold Scan.cutShort Scan.frame
  simp only [hl, hf, hn, Bool.false_eq_true, if_false, Scan.cutAt]
  cases hp : c.pair with
  | none => simp [Scan.holdPair, Scan.endShort, Scan.endSampling, hl, hd, Scan.heldPair, closeAll, satInc, satAdd, Frame.size]
  | some p => simp [Scan.endShort, Scan.endSampling, hl, closeAll, satAdd, Frame.size, hp]

/-- The Scan Unit takes an INDEX (R34, R39, R41). -/
theorem State.scanIndex_indexed (u : State) : u.ScanIndexed u.scanIndex where
  cut l f hs hl hf hn := by
    unfold State.scanIndex
    simp only [hs, Scan.cutShort_cut _ l f hl hf hn]
    exact State.scanTurn_scanned _
  turn hs h := by
    have : u.scan.cutShort = u.scan := by
      unfold Scan.cutShort
      split
      · rename_i l f hl hf
        rcases h l hl with h | h
        · rw [if_pos h]
        · rw [Scan.frame] at hf; rw [hf] at h; cases h
      · rfl
    unfold State.scanIndex
    simp only [hs, this]
    exact u.scanTurn_scanned
  next hs ha hc hn := by
    unfold State.scanIndex
    simp only [hs]
    rw [if_pos ⟨ha, hc, hn⟩]
    exact u.beginFrame_begun _ hc
  waits hs h := by
    unfold State.scanIndex
    simp only [hs]
    rw [if_neg]
    rintro ⟨h1, h2, h3⟩
    rcases h with h | h | h
    · simp [h1] at h
    · exact h h2
    · omega
  other h1 h2 := by
    unfold State.scanIndex
    split
    · contradiction
    · contradiction
    · rfl

/-! ## The Line Unit at an INDEX -/

theorem DrumState.ready_iff (st : DrumState) : st.ready = true ↔ st.turns := by
  cases st <;> simp [DrumState.ready, DrumState.turns]

/-- The turn just ended is closed (R63, R66, R67). -/
theorem State.closeTurn_closed (u : State) : u.closeTurn = u.turnClosed := by
  unfold State.closeTurn State.turnClosed
  rw [Gate.dropPrefetch_eq]
  cases h : u.ring.picked with
  | none =>
    simp [Ring.closeSend, h, Ring.emptyBuffer] <;> rfl
  | some n =>
    simp only [Ring.closeSend, h, Ring.emptyBuffer, Ring.setState, updateAt_eq, AttemptRecord.mapFrame]
    cases u.ring.firstSend <;> simp <;> first | rfl | exact ⟨rfl, rfl⟩

theorem Ring.filled_none (r : Ring) (frame line : Nat) :
    r.filledSlot frame line = none ↔ ∀ e ∈ r.slots, e.holdsLine frame line = false := by
  unfold Ring.filledSlot Ring.findSlot
  rw [List.findIdx?_eq_none_iff]
  simp [RingSlot.holdsLine]

theorem Ring.filled_eq (r : Ring) (frame line : Nat) :
    r.filledSlot frame line = r.slots.findIdx? (RingSlot.holdsLine frame line) := by
  unfold Ring.filledSlot Ring.findSlot
  congr 1
  funext e
  simp only [RingSlot.holdsLine, Bool.decide_and, Bool.and_assoc]
  rfl

theorem Ring.filled_some (r : Ring) (frame line : Nat) :
    (∃ n, r.filledSlot frame line = some n) ↔ ∃ e ∈ r.slots, e.holdsLine frame line = true := by
  rw [Ring.filled_eq]
  simp [← Option.isSome_iff_exists, List.findIdx?_isSome]

theorem Ring.done_eq (r : Ring) (frame : Nat) :
    r.doneOf frame = r.frameDone.find? fun e => decide (e.frame = frame) := rfl

theorem State.tone_eq (h : Nat) (u : State) : u.tone h = u.toned h := rfl

theorem State.sendSlot_eq (n : Nat) (first : Bool) (u : State) : u.sendSlot n first = u.slotSent n first := by
  simp [State.sendSlot, State.slotSent, Ring.startSend, Ring.setState, updateAt_eq, State.tone_eq, State.withRing,
    State.toned]

/-- A picture turn that ends no frame (R64, R88, R90). -/
theorem State.sendTurn_sent (u : State) : u.TurnSent u.sendTurn where
  again n rest hd hq := by
    unfold State.sendTurn Ring.pickCase
    rw [if_pos ((DrumState.ready_iff _).2 hd)]
    simp only [hq]
    exact u.sendSlot_eq n false
  first n hd hq hf := by
    unfold State.sendTurn Ring.pickCase
    rw [if_pos ((DrumState.ready_iff _).2 hd)]
    rw [← Ring.filled_eq] at hf
    simp only [hq, hf]
    exact u.sendSlot_eq n true
  gap hd hq hf := by
    rw [← Ring.filled_none] at hf
    have hp : u.ring.pickCase = .gap ∨ ∃ d, u.ring.pickCase = .frameEnd d := by
      unfold Ring.pickCase
      rw [hq, hf]
      cases u.ring.doneOf u.ring.sendFrame <;> simp
    unfold State.sendTurn
    rw [if_pos ((DrumState.ready_iff _).2 hd)]
    rcases hp with hp | ⟨d, hp⟩ <;> rw [hp] <;> rfl
  notReady hd := by
    unfold State.sendTurn
    rw [if_neg (fun h => hd ((DrumState.ready_iff _).1 h))]
    exact u.endAttempt_over _ _ _

/-- A frame's sending ends (R71, R72). -/
theorem State.endSending_eq (d : FrameDone) (u : State) : u.endSending d = u.frameSent d := by
  simp [State.endSending, State.frameSent, AttemptRecord.mapFrame, updateAt_eq, Line.lineCount, State.withRecord]
  rfl

/-- A separator turn (R88, R92). -/
theorem State.whiteTurn_white (begins : Bool) (u : State) : State.WhiteTurn begins u (u.whiteTurn begins) where
  sent hd := by
    unfold State.whiteTurn
    rw [if_pos ((DrumState.ready_iff _).2 hd)]
    rfl
  notReady hd := by
    unfold State.whiteTurn
    rw [if_neg (fun h => hd ((DrumState.ready_iff _).1 h))]
    exact u.endAttempt_over _ _ _

/-- The ring is asked about the frames from the send position's on (R65, R92). -/
theorem State.askFrames_asked (begins : Bool) (fuel : Nat) (u : State)
    (h : u.line.frames.length < u.ring.sendFrame + fuel ∨ (u.line.frames.length = u.ring.sendFrame + fuel ∧ 0 < fuel) ∨
      (fuel = 1 ∧ u.line.frames.length ≤ u.ring.sendFrame + 1)) (hf : 0 < fuel) :
    State.Asked begins u (State.askFrames begins fuel u) := by
  induction fuel generalizing u with
  | zero => omega
  | succ fuel ih =>
    unfold State.askFrames Ring.askNext
    cases hk : u.ring.filledSlot u.ring.sendFrame 0 with
    | some n =>
      have hs := (Ring.filled_some _ _ _).1 ⟨n, hk⟩
      simp only
      split
      · rename_i ht
        split
        · rename_i hd
          exact .ready _ _ hs ht ((DrumState.ready_iff _).1 hd) (State.sendTurn_sent _)
        · rename_i hd
          exact .late _ _ hs ht (fun q => hd ((DrumState.ready_iff _).2 q)) (u.endAttempt_over _ _ _)
      · rename_i ht
        exact .soon _ _ hs (by omega) (State.whiteTurn_white _ _)
    | none =>
      have hs := (Ring.filled_none _ _ _).1 hk
      cases hd : u.ring.doneOf u.ring.sendFrame with
      | none =>
        rw [Ring.done_eq] at hd
        exact .notYet _ _ hs (fun d h => by rw [hd] at h; cases h) (State.whiteTurn_white _ _)
      | some d =>
        rw [Ring.done_eq] at hd
        by_cases h0 : d.linesScanned = 0
        · simp only [h0, if_true]
          have he : (u.mapLine fun l => { l with sendSig := 1 }).endSending d =
              State.frameSent d { u with line := { u.line with sendSig := 1 } } := State.endSending_eq _ _
          have hl : (State.frameSent d { u with line := { u.line with sendSig := 1 } }).lastFrame =
              decide (u.line.frames.length ≤ u.ring.sendFrame + 1) := rfl
          rw [he, hl]
          by_cases hlast : u.line.frames.length ≤ u.ring.sendFrame + 1
          · simp only [hlast, decide_true, if_true]
            exact .emptyLast _ _ d hs hd h0 hlast (State.endAttempt_over _ _ _ _)
          · simp only [hlast, decide_false, Bool.false_eq_true, if_false]
            refine .empty _ _ d hs hd h0 (by omega) ?_
            refine ih _ ?_ ?_
            · show u.line.frames.length < u.ring.sendFrame + 1 + fuel ∨
                (u.line.frames.length = u.ring.sendFrame + 1 + fuel ∧ 0 < fuel) ∨
                (fuel = 1 ∧ u.line.frames.length ≤ u.ring.sendFrame + 1 + 1)
              omega
            · omega
        · simp only [h0, if_false]
          exact .notYet _ _ hs (fun e h => by rw [hd] at h; cases h; exact h0) (State.whiteTurn_white _ _)

/-- The turn of PICTURE (R64, R88, R90, R92, R94). -/
theorem State.pictureTurn_pictured (u : State) : u.PictureTurn u.pictureTurn where
  sends h := by
    have : u.pictureTurn = u.sendTurn := by
      unfold State.pictureTurn
      split
      · rename_i d hd
        exfalso
        revert hd
        unfold Ring.pickCase
        cases hq : u.ring.repeatQueue with
        | cons n q => simp
        | nil =>
          cases hk : u.ring.filledSlot u.ring.sendFrame u.ring.sendLine with
          | some n => simp
          | none =>
            cases hdn : u.ring.doneOf u.ring.sendFrame with
            | none => simp
            | some e =>
              rcases h with h | h | h
              · exact absurd hq h
              · obtain ⟨n, hn⟩ := (Ring.filled_some _ _ _).2 h
                rw [hk] at hn; cases hn
              · rw [Ring.done_eq] at hdn; rw [h] at hdn; cases hdn
      · rfl
    rw [this]
    exact u.sendTurn_sent
  ends d hq hk hd := by
    have hp : u.ring.pickCase = .frameEnd d := by
      unfold Ring.pickCase
      rw [hq, (Ring.filled_none _ _ _).2 hk, Ring.done_eq, hd]
    unfold State.pictureTurn
    simp only [hp, State.endSending_eq]
    have hl : (u.frameSent d).lastFrame = decide (u.line.frames.length ≤ u.ring.sendFrame + 1) := rfl
    rw [hl]
    constructor
    · intro h
      simp only [h, decide_true, if_true]
      exact State.endAttempt_over _ _ _ _
    · intro h
      have : ¬ u.line.frames.length ≤ u.ring.sendFrame + 1 := by omega
      simp only [this, decide_false, Bool.false_eq_true, if_false]
      refine State.askFrames_asked true _ _ ?_ (Nat.succ_pos _)
      left
      show u.line.frames.length < u.ring.sendFrame + 1 + (u.line.frames.length + 1)
      omega

/-- A phasing turn (R89). -/
theorem State.phasingTurn_phased (u : State) (T : Nat) (h : u.line.turnCount = T) :
    State.PhasingTurn T u u.phasingTurn where
  starts c hc hT := by
    unfold State.phasingTurn
    simp only [hc]
    rw [if_pos (by omega)]
    exact State.scanStart_started _
  plain hn := by
    unfold State.phasingTurn
    cases hc : u.line.call with
    | none => rfl
    | some c =>
      simp only
      rw [if_neg (by rw [h]; exact hn c hc)]
      rfl

theorem State.readyToPhase_iff (u : State) : u.readyToPhase = true ↔ u.phasingReady := by
  unfold State.readyToPhase State.phasingReady State.carriageReady Line.frameStart
  cases hf : u.line.frames with
  | nil => simp
  | cons f rest => simp [DrumState.ready_iff, and_assoc]

/-- The Line Unit takes an INDEX (R63, R66, R87 to R92). -/
theorem State.lineIndex_indexed (u : State) : u.LineIndexed u.lineIndex where
  ready hs hr := by
    have h1 : u.turnClosed.line.state = .readyWait := hs
    have h2 : u.turnClosed.readyToPhase = true := (State.readyToPhase_iff u).2 hr
    unfold State.lineIndex
    simp only [State.closeTurn_closed, h1, h2, if_true]
    exact State.phasingTurn_phased _ 0 rfl
  waits hs hr := by
    have h1 : u.turnClosed.line.state = .readyWait := hs
    have h2 : ¬ u.turnClosed.readyToPhase = true := fun h => hr ((State.readyToPhase_iff u).1 h)
    unfold State.lineIndex
    simp only [State.closeTurn_closed, h1]
    rw [if_neg h2]
  phasing c hs hc ht := by
    have h1 : u.turnClosed.line.state = .phasing := hs
    have h3 : ¬ (u.turnClosed.mapLine fun l => { l with turnCount := l.turnCount + 1 }).line.phasingTurns ≤
        (u.turnClosed.mapLine fun l => { l with turnCount := l.turnCount + 1 }).line.turnCount := by
      have : (u.turnClosed.mapLine fun l => { l with turnCount := l.turnCount + 1 }).line.phasingTurns = c.phasing := by
        show (u.line.call.map _).getD 0 = _
        rw [hc]; rfl
      rw [this]
      show ¬ c.phasing ≤ u.line.turnCount + 1
      omega
    have hx : u.lineIndex = u.turnClosed.nextPhasingTurn := by
      unfold State.lineIndex
      simp only [State.closeTurn_closed, h1]
    rw [hx]
    unfold State.nextPhasingTurn
    simp only [h3, if_false]
    constructor
    · intro hd
      rw [if_pos]
      · exact State.phasingTurn_phased _ _ rfl
      · exact (DrumState.ready_iff _).2 hd
    · intro hd
      rw [if_neg]
      · exact State.endAttempt_over _ _ _ _
      · exact fun h => hd ((DrumState.ready_iff _).1 h)
  phased hs hc := by
    have h1 : u.turnClosed.line.state = .phasing := hs
    have h3 : (u.turnClosed.mapLine fun l => { l with turnCount := l.turnCount + 1 }).line.phasingTurns ≤
        (u.turnClosed.mapLine fun l => { l with turnCount := l.turnCount + 1 }).line.turnCount := by
      show (u.line.call.map _).getD 0 ≤ u.line.turnCount + 1
      cases h : u.line.call with
      | none => simp
      | some c => exact hc c h
    have hx : u.lineIndex = u.turnClosed.nextPhasingTurn := by
      unfold State.lineIndex
      simp only [State.closeTurn_closed, h1]
    rw [hx]
    unfold State.nextPhasingTurn
    simp only [h3, if_true]
    rfl
  picture hs := by
    have h1 : u.turnClosed.line.state = .picture := hs
    unfold State.lineIndex
    simp only [State.closeTurn_closed, h1]
    exact State.pictureTurn_pictured _
  separator hs := by
    have h1 : u.turnClosed.line.state = .separator := hs
    unfold State.lineIndex
    simp only [State.closeTurn_closed, h1]
    refine State.askFrames_asked false _ _ ?_ (Nat.succ_pos _)
    left
    show u.turnClosed.line.frames.length < u.turnClosed.ring.sendFrame + (u.turnClosed.line.frames.length + 1)
    omega
  other h := by
    unfold State.lineIndex
    simp only [State.closeTurn_closed]
    have h1 : u.turnClosed.line.state = u.line.state := rfl
    rw [h1]
    simp only [List.mem_cons, List.not_mem_nil, or_false, not_or] at h
    obtain ⟨a, b, c, d⟩ := h
    split <;> first | contradiction | rfl

/-- An INDEX in both units (R2, R61). -/
theorem State.index_indexed (scanFirst : Bool) (u : State) : State.Indexed scanFirst u (u.index scanFirst) := by
  refine ⟨fun h => ?_, fun h hs => ?_, fun h h1 h2 => ?_⟩
  · subst h
    exact ⟨_, u.scanIndex_indexed, State.lineIndex_indexed _⟩
  · subst h
    have : u.scan.state.acts = true := by rcases hs with hs | hs <;> simp [hs, ScannerState.acts]
    simp only [State.index, this, Bool.false_eq_true, if_false, if_true]
    exact ⟨_, u.lineIndex_indexed, State.scanIndex_indexed _⟩
  · subst h
    have : u.scan.state.acts = false := by
      cases hs : u.scan.state <;> simp [hs, ScannerState.acts] at h1 h2 ⊢
    simp only [State.index, this, Bool.false_eq_true, if_false]
    exact u.lineIndex_indexed

/-! ## The tach event -/

theorem Scan.sampling_eq (c : Scan) : c.sampling = c.scanned := by
  unfold Scan.sampling Scan.scanned
  cases c.line <;> cases c.state <;> simp

/-- The reference sample due in an interval (R23). -/
theorem Scan.takeRef_referred (n : Nat) (cell : Sample) (c : Scan) : c.takeRef n cell = c.referred n cell := by
  unfold Scan.takeRef Scan.referred
  rw [Scan.sampling_eq]
  cases c.scanned <;> cases c.refTaken <;> simp [refInterval]
  by_cases h1 : 2 ≤ n ∧ n ≤ 5
  · simp [h1]
  · by_cases h2 : 8 ≤ n ∧ n ≤ 11
    · have : ¬ n ≤ 5 := by omega
      simp [h2, this]
    · simp [h1, h2]

/-- The reference moment (R44, R45). -/
theorem Scan.refMoment_paired (c : Scan) : c.refMoment = c.paired := by
  unfold Scan.refMoment Scan.paired
  rw [Scan.sampling_eq]
  cases c.scanned <;> simp [pairAccepted, patchValue]
  by_cases h : c.blackRefs.sum / 4 + 64 ≤ c.whiteRefs.sum / 4 <;> simp [h] <;> rfl

/-- What is due in the interval that a tach event ends (R22, R23). -/
theorem State.closeInterval_spec (cells : Cells) (s : State) (n : Nat) (hi : s.drum.interval = some n) :
    (n < 16 → s.closeInterval cells = { s with scan := s.scan.referred n (cells.toList.getD 0 0) }) ∧
    (16 ≤ n → s.slotsPerInterval = none → s.closeInterval cells = s) ∧
    (∀ k, 16 ≤ n → s.slotsPerInterval = some k →
      State.SlotsFall n k cells (List.range' s.line.slotsFallen (k - s.line.slotsFallen)) s (s.closeInterval cells)) := by
  have hr : 16 ≤ n → s.scan.takeRef n (cells.toList.getD 0 0) = s.scan := by
    intro h
    have : refInterval n = false := by
      unfold refInterval
      rw [decide_eq_false (show ¬ n ≤ 5 by omega), decide_eq_false (show ¬ n ≤ 11 by omega)]
      simp
    simp [Scan.takeRef, this]
  have hw : 16 ≤ n → s.withScan (s.scan.takeRef n (cells.toList.getD 0 0)) = s := fun h => by rw [hr h]; rfl
  refine ⟨?_, ?_, ?_⟩
  · intro h
    have hn : ∀ x : State, x.drum = s.drum → x.nextSlot = none := by
      intro x hx
      unfold State.nextSlot
      rw [hx, hi]
      split
      · rename_i h1 _
        cases h1
        rw [if_neg (by omega)]
      · rfl
    unfold State.closeInterval
    simp only [hi]
    rw [hn (s.withScan (s.scan.takeRef n (cells.toList.getD 0 0))) rfl, Scan.takeRef_referred]
    rfl
  · intro h hk
    unfold State.closeInterval
    simp only [hi]
    rw [hw h]
    unfold State.nextSlot
    rw [State.slotK_eq, hk, hi]
  · intro k h hk
    unfold State.closeInterval
    simp only [hi]
    rw [hw h]
    unfold State.nextSlot
    rw [State.slotK_eq, hk, hi]
    by_cases hl : s.line.slotsFallen < k
    · simp only [h, hl, and_self, if_true]
      exact State.lateSlots_fall _ _ _ _ _
    · have : k - s.line.slotsFallen = 0 := by omega
      simp only [hl, and_false, if_false, this]
      rfl

/-- What a state must keep at an INDEX for the events it gives to be those of a limit-truncation and of a parked
drum alone. -/
def State.QuietIndex (u x : State) : Prop :=
  x.carriage.arrivalEvent = u.carriage.arrivalEvent ∧ x.carriage.faultEvent = u.carriage.faultEvent ∧
    (x.drum.bandLostSignal = true → u.drum.bandLostSignal = true ∨ x.line.state.sending = false)

theorem State.QuietIndex.of_drum {u x : State} (h1 : x.carriage.arrivalEvent = u.carriage.arrivalEvent)
    (h2 : x.carriage.faultEvent = u.carriage.faultEvent) (h3 : x.drum = u.drum) : u.QuietIndex x :=
  ⟨h1, h2, fun h => .inl (by rw [← h3]; exact h)⟩

theorem State.QuietIndex.ended {u : State} (v : State) (o : AttemptOutcome) (d : Detail) (tone : Bool)
    (hc : v.carriage = u.carriage) : u.QuietIndex (v.endAttempt o d tone) := by
  obtain ⟨e1, _, e3⟩ := v.endAttempt_events o d tone
  exact ⟨by rw [e1, hc], by rw [e3, hc], fun _ => .inr (v.endAttempt_notSending o d tone)⟩

theorem Carriage.advanced_events (t : Nat) (c : Carriage) :
    (c.advanced t).arrivalEvent = c.arrivalEvent ∧ (c.advanced t).faultEvent = c.faultEvent := by
  unfold Carriage.advanced
  dsimp only
  (repeat' split) <;> exact ⟨rfl, rfl⟩

theorem State.scanTurn_events (u : State) : u.scanTurn.carriage.arrivalEvent = u.carriage.arrivalEvent ∧
    u.scanTurn.carriage.faultEvent = u.carriage.faultEvent := by
  unfold State.scanTurn
  (repeat' split) <;> try exact ⟨rfl, rfl⟩
  all_goals simp only [Carriage.advance_eq, *]
  exact Carriage.advanced_events _ _

theorem State.beginFrame_events (n : Nat) (u : State) :
    (u.beginFrame n).carriage.arrivalEvent = u.carriage.arrivalEvent ∧
    (u.beginFrame n).carriage.faultEvent = u.carriage.faultEvent := by
  have h := State.scanTurn_events { u with scan := u.scan.beginFrame n, carriage := u.carriage.trackBegin ((u.scan.frames[n]?.map (·.pitch)).getD 0) }
  have h2 : ∀ p, (u.carriage.trackBegin p).arrivalEvent = u.carriage.arrivalEvent ∧
      (u.carriage.trackBegin p).faultEvent = u.carriage.faultEvent := by
    intro p
    unfold Carriage.trackBegin
    split <;> exact ⟨rfl, rfl⟩
  exact ⟨h.1.trans (h2 _).1, h.2.trans (h2 _).2⟩

theorem State.scanIndex_events (u : State) : u.scanIndex.carriage.arrivalEvent = u.carriage.arrivalEvent ∧
    u.scanIndex.carriage.faultEvent = u.carriage.faultEvent := by
  unfold State.scanIndex
  split
  · exact State.scanTurn_events _
  · split
    · exact State.beginFrame_events _ _
    · exact ⟨rfl, rfl⟩
  · exact ⟨rfl, rfl⟩

theorem State.scanStart_events (u : State) : u.scanStart.carriage.arrivalEvent = u.carriage.arrivalEvent ∧
    u.scanStart.carriage.faultEvent = u.carriage.faultEvent := by
  unfold State.scanStart
  split
  · exact State.beginFrame_events _ _
  · exact ⟨rfl, rfl⟩

theorem State.phasingTurn_quiet (u : State) : u.QuietIndex u.phasingTurn := by
  unfold State.phasingTurn
  dsimp only
  split
  · split
    · obtain ⟨h1, h2⟩ := (u.tone u.line.hBlack).scanStart_events
      exact .of_drum (h1.trans (by simp [State.tone])) (h2.trans (by simp [State.tone])) (by simp [State.tone])
    · exact .of_drum (by simp [State.tone]) (by simp [State.tone]) (by simp [State.tone])
  · exact .of_drum (by simp [State.tone]) (by simp [State.tone]) (by simp [State.tone])

theorem State.sendTurn_quiet (u : State) : u.QuietIndex u.sendTurn := by
  unfold State.sendTurn
  split
  · split <;> exact .of_drum (by simp) (by simp) (by simp)
  · exact .ended u _ _ _ rfl

theorem State.whiteTurn_quiet (b : Bool) (u : State) : u.QuietIndex (u.whiteTurn b) := by
  unfold State.whiteTurn
  split
  · exact .of_drum (by simp [State.tone]) (by simp [State.tone]) (by simp [State.tone])
  · exact .ended u _ _ _ rfl

theorem State.QuietIndex.trans {u v x : State} (h : v.carriage = u.carriage) (hd : v.drum = u.drum) (q : v.QuietIndex x) :
    u.QuietIndex x := by
  obtain ⟨a, b, c⟩ := q
  rw [h] at a b
  rw [hd] at c
  exact ⟨a, b, c⟩

theorem State.askFrames_quiet (b : Bool) (n : Nat) (u : State) : u.QuietIndex (State.askFrames b n u) := by
  induction n generalizing u with
  | zero => exact .of_drum rfl rfl rfl
  | succ n ih =>
    unfold State.askFrames
    split
    · dsimp only
      split
      · exact .ended _ _ _ _ rfl
      · exact .trans (v := State.withRing _ _) rfl rfl (ih _)
    · split
      · split
        · exact .trans (v := u.mapLine Line.enterPicture) rfl rfl (State.sendTurn_quiet _)
        · exact .ended u _ _ _ rfl
      · exact State.whiteTurn_quiet _ _
    · exact State.whiteTurn_quiet _ _

theorem State.pictureTurn_quiet (u : State) : u.QuietIndex u.pictureTurn := by
  unfold State.pictureTurn
  split
  · dsimp only
    split
    · exact .ended _ _ _ _ rfl
    · unfold State.enterSeparator
      exact .trans (v := State.withRing _ _) rfl rfl (State.askFrames_quiet _ _ _)
  · exact u.sendTurn_quiet

theorem State.lineIndex_quiet (u : State) : u.QuietIndex u.lineIndex := by
  have hc : u.closeTurn.carriage = u.carriage := by simp
  have hd : u.closeTurn.drum = u.drum := by simp
  unfold State.lineIndex
  dsimp only
  split
  · split
    · exact .trans
        (v := u.closeTurn.mapLine fun l => { l with state := .phasing, readyTimer := none, turnCount := 0 }) hc hd
        (State.phasingTurn_quiet _)
    · exact .of_drum (by rw [hc]) (by rw [hc]) hd
  · unfold State.nextPhasingTurn
    dsimp only
    split
    · exact .of_drum (congrArg Carriage.arrivalEvent hc) (congrArg Carriage.faultEvent hc) hd
    · split
      · exact .trans (v := u.closeTurn.mapLine fun l => { l with turnCount := l.turnCount + 1 }) hc hd
          (State.phasingTurn_quiet _)
      · exact .ended _ _ _ _ hc
  · exact .trans (v := u.closeTurn) hc hd (State.pictureTurn_quiet _)
  · exact .trans (v := u.closeTurn) hc hd (State.askFrames_quiet _ _ _)
  · exact .of_drum (congrArg Carriage.arrivalEvent hc) (congrArg Carriage.faultEvent hc) hd

theorem State.index_quiet (b : Bool) (u : State) : u.QuietIndex (u.index b) := by
  unfold State.index
  split
  · obtain ⟨a1, a2⟩ := u.scanIndex_events
    obtain ⟨b1, b2, b3⟩ := u.scanIndex.lineIndex_quiet
    exact ⟨b1.trans a1, b2.trans a2, by simpa using b3⟩
  · split
    · obtain ⟨a1, a2⟩ := u.lineIndex.scanIndex_events
      obtain ⟨b1, b2, b3⟩ := u.lineIndex_quiet
      exact ⟨a1.trans b1, a2.trans b2, by simpa using b3⟩
    · exact u.lineIndex_quiet

/-- The events that an INDEX gives are taken: with no limit-truncation among them, only the BAND_LOST of a parked
drum, which no turn is there to lose. -/
theorem State.index_delivers (b : Bool) (u : State) (h1 : u.carriage.arrivalEvent = false)
    (h2 : u.carriage.faultEvent = false) (h3 : u.drum.bandLostSignal = false)
    (h4 : (u.index b).carriage.truncationEvent = false) :
    (u.index b).deliver =
      { u.index b with drum := { (u.index b).drum with bandLostSignal := false } } := by
  obtain ⟨a, c, d⟩ := u.index_quiet b
  rw [h1] at a
  rw [h2] at c
  cases hb : (u.index b).drum.bandLostSignal
  · rw [State.deliver_none _ a h4 c hb]
    have : ({ (u.index b).drum with bandLostSignal := false } : Drum) = (u.index b).drum := by rw [← hb]
    rw [this]
  · have hs : (u.index b).line.state.sending = false := by
      rcases d hb with h | h
      · rw [h3] at h; cases h
      · exact h
    simp [State.deliver, State.takeTruncation, State.takeArrival, State.takeBandLost, State.takeCarriageFault,
      a, c, h4, hb, hs, State.withDrum]

/-- The Regulator at a tach event of a synchronised turn (R1, R3, R6, R14, R15). -/
theorem Drum.tach_eq (p : DrumProfile) (t : Nat) (d : Drum) (n u len : Nat) (isIndex exceeds : Bool)
    (hs : d.synced = true) (hi : d.interval = some n) (hu : d.lastTach = some u) (hlen : len = min 4000000 (t - u))
    (hx : isIndex = decide (d.indexArmed = true ∨ n = 255))
    (he : exceeds = decide (p.slipPolicy ≠ .off ∧ p.ratio * min len d.lenLast < max len d.lenLast)) :
    d.indexNext = isIndex ∧ d.tach p t =
      { d with
        interval := if isIndex = true then some 0 else some (n + 1)
        indexArmed := false
        turnErrors := if d.indexArmed = decide (n = 255) then d.turnErrors else min (d.turnErrors + 1) 65535
        lenPrev := d.lenLast, lenLast := len, lastTach := some t
        sampleStart :=
          match d.sampleStart with
          | some start => if d.sampleCount + 1 < 32 then some start else some t
          | none => some t
        sampleCount := if d.sampleStart.isSome = true ∧ d.sampleCount + 1 < 32 then d.sampleCount + 1 else 0
        closedSample :=
          match d.sampleStart with
          | some start => if d.sampleCount + 1 < 32 then d.closedSample else some (min 4000000 (t - start))
          | none => d.closedSample
        stallTimer := d.stallTimer.map fun _ => t
        rest := if d.state = .parking then some (t + 1000000) else d.rest
        slipRun :=
          if d.state = .settling ∨ d.state = .inBand ∨ d.state = .bandWarning then
            (if exceeds then d.slipRun + 1 else 0)
          else d.slipRun
        slipDue :=
          d.slipDue ||
            (decide (d.state = .settling ∨ d.state = .inBand ∨ d.state = .bandWarning) &&
              decide (exceeds ∧ p.deglitch ≤ d.slipRun + 1)) } := by
  have hnext : d.nextInterval = (some (if isIndex = true then 0 else n + 1),
      decide (d.indexArmed ≠ decide (n = 255))) := by
    unfold Drum.nextInterval
    rw [hi, hs, hx]
    by_cases h : n = 255
    · subst h; cases d.indexArmed <;> simp
    · cases d.indexArmed <;> simp [h]
  have hturn : d.turnTach t =
      { d with
        interval := if isIndex = true then some 0 else some (n + 1), indexArmed := false
        turnErrors := if d.indexArmed = decide (n = 255) then d.turnErrors else min (d.turnErrors + 1) 65535
        lenPrev := d.lenLast, lenLast := len, lastTach := some t } := by
    unfold Drum.turnTach
    simp only [Drum.endedLength, hu, Option.map_some]
    rw [← hlen]
    have hn2 : ({ d with lenPrev := d.lenLast, lenLast := len, lastTach := some t } : Drum).nextInterval =
        d.nextInterval := rfl
    rw [hn2, hnext]
    cases hq : isIndex
    · have ha : d.indexArmed = false ∧ n ≠ 255 := by
        rw [hq] at hx
        have := of_decide_eq_false hx.symm
        simp only [not_or] at this
        exact ⟨by simpa using this.1, this.2⟩
      simp [ha, hs]
    · by_cases h : d.indexArmed = decide (n = 255) <;> simp [h, hs, satInc, satAdd]
  refine ⟨?_, ?_⟩
  · unfold Drum.indexNext
    rw [hnext]
    cases isIndex <;> simp
  · unfold Drum.tach
    rw [hturn]
    unfold Drum.sampleTach
    cases hss : d.sampleStart with
    | none =>
      simp [Drum.timersTach, Drum.slipTach, slipExceeds, DrumState.closedLoop, he]
      cases hst : d.state <;> simp
    | some st =>
      by_cases hcc : d.sampleCount + 1 < 32 <;>
        simp [hcc, Drum.timersTach, Drum.slipTach, slipExceeds, DrumState.closedLoop, he] <;>
        cases hst : d.state <;> simp

/-! ## The end of a frame and a truncation -/

/-- The end of a frame up to the next frame's POSITION (R38, R40, R62, R126). -/
theorem State.endFrame_eq (u : State) :
    u.endFrame = (u.frameEnded u.carriage.trackEnd false).orderNextFrame u.scan.current := by
  unfold State.endFrame State.frameEnded
  cases h : u.line.active <;> simp [Ring.noteDone, Jobs.keepSig]

/-- The end of a frame, its events taken (R38, R39, R131). -/
theorem State.endFrame_ends (u : State) (ha : u.carriage.arrivalEvent = false) :
    u.FrameEnds u.endFrame.takeArrival where
  stays h := by
    have hk : u.endFrame = u.frameEnded u.carriage.atRest false := by
      have : ∀ x : State, x.jobs.attemptInProgress = u.jobs.attemptInProgress → x.jobs.current = u.jobs.current →
          x.orderNextFrame u.scan.current = x := by
        intro x h1 h2
        unfold State.orderNextFrame
        rw [h1, h2]
        cases hc : u.jobs.current with
        | none => rfl
        | some j =>
          cases hm : j.frames[u.scan.current + 1]? with
          | none => simp [hm]
          | some f =>
            rcases h with h | h
            · simp [hm, h]
            · have h3 := (List.getElem?_eq_some_iff.1 hm).1
              have := h j hc
              simp [Job.frames] at h3
              omega
      rw [State.endFrame_eq, this (u.frameEnded u.carriage.trackEnd false) rfl rfl, Carriage.trackEnd_atRest]
    rw [hk]
    have : (u.frameEnded u.carriage.atRest false).carriage.arrivalEvent = false := by
      simp only [State.frameEnded, Carriage.atRest]; split <;> simp [ha]
    simp [State.takeArrival, this]
  away j f h1 h2 h3 h4 h5 h6 h7 := by
    have hr : (u.carriage.trackEnd).requestPosition u.now f.start = { u.carriage with
        target := some f.start, state := .positioning, position := u.carriage.position + 1, dirAway := true
        home := false, stepsDue := 0, nextStep := some (u.now + 2500) } := by
      have h8 : (u.carriage.home && decide (0 < u.carriage.position)) = false := by
        cases hh : u.carriage.home
        · rfl
        · simp [h7 hh]
      rcases h4 with h4 | h4 <;>
        simp [Carriage.trackEnd, Carriage.requestPosition, h4, Carriage.toRest, Carriage.enterPositioning,
          Carriage.atTarget, Carriage.moveStep, Carriage.aimAway, h5, h6, h8, Carriage.step, moveSpacing,
          Nat.ne_of_gt h5]
    have hn : ∀ x : State, x.now = u.now → x.carriage = u.carriage.trackEnd → x.jobs.current = u.jobs.current →
        x.jobs.attemptInProgress = true → x.orderNextFrame u.scan.current = x.withCarriage { u.carriage with
        target := some f.start, state := .positioning, position := u.carriage.position + 1, dirAway := true
        home := false, stepsDue := 0, nextStep := some (u.now + 2500) } := by
      intro x a b c d
      unfold State.orderNextFrame
      rw [c, h2]
      simp [h3, d, b, a, hr]
    rw [State.endFrame_eq, hn (u.frameEnded u.carriage.trackEnd false) rfl rfl rfl h1]
    simp [State.takeArrival, State.withCarriage, ha, State.frameEnded]
  toward j f h1 h2 h3 h4 h5 h6 := by
    have hr : (u.carriage.trackEnd).requestPosition u.now f.start = { u.carriage with
        target := some f.start, state := .positioning, position := u.carriage.position - 1, dirAway := false
        limit := false, stepsDue := 0, nextStep := some (u.now + 2500) } := by
      have h7 : ¬ u.carriage.position < f.start := by omega
      rcases h4 with h4 | h4 <;>
        simp [Carriage.trackEnd, Carriage.requestPosition, h4, Carriage.toRest, Carriage.enterPositioning,
          Carriage.atTarget, Carriage.moveStep, Carriage.aimAway, h7, h6, Carriage.step, moveSpacing,
          Nat.ne_of_lt h5]
    have hn : ∀ x : State, x.now = u.now → x.carriage = u.carriage.trackEnd → x.jobs.current = u.jobs.current →
        x.jobs.attemptInProgress = true → x.orderNextFrame u.scan.current = x.withCarriage { u.carriage with
        target := some f.start, state := .positioning, position := u.carriage.position - 1, dirAway := false
        limit := false, stepsDue := 0, nextStep := some (u.now + 2500) } := by
      intro x a b c d
      unfold State.orderNextFrame
      rw [c, h2]
      simp [h3, d, b, a, hr]
    rw [State.endFrame_eq, hn (u.frameEnded u.carriage.trackEnd false) rfl rfl rfl h1]
    simp [State.takeArrival, State.withCarriage, ha, State.frameEnded]
  there j f h1 h2 h3 h4 h5 := by
    have hr : (u.carriage.trackEnd).requestPosition u.now f.start = { u.carriage with
        target := some f.start, state := .atFrame, stepsDue := 0, nextStep := none, arrivalEvent := true } := by
      rcases h4 with h4 | h4 <;>
        simp [Carriage.trackEnd, Carriage.requestPosition, h4, Carriage.toRest, Carriage.enterPositioning,
          Carriage.atTarget, h5, Carriage.arrive]
    have hn : ∀ x : State, x.now = u.now → x.carriage = u.carriage.trackEnd → x.jobs.current = u.jobs.current →
        x.jobs.attemptInProgress = true → x.orderNextFrame u.scan.current = x.withCarriage { u.carriage with
        target := some f.start, state := .atFrame, stepsDue := 0, nextStep := none, arrivalEvent := true } := by
      intro x a b c d
      unfold State.orderNextFrame
      rw [c, h2]
      simp [h3, d, b, a, hr]
    rw [State.endFrame_eq, hn (u.frameEnded u.carriage.trackEnd false) rfl rfl rfl h1]
    simp [State.takeArrival, State.withCarriage, ha, State.frameEnded]
    cases u.scan.frames[u.scan.current + 1]? <;> simp [Bool.beq_eq_decide_eq]
  blocked j f h1 h2 h3 h4 h5 := by
    have h6 : u.carriage.position ≠ f.start := by omega
    have hr : (u.carriage.trackEnd).requestPosition u.now f.start = { u.carriage with
        target := some f.start, state := .fault, dirAway := decide (u.carriage.position < f.start)
        stepsDue := 0, nextStep := none, faultEvent := true } := by
      have h7 : (f.start == u.carriage.position) = false := by simpa using fun h => h6 h.symm
      have h8 : ((decide (u.carriage.position < f.start) && u.carriage.limit) = true) ∨
          ((u.carriage.home && decide (0 < u.carriage.position)) = true) := by
        rcases h5 with ⟨a, b⟩ | ⟨_, a, b⟩
        · exact .inl (by simp [a, b])
        · exact .inr (by simp [a, b])
      rcases h4 with h4 | h4 <;> rcases h8 with h8 | h8 <;>
        simp [Carriage.trackEnd, Carriage.requestPosition, h4, Carriage.toRest, Carriage.enterPositioning,
          Carriage.atTarget, h7, Carriage.moveStep, Carriage.aimAway, h8, Carriage.toFault, -Bool.and_eq_true]
    have hn : ∀ x : State, x.now = u.now → x.carriage = u.carriage.trackEnd → x.jobs.current = u.jobs.current →
        x.jobs.attemptInProgress = true → x.orderNextFrame u.scan.current = x.withCarriage { u.carriage with
        target := some f.start, state := .fault, dirAway := decide (u.carriage.position < f.start)
        stepsDue := 0, nextStep := none, faultEvent := true } := by
      intro x a b c d
      unfold State.orderNextFrame
      rw [c, h2]
      simp [h3, d, b, a, hr]
    rw [State.endFrame_eq, hn (u.frameEnded u.carriage.trackEnd false) rfl rfl rfl h1]
    simp [State.takeArrival, State.withCarriage, ha, State.frameEnded]

/-- The end of a frame changes neither the drum, the line nor what the Job Controller decides on. -/
theorem State.endFrame_kept (u : State) :
    u.endFrame.takeArrival.drum = u.drum ∧ u.endFrame.takeArrival.line = u.line ∧
      u.endFrame.takeArrival.jobs.requestsDue = u.jobs.requestsDue := by
  have h : ∀ x : State, (x.orderNextFrame u.scan.current).drum = x.drum ∧
      (x.orderNextFrame u.scan.current).line = x.line ∧ (x.orderNextFrame u.scan.current).jobs = x.jobs := by
    intro x
    unfold State.orderNextFrame
    (repeat' split) <;> exact ⟨rfl, rfl, rfl⟩
  obtain ⟨a, b, c⟩ := h (u.frameEnded u.carriage.trackEnd false)
  rw [State.endFrame_eq]
  have hj : (State.orderNextFrame u.scan.current (u.frameEnded u.carriage.trackEnd false)).jobs.requestsDue =
      u.jobs.requestsDue := by rw [c]; rfl
  unfold State.takeArrival
  split <;> exact ⟨a, b, hj⟩

/-- The same of a limit-truncation. -/
theorem State.truncateFrame_kept (u : State) :
    u.truncateFrame.takeArrival.drum = u.drum ∧ u.truncateFrame.takeArrival.line = u.line ∧
      u.truncateFrame.takeArrival.jobs.requestsDue = u.jobs.requestsDue := by
  unfold State.truncateFrame
  split
  · split
    · exact u.endFrame_kept
    · split
      · exact State.endFrame_kept _
      · unfold State.takeArrival; split <;> exact ⟨rfl, rfl, rfl⟩
  · unfold State.takeArrival; split <;> exact ⟨rfl, rfl, rfl⟩

/-- A carriage fault is taken (R113, R114). -/
theorem State.takeCarriageFault_delivered (old v : State) :
    State.Delivered v (finish old v.takeCarriageFault) where
  quiet h := finish_ends_of (by simp [State.takeCarriageFault, h])
  ignored h h1 := finish_ends_of (by
    have : v.jobs.endable = false := by
      unfold Jobs.endable
      rcases h1 with h1 | h1
      · rw [h1]; rfl
      · cases h2 : v.jobs.requestsDue
        · exact absurd h2 h1
        · simp
    simp [State.takeCarriageFault, h, this, State.withCarriage])
  ends h h1 h2 h3 := by
    have : v.takeCarriageFault =
        State.endJob .carriageFault false { v with carriage := { v.carriage with faultEvent := false } } := by
      have hl : (v.jobs.attemptInProgress && Config.faultRequestsLate v.crystal) = false := by
        rcases h3 with h | h <;> simp [h]
      unfold State.takeCarriageFault State.endJobAs
      simp only [h, if_true, State.withCarriage, Jobs.endable, h1, h2, Option.isNone_none, Bool.and_true, hl,
        Bool.false_eq_true, if_false]
    rw [this]
    exact State.endJob_ended _ _ _
  goesOut h h1 h2 h3 h4 := finish_ends_of (by
    simp [State.takeCarriageFault, h, State.endJobAs, State.causeLate, State.withCarriage, Jobs.endable, h1, h2, h3, h4,
      State.withJobs])

/-- A limit-truncation, its events taken (R38, R62). -/
theorem State.truncateFrame_truncated (u : State) (ha : u.carriage.arrivalEvent = false) :
    u.Truncated u.truncateFrame.takeArrival where
  other h := by
    have : u.truncateFrame = u := by
      unfold State.truncateFrame; split
      · contradiction
      · rfl
    rw [this]; simp [State.takeArrival, ha]
  ends h hl := by
    have : u.truncateFrame = u.endFrame := by simp [State.truncateFrame, h, hl]
    rw [this]; exact u.endFrame_ends ha
  givesBack l h hl hp := by
    have : u.truncateFrame = ({ u with
        ring := u.ring.giveBack l.slot
        scan := { u.scan.dropLine with nextLine := l.line }
        gate := u.gate.dropScan } : State).endFrame := by simp only [State.truncateFrame, h, hl, hp, if_true]
    rw [this]
    have hx : ∀ x y : State, x = y → y.carriage.arrivalEvent = false → y.FrameEnds x.endFrame.takeArrival := by
      rintro x _ rfl hy; exact x.endFrame_ends hy
    refine hx _ _ ?_ ha
    rw [Gate.dropScan_eq]
    simp only [Ring.giveBack, updateAt_eq, ringPrev, RingSlot.empty, Scan.dropLine] <;> rfl
  goesOn l h hl hp := by
    have : u.truncateFrame = u.withScan { u.scan with truncating := true } := by
      simp [State.truncateFrame, h, hl, Nat.ne_of_gt hp]
    rw [this]; simp [State.takeArrival, ha, State.withScan]

/-- With no drum's event among them, the events of `v` are its carriage fault (R113). -/
theorem State.truncate_delivers (old u : State) (h1 : u.carriage.arrivalEvent = false)
    (h2 : u.carriage.truncationEvent = true)
    (h3 : u.drum.bandLostSignal = true → u.line.state.sending = false) :
    ∃ v, State.Truncated { u with carriage := { u.carriage with truncationEvent := false } } v ∧ v.drum = u.drum ∧
      State.Delivered { v with drum := { v.drum with bandLostSignal := false } }
        (finish old u.deliver) := by
  refine ⟨_, State.truncateFrame_truncated { u with carriage := { u.carriage with truncationEvent := false } } h1,
    (State.truncateFrame_kept _).1, ?_⟩
  obtain ⟨k1, k2, _⟩ := State.truncateFrame_kept { u with carriage := { u.carriage with truncationEvent := false } }
  have hd : u.deliver = State.takeCarriageFault
      (State.truncateFrame { u with carriage := { u.carriage with truncationEvent := false } }).takeArrival.takeBandLost := by
    unfold State.deliver
    have : u.takeTruncation = State.truncateFrame { u with carriage := { u.carriage with truncationEvent := false } } := by
      simp [State.takeTruncation, h2, State.withCarriage]
    rw [this]
  rw [hd]
  generalize (State.truncateFrame { u with carriage := { u.carriage with truncationEvent := false } }).takeArrival = v at *
  have hb : v.takeBandLost = { v with drum := { v.drum with bandLostSignal := false } } := by
    have e1 : v.drum = u.drum := k1
    have e2 : v.line = u.line := k2
    unfold State.takeBandLost
    cases h : v.drum.bandLostSignal
    · have : ({ v.drum with bandLostSignal := false } : Drum) = v.drum := by rw [← h]
      rw [this]
      rfl
    · have hs : v.line.state.sending = false := by rw [e2]; exact h3 (by rw [← e1]; exact h)
      simp [hs, State.mapDrum_eq, State.withDrum]
  rw [hb]
  exact State.takeCarriageFault_delivered old _

end Sys2Proof.Machine
end

