-- ==== Sys2Proof/Laws/Moves.lean ====
section
/-! SUPPORT. What a SPIN, the entry to RAMPING, a step of STAIRCASE, a change of the policies and a POSITION request do,
each said once in the words of Safety.lean (R4, R7 to R11, R24 to R27). -/

namespace Sys2Proof.Machine

/-! ## The drum -/

/-- A running minimum is below its start and below every value. -/
theorem foldl_min_le (l : List Nat) (a : Nat) : l.foldl min a ≤ a ∧ ∀ x ∈ l, l.foldl min a ≤ x := by
  induction l generalizing a with
  | nil => simp
  | cons b l ih =>
    simp only [List.foldl_cons, List.mem_cons]
    have := ih (min a b)
    refine ⟨by omega, ?_⟩
    rintro x (rfl | hx)
    · omega
    · exact this.2 x hx

/-- A running minimum is its start or one of the values. -/
theorem foldl_min_mem (l : List Nat) (a : Nat) : l.foldl min a = a ∨ l.foldl min a ∈ l := by
  induction l generalizing a with
  | nil => simp
  | cons b l ih =>
    simp only [List.foldl_cons, List.mem_cons]
    rcases ih (min a b) with h | h
    · rw [h]; rcases Nat.le_total a b with hab | hab
      · left; omega
      · right; left; omega
    · right; right; exact h

/-- A running maximum is above its start and above every value. -/
theorem foldl_max_le (l : List Nat) (a : Nat) : a ≤ l.foldl max a ∧ ∀ x ∈ l, x ≤ l.foldl max a := by
  induction l generalizing a with
  | nil => simp
  | cons b l ih =>
    simp only [List.foldl_cons, List.mem_cons]
    have := ih (max a b)
    refine ⟨by omega, ?_⟩
    rintro x (rfl | hx)
    · omega
    · exact this.2 x hx

/-- A running maximum is its start or one of the values. -/
theorem foldl_max_mem (l : List Nat) (a : Nat) : l.foldl max a = a ∨ l.foldl max a ∈ l := by
  induction l generalizing a with
  | nil => simp
  | cons b l ih =>
    simp only [List.foldl_cons, List.mem_cons]
    rcases ih (max a b) with h | h
    · rw [h]; rcases Nat.le_total a b with hab | hab
      · right; left; omega
      · left; omega
    · right; right; exact h

/-- The step that the Regulator chooses is the one that `StairStep` describes (R9). -/
theorem StairStep.eq (p : DrumProfile) (ref target next : Nat) (h : StairStep p ref target next) :
    stairStep p ref target = next := by
  have key : ∀ x, (x ∈ List.filter (fun v => decide (ref < v) && decide (v < target))
      (List.filter (· ≠ 0) [p.stair0, p.stair1, p.stair2])) ↔ p.isStair x ∧ ref < x ∧ x < target := by
    intro x; simp [DrumProfile.isStair, List.mem_filter]; tauto
  have key2 : ∀ x, (x ∈ List.filter (fun v => decide (v < ref) && decide (target < v))
      (List.filter (· ≠ 0) [p.stair0, p.stair1, p.stair2])) ↔ p.isStair x ∧ x < ref ∧ target < x := by
    intro x; simp [DrumProfile.isStair, List.mem_filter]; tauto
  unfold stairStep
  dsimp only
  rcases Nat.lt_trichotomy ref target with hl | hl | hl
  · rw [if_pos hl]
    obtain ⟨h1, h2⟩ := h.up hl
    generalize List.filter (fun v => decide (ref < v) && decide (v < target))
      (List.filter (· ≠ 0) [p.stair0, p.stair1, p.stair2]) = l at *
    have m1 := foldl_min_le l target
    rcases foldl_min_mem l target with h3 | h3
    · rcases h2 with h2 | h2
      · have := m1.2 next ((key _).2 h2); omega
      · omega
    · have h4 := (key _).1 h3
      have h5 := h1 _ h4.1 h4.2.1 h4.2.2
      rcases h2 with h2 | h2
      · have := m1.2 next ((key _).2 h2); omega
      · omega
  · subst hl; rw [if_neg (by omega), h.same rfl]
    generalize List.filter (fun v => decide (v < ref) && decide (ref < v))
      (List.filter (· ≠ 0) [p.stair0, p.stair1, p.stair2]) = l at *
    rcases foldl_max_mem l ref with h3 | h3
    · exact h3
    · have := (key2 _).1 h3; omega
  · rw [if_neg (by omega)]
    obtain ⟨h1, h2⟩ := h.down hl
    generalize List.filter (fun v => decide (v < ref) && decide (target < v))
      (List.filter (· ≠ 0) [p.stair0, p.stair1, p.stair2]) = l at *
    have m1 := foldl_max_le l target
    rcases foldl_max_mem l target with h3 | h3
    · rcases h2 with h2 | h2
      · have := m1.2 next ((key2 _).2 ⟨h2.1, h2.2.2, h2.2.1⟩); omega
      · omega
    · have h4 := (key2 _).1 h3
      have h5 := h1 _ h4.1 h4.2.2 h4.2.1
      rcases h2 with h2 | h2
      · have := m1.2 next ((key2 _).2 ⟨h2.1, h2.2.2, h2.2.1⟩); omega
      · omega

/-- What setting the duty does (R14). -/
theorem Drum.setDuty_dutied (p : DrumProfile) (t v : Nat) (d : Drum) : d.setDuty p t v = d.dutied p t v := rfl

/-- A step of STAIRCASE: the ref and the duty, and SETTLING at the target (R9, R11). -/
theorem Drum.takeStair_eq (p : DrumProfile) (t next : Nat) (v : Speed) (d : Drum) (hv : d.target = some v)
    (h : StairStep p d.ref v.ref next) :
    d.takeStair p t =
      Drum.dutied p t (min (feedForward p next) p.dutyMax)
        { d with
          ref := next, state := if next = v.ref then .settling else d.state
          integral := if next = v.ref then 0 else d.integral
          inBandCount := if next = v.ref then 0 else d.inBandCount
          rampTick := if next = v.ref then none else d.rampTick } := by
  have hs := h.eq
  have ht : d.targetRef = v.ref := by simp [Drum.targetRef, hv]
  have h2 : (Drum.setDuty p t (rampDuty p next) { d with ref := next }).targetRef = v.ref := ht
  unfold Drum.takeStair
  dsimp only
  rw [ht, hs, h2]
  by_cases hn : next = v.ref
  · rw [if_pos hn, if_pos hn, if_pos hn, if_pos hn, if_pos hn]
    unfold Drum.enterSettling
    have h3 : (Drum.setDuty p t (rampDuty p next) { d with ref := next }).targetRef = next := h2.trans hn.symm
    rw [h3]
    change Drum.dutied p t (rampDuty p next) _ = _
    unfold Drum.dutied Drum.setDuty rampDuty
    by_cases h0 : min (feedForward p next) p.dutyMax = 0 <;> simp [h0]
  · rw [if_neg hn, if_neg hn, if_neg hn, if_neg hn, if_neg hn]; rfl

/-- What the entry to RAMPING does (R7, R9 to R11). -/
theorem Drum.enterRamping_entered (p : DrumProfile) (t : Nat) (v : Speed) (d : Drum) (hv : d.target = some v) :
    Drum.RampEntered p t v d (d.enterRamping p t) where
  linear h := by
    unfold Drum.enterRamping
    simp only [h, Drum.setDuty_dutied, rampDuty, freshSpinUp]
  staircase next h hn := by
    unfold Drum.enterRamping
    simp only [h, freshSpinUp]
    rw [Drum.takeStair_eq p t next v]
    · simp
    · exact hv
    · exact hn

/-- What a SPIN does, a BAND_LOST that it signals taken (R4). -/
theorem Drum.spin_spun (p : DrumProfile) (t : Nat) (v : Speed) (d : Drum) (hb : d.bandLostSignal = false) :
    Drum.Spun p t v d { d.spin p t v with bandLostSignal := false } := by
  have hsig : ∀ x : Drum, (x.enterRamping p t).bandLostSignal = x.bandLostSignal := by
    intro x; unfold Drum.enterRamping; dsimp only; split
    · rfl
    · unfold Drum.takeStair; dsimp only; split <;> rfl
  have key : ∀ x : Drum, x.bandLostSignal = false →
      { (x.enterRamping p t) with bandLostSignal := false } = x.enterRamping p t := by
    intro x hx; have := hsig x; rw [hx] at this; rw [← this]
  have kq : ∀ x : Drum, ∀ b, { ({ x with bandLostSignal := b }.enterRamping p t) with bandLostSignal := false } =
      { x with bandLostSignal := false }.enterRamping p t := by
    intro x b
    unfold Drum.enterRamping; dsimp only; split
    · rfl
    · unfold Drum.takeStair Drum.enterSettling Drum.setDuty; dsimp only [Drum.targetRef]
      by_cases hq : stairStep p x.ref ((Option.map Speed.ref x.target).getD 0) =
          (Option.map Speed.ref x.target).getD 0 <;> simp [hq]
  constructor
  · intro h
    have : d.spin p t v =
        ({ d with spinRequest := some v, brake := false, target := some v, ref := 0 }).enterRamping p t := by
      unfold Drum.spin; rcases h with h | h <;> simp [h]
    rw [this]
    have e := key { d with spinRequest := some v, brake := false, target := some v, ref := 0 } hb
    exact (congrArg (Drum.RampEntered p t v _) e).mpr (Drum.enterRamping_entered _ _ _ _ rfl)
  · intro h ht
    have : d.spin p t v = { d with spinRequest := some v } := by
      unfold Drum.spin; cases hs : d.state <;> simp_all [DrumState.regulating]
    rw [this, ← hb]
  · intro h ht
    have : d.spin p t v =
        { d with
          spinRequest := some v, target := some v
          bandLostSignal := d.bandLostSignal || d.state.ready }.enterRamping p t := by
      unfold Drum.spin; cases hs : d.state <;> simp_all [DrumState.regulating]
    rw [this]
    refine (congrArg (Drum.RampEntered p t v _) (kq { d with spinRequest := some v, target := some v } _)).mpr ?_
    have e : ({ d with spinRequest := some v, target := some v, bandLostSignal := false } : Drum) =
        { d with spinRequest := some v, target := some v } := by rw [← hb]
    rw [e]
    exact Drum.enterRamping_entered _ _ _ _ rfl
  · intro h
    have : d.spin p t v = { d with spinRequest := some v, target := some v } := by
      unfold Drum.spin; simp [h]
    rw [this, ← hb]
  · intro h
    have : d.spin p t v = { d with spinRequest := some v } := by
      unfold Drum.spin; simp [h]
    rw [this, ← hb]

/-! ## The carriage -/

/-- What the entry to POSITIONING does, its arrival taken (R26, R27). -/
theorem Carriage.enterPositioning_begun (t p : Nat) (c : Carriage) (hp : c.target = some p)
    (ha : c.arrivalEvent = false) :
    Carriage.MoveBegun t p c { c.enterPositioning t with arrivalEvent := false } where
  there h := by
    have : ({ c with state := .positioning, stepsDue := 0, nextStep := none } : Carriage).atTarget = true := by
      simp [Carriage.atTarget, hp, h]
    simp only [Carriage.enterPositioning, this, if_true, Carriage.arrive, Carriage.toRest]
    cases c; simp_all
  away h1 h2 h3 := by
    have e1 : ({ c with state := .positioning, stepsDue := 0, nextStep := none } : Carriage).atTarget = false := by
      simp [Carriage.atTarget, hp]; omega
    have e2 : ({ c with state := .positioning, stepsDue := 0, nextStep := none } : Carriage).aimAway = true := by
      simp [Carriage.aimAway, hp, h1]
    have e3 : (c.home && decide (0 < c.position)) = false := by cases hh : c.home <;> simp; exact h3 hh
    simp only [Carriage.enterPositioning, e1, e2, Bool.false_eq_true, if_false, Carriage.moveStep]
    have e4 : ∀ b, ({ c with state := .positioning, stepsDue := 0, nextStep := none, dirAway := b } :
        Carriage).aimAway = true := by intro b; simp [Carriage.aimAway, hp, h1]
    simp only [h2, e3, Bool.and_false, Bool.false_eq_true, if_false, Carriage.step]
    cases c; simp_all
    rfl
  toward h1 h2 := by
    have e1 : ({ c with state := .positioning, stepsDue := 0, nextStep := none } : Carriage).atTarget = false := by
      simp [Carriage.atTarget, hp]; omega
    have e4 : ∀ b, ({ c with state := .positioning, stepsDue := 0, nextStep := none, dirAway := b } :
        Carriage).aimAway = false := by intro b; simp [Carriage.aimAway, hp]; omega
    have e2 := e4 c.dirAway
    simp only [Carriage.enterPositioning, e1, e2, Bool.false_eq_true, if_false, Carriage.moveStep, e4, h2,
      Bool.false_and, Carriage.step]
    cases c; simp_all
    try rfl
  blocked h := by
    have hne : c.position ≠ p := by rcases h with h | h <;> omega
    have e1 : ({ c with state := .positioning, stepsDue := 0, nextStep := none } : Carriage).atTarget = false := by
      simp [Carriage.atTarget, hp]; omega
    have e4 : ∀ b, ({ c with state := .positioning, stepsDue := 0, nextStep := none, dirAway := b } :
        Carriage).aimAway = decide (c.position < p) := by intro b; simp [Carriage.aimAway, hp]
    have e2 := e4 c.dirAway
    simp only [Carriage.enterPositioning, e1, e2, Bool.false_eq_true, if_false, Carriage.moveStep, e4]
    rcases h with h | h
    · simp [h, Carriage.toFault]; cases c; simp_all
    · simp [h, Carriage.toFault]; cases c; simp_all

/-- What a POSITION request does (R24 to R26). -/
theorem Carriage.requestPosition_positioned (t p : Nat) (c : Carriage) (ha : c.arrivalEvent = false) :
    Carriage.Positioned t p c { c.requestPosition t p with arrivalEvent := false } where
  moves h := by
    have : c.requestPosition t p = { c with target := some p }.enterPositioning t := by
      unfold Carriage.requestPosition; rcases h with h | h <;> simp [h]
    rw [this]
    have k := Carriage.enterPositioning_begun t p { c with target := some p } rfl ha
    exact ⟨k.there, k.away, k.toward, k.blocked⟩
  homes h1 h2 := by
    have : c.requestPosition t p = { c with target := some p }.enterHoming t := by
      unfold Carriage.requestPosition; rcases h1 with h | h <;> simp [h]
    rw [this]; simp [Carriage.enterHoming, Carriage.homeStep, h2, moveSpacing, ha]
  atHome h1 h2 := by
    have : c.requestPosition t p = { c with target := some p }.enterHoming t := by
      unfold Carriage.requestPosition; rcases h1 with h | h <;> simp [h]
    have e2 : c.requestPosition t p = Carriage.enterPositioning t
        { c with
          target := some p, state := .homing, homed := true, position := 0, homingSteps := 0, stepsDue := 0 } := by
      rw [this]; unfold Carriage.enterHoming Carriage.homeStep; rw [if_pos h2]; rfl
    rw [e2]
    have k := Carriage.enterPositioning_begun t p
        { c with
          target := some p, state := .homing, homed := true, position := 0, homingSteps := 0, stepsDue := 0 } rfl ha
    exact ⟨fun h => k.there h, fun a b d => k.away a b d, fun a b => k.toward a b, fun a => k.blocked a⟩
  homing h := by unfold Carriage.requestPosition; simp [h, ha]
  aims h := by
    unfold Carriage.requestPosition; simp only [h, Carriage.atTarget]
    by_cases hq : c.position = p
    · simp [hq, ha]
    · have : ¬ p = c.position := fun h => hq h.symm
      simp [hq, this, Carriage.aimAway, ha]

/-! ## The policies, and a SPIN from STOPPED -/

/-- What a capture of the policy words does to the Regulator (01, Faults). -/
theorem Drum.watchPolicies_watched (old new : DrumProfile) (t : Nat) (d : Drum) :
    d.Watched old new t (d.watchPolicies old new t) := by
  constructor <;> (try intro h) <;> (try intro h') <;> simp only [Drum.watchPolicies]
  · (repeat' split) <;> rfl
  all_goals ((repeat' split) <;> simp_all)

/-- What a SPIN does in STOPPED, with a BAND_LOST waiting or not (R4). -/
theorem Drum.spin_spun_stopped (p : DrumProfile) (t : Nat) (v : Speed) (d : Drum) (h : d.state = .stopped) :
    Drum.Spun p t v d (d.spin p t v) where
  starts _ := by
    have : d.spin p t v =
        ({ d with spinRequest := some v, brake := false, target := some v, ref := 0 }).enterRamping p t := by
      unfold Drum.spin; simp [h]
    rw [this]; exact Drum.enterRamping_entered _ _ _ _ rfl
  same h' := by simp [h, DrumState.regulating] at h'
  retarget h' := by simp [h, DrumState.regulating] at h'
  waits h' := by simp [h] at h'
  latched h' := by simp [h] at h'

end Sys2Proof.Machine
end

