-- ==== Sys2Proof/Laws/Posting.lean ====
section
/-! SUPPORT. What the posting of the Backlog does, and where the last of the control operations of one moment enters the
list, each said once (R165, R186). -/

namespace Sys2Proof.Machine

/-! ## Operations of one moment -/

/-- An operation passes those of another issuer. -/
theorem passOthers_others (q : Op) (l : List Op) (n : Nat) (h : ∀ y ∈ l, y.kind.issuer ≠ q.kind.issuer) :
    passOthers q n l = l.take n ++ q :: l.drop n := by
  induction l generalizing n with
  | nil => cases n <;> rfl
  | cons y l ih =>
    cases n with
    | zero => rfl
    | succ n =>
      simp only [passOthers]
      rw [if_neg (h y (by simp)), ih n fun z hz => h z (by simp [hz])]
      rfl

/-- The last operation of a moment enters the list ahead of `ahead` of those of another issuer. -/
theorem slideLast_others (base ps : List Op) (q : Op) (ahead : Nat)
    (h : ∀ y ∈ ps, y.kind.issuer ≠ q.kind.issuer) :
    slideLast base.length ahead (base ++ ps ++ [q]) =
      base ++ ps.take (ps.length - ahead) ++ q :: ps.drop (ps.length - ahead) := by
  unfold slideLast
  simp only [List.append_assoc, List.drop_left, List.reverse_append, List.reverse_cons, List.reverse_nil,
    List.nil_append, List.cons_append, List.take_left]
  rw [passOthers_others _ _ _ (by simpa using h)]
  simp [List.take_reverse, List.drop_reverse]

/-- Operations of one issuer keep their order. -/
theorem slideLast_same (base ps : List Op) (ahead : Nat)
    (h : ∀ y ∈ ps, ∀ z ∈ ps, y.kind.issuer = z.kind.issuer) :
    slideLast base.length ahead (base ++ ps) = base ++ ps := by
  unfold slideLast
  simp only [List.drop_left, List.take_left]
  cases hr : ps.reverse with
  | nil => rfl
  | cons x l =>
    have hps : ps = l.reverse ++ [x] := by simpa using congrArg List.reverse hr
    have hx : passOthers x ahead l = x :: l := by
      cases ahead with
      | zero => cases l <;> rfl
      | succ n =>
        cases l with
        | nil => rfl
        | cons y l =>
          simp only [passOthers]
          rw [if_pos (h y (by simp [hps]) x (by simp [hps]))]
    dsimp only
    rw [hx, hps]
    simp

/-! ## The Backlog -/

/-- What the posting of the Backlog does (R186): its completions are posted, oldest first, while the slot at the post
index is FREE, each by one operation of the Mailbox Unit. -/
theorem State.postBacklog_posted (cs : List Completion) (s : State) :
    ({ s with mailbox := { s.mailbox with backlog := [] } } : State).BacklogPosted cs (State.postBacklog cs s) ∧
      ∃ ps, (State.postBacklog cs s).gate.ops = s.gate.ops ++ ps ∧ ∀ y ∈ ps, y.kind.issuer = .mailboxUnit := by
  induction cs generalizing s with
  | nil => exact ⟨rfl, [], by simp [State.postBacklog, State.withMailbox]⟩
  | cons c cs ih =>
    refine ⟨⟨fun h => ?_, fun h => ?_⟩, ?_⟩
    · have hf : s.mailbox.postFree = true := by simpa [Mailbox.postFree] using h
      simp only [State.postBacklog, hf, if_true]
      refine ⟨_, ⟨fun _ _ => ?_, fun hh => ?_⟩, (ih (s.post c)).1⟩
      · simp [State.post, Mailbox.setSlot, Mailbox.driveAttn, State.issue, Gate.issue, State.withGate,
          State.withMailbox, State.returnAddr, ringNext]
      · simp at hh
        exact absurd h hh
    · have hf : s.mailbox.postFree = false := by simpa [Mailbox.postFree] using h
      simp [State.postBacklog, hf, State.withMailbox]
    · simp only [State.postBacklog]
      split
      · obtain ⟨ps, h1, h2⟩ := (ih (s.post c)).2
        obtain ⟨op, h3, h4⟩ : ∃ op : Op, (s.post c).gate.ops = s.gate.ops ++ [op] ∧ op.kind.issuer = .mailboxUnit :=
          ⟨_, rfl, rfl⟩
        exact ⟨op :: ps, by rw [h1, h3]; simp, by simpa [h4] using h2⟩
      · exact ⟨[], by simp [State.withMailbox]⟩

/-- The posting of the Backlog leaves the Job Controller alone. -/
@[simp] theorem State.postBacklog_jobs (cs : List Completion) (s : State) :
    (State.postBacklog cs s).jobs = s.jobs := by
  induction cs generalizing s with
  | nil => rfl
  | cons c cs ih =>
    simp only [State.postBacklog]
    split
    · exact ih _
    · rfl

end Sys2Proof.Machine
end

