-- ==== Sys2Proof/WellFormed.lean ====
section
/-! DEFINITION. Which commands are well formed: a host cycle is one word, at a word address
(09_the_memory_path.md, Host cycles). Every other operand admits every value of its type. -/

namespace Sys2Proof

/-- A word address: a multiple of 4 (00_scope.md, Addresses: words are word-aligned). -/
def wordAligned (a : Addr) : Bool := a.toNat % 4 == 0

/-- The command is one that can reach the part. -/
def Instr.wellFormed : Instr → Bool
  | .hostRead a => wordAligned a
  | .hostWrite a _ _ => wordAligned a
  | _ => true

end Sys2Proof
end

