-- ==== Sys2Proof/Tests/Slice0.lean ====
section
/-! SUPPORT. Tests on fixed values. A `witness_` theorem shows a state and operands that meet the hypotheses of
the obligation it names, clause by clause; a `test_` theorem runs one command. Expected values are worked by
hand from the rules or taken from the manual's worked examples, which the comments name. -/

namespace Sys2Proof.Tests

open Sys2Proof Sys2Proof.Machine

/-! ## Small states -/

/-- A layout that passes the checks of R171. -/
def lay : Layout where
  generation := 1
  sendBase := 0x1000
  sendCount := 4
  returnBase := 0x1100
  returnCount := 4
  ringBase := 0x2000
  ringCount := 8
  profileBase := 0x6000
  logBase := 0x7000
  logCount := 8
  statusBase := 0x8000
  directoryBase := 0x9000
  directoryCount := 4
  previewBase := 0xA000
  memoryTop := 0x100000

/-- The part out of reset, no layout loaded, 10 seconds into its time. -/
def bare : State := { State.reset with inReset := false, crystal := 40000000 }

/-- The same with the layout in force and nothing to do. -/
def live : State :=
  { bare with
    layout := { LayoutUnit.reset with inForce := some lay }
    mailbox := { Mailbox.reset with slots := [.free, .free, .free, .free] }
    ring := { Ring.reset with slots := List.replicate 8 { state := .free, frame := 0, line := 0 } } }

def withD (d : Drum) : State := { live with drum := d }
def withC (c : Carriage) : State := { live with carriage := c }
def withL (l : Line) : State := { live with line := l }

/-- The command answers a next state of which p holds. -/
def after (c : Instr) (s : State) (p : State → Bool) : Bool :=
  match exec c s with
  | .next t => p t
  | _ => false

/-! ## The form of the commands -/

theorem test_host_read_aligned : (Instr.hostRead 0x1004).wellFormed = true := by decide
theorem test_host_read_unaligned_refused : (Instr.hostRead 0x1006).wellFormed = false := by decide
theorem test_host_write_aligned : (Instr.hostWrite 0xFFFFFC 1 15).wellFormed = true := by decide
theorem test_host_write_unaligned_refused : (Instr.hostWrite 0x1001 1 15).wellFormed = false := by decide
theorem test_other_commands_well_formed : (Instr.tachEvent (Vector.replicate 6 1023) true).wellFormed = true := by
  decide
theorem test_no_word_is_a_command : decodeTableWord 32 0xFFFFFFFF = none := by decide

/-! ## The machine -/

theorem witness_StepRunsTheFrontCommand :
    ({ live with pending := [.indexPulse, .stopKey false] } : State).pending = Instr.indexPulse :: [.stopKey false] := by decide
theorem witness_EveryStepAnswers : live.pending = [] ∧ live.jobs.requestsDue = none := by decide
theorem test_step_runs_the_front :
    (match step { live with pending := [.indexPulse, .stopKey false] } with
      | .next t => t.drum.indexArmed && t.pending == [.stopKey false]
      | _ => false) = true := by decide
theorem test_idle_counts_the_crystal :
    (match step live with
      | .next t => t.crystal == 40000001
      | _ => false) = true := by decide

/-! ## The Drum Regulator -/

def cells0 : Cells := Vector.replicate 6 0

/-- The drum turning, synchronised, in interval n; the last tach event 1,953 µs ago. -/
def turning (st : DrumState) (n : Nat) : Drum :=
  { Drum.reset with
    state := st, synced := true, interval := some n, lastTach := some 9998047, lenLast := 1950
    target := some .rpm120, ref := 1200, duty := 600 }

theorem witness_IndexPulse : live.inReset = false := by decide
theorem test_index_pulse : after .indexPulse live (·.drum.indexArmed) = true := by decide

theorem witness_TachEvent_armed :
    (withD { turning .inBand 255 with indexArmed := true }).inReset = false ∧
    (withD { turning .inBand 255 with indexArmed := true }).drum.indexArmed = true := by decide
theorem witness_TachEvent_missed_index :
    (withD (turning .inBand 255)).drum.indexArmed = false ∧ (withD (turning .inBand 255)).drum.synced = true ∧
    (withD (turning .inBand 255)).drum.interval = some 255 := by decide
theorem witness_TachEvent_counts :
    (withD (turning .inBand 254)).drum.indexArmed = false ∧ (withD (turning .inBand 254)).drum.synced = true ∧
    (withD (turning .inBand 254)).drum.interval = some 254 ∧ 254 < 255 := by decide
theorem witness_TachEvent_unsynced :
    live.drum.indexArmed = false ∧ live.drum.synced = false := by decide
theorem witness_TachEvent_lengths : (withD (turning .inBand 254)).drum.lastTach = some 9998047 := by decide
/-- The INDEX in place and early. -/
theorem test_tach_index :
      -- R1: an INDEX in place after interval 255 is no turn error, one early is.
      (after (.tachEvent cells0 true) (withD { turning .inBand 255 with indexArmed := true })
      (fun t => t.drum.interval == some 0 && t.drum.turnErrors == 0 && t.drum.lenLast == 1953
        && t.drum.lenPrev == 1950) = true) ∧
      (after (.tachEvent cells0 true) (withD { turning .inBand 254 with indexArmed := true })
      (fun t => t.drum.interval == some 0 && t.drum.turnErrors == 1) = true) := by decide

/-- At the end of interval 15 no slot event falls; at that of 16 the attempt's four do; 255 ends with the INDEX. -/
theorem witness_TachEventsInFull :
    let s := withD (turning .inBand 15)
    s.awake = true ∧ s.drum.synced = true ∧ s.drum.interval = some 15 ∧ s.drum.lastTach = some 9998047 ∧
      1953 = min 4000000 (s.now - 9998047) ∧ false = decide (s.drum.indexArmed = true ∨ 15 = 255) ∧
      false =
        decide
          (s.profile.drum.slipPolicy ≠ .off ∧
            s.profile.drum.ratio * min 1953 s.drum.lenLast < max 1953 s.drum.lenLast) := by decide
theorem witness_TachEventsInFull_index :
    let s := withD { turning .inBand 200 with indexArmed := true }
    s.awake = true ∧ s.drum.synced = true ∧ true = decide (s.drum.indexArmed = true ∨ 200 = 255) := by decide

/-- The worked case of R11 (01, Worked case): IN_BAND at 120 rpm, integral 200, Pm 62,540. -/
def loopUp : State := withD { turning .inBand 40 with closedSample := some 62540, integral := 200 }
theorem witness_RegulationSamples_closed_loop :
    loopUp.inReset = false ∧ loopUp.drum.target = some .rpm120 ∧ loopUp.drum.closedSample = some 62540 ∧
      0 < 62540 ∧ loopUp.drum.state = .inBand ∧ (40 : Int) = 62540 - Speed.rpm120.period ∧
      (240 : Int) = max (-65535) (min (loopUp.drum.integral + 40) 65535) ∧
      (604 : Int) =
        max 0
          (min
            (feedForward loopUp.profile.drum Speed.rpm120.ref
              + (loopUp.profile.drum.kp * 40 + loopUp.profile.drum.ki * 240 : Int).tdiv 1024)
            loopUp.profile.drum.dutyMax) := by decide
theorem test_regulation_sample_in_band :
    after .regulationSample loopUp
      (fun t => t.drum.duty == 604 && t.drum.integral == 240 && t.drum.state == .inBand) = true ∧
    -- The 90 rpm example of R11: integral 30, Pm 83,243, so duty 444 and BAND_WARNING with a run of 1.
    after .regulationSample
      (withD
        { turning .inBand 40 with
          target := some .rpm90, ref := 900, duty := 450, integral := 30, closedSample := some 83243 })
      (fun t => t.drum.duty == 444 && t.drum.integral == -60 && t.drum.state == .bandWarning
        && t.drum.outOfBandRun == 1) = true := by decide

theorem witness_BandEntry :
    let s := withD { turning .settling 40 with inBandCount := 8 }
    s.awake = true ∧ s.drum.state = .settling ∧ 8 ≤ s.drum.inBandCount := by decide
theorem witness_BandLost :
    let s := withD { turning .bandWarning 40 with outOfBandRun := 3, lossDue := true }
    s.awake = true ∧ s.drum.state = .bandWarning ∧ s.drum.lossDue = true ∧
      s.line.state.sending = false := by decide
theorem test_band_entry :
    after .bandEntry (withD { turning .settling 40 with inBandCount := 8, retryCount := 2 })
      (fun t => t.drum.state == .inBand && t.drum.retryCount == 0) = true := by decide
theorem test_band_entry_needs_eight :
    after .bandEntry (withD { turning .settling 40 with inBandCount := 7 })
      (fun t => t.drum.state == .settling) = true := by decide
theorem test_band_lost :
    after .bandLost (withD { turning .bandWarning 40 with outOfBandRun := 3, lossDue := true })
      (fun t => t.drum.state == .settling && t.drum.spinUp == some 10000000) = true := by decide

/-- RAMPING from 880 to 900 by 20: the last tick. -/
def lastRamp : State :=
  withD
    { turning .ramping 40 with
      target := some .rpm90, ref := 880, duty := 440, rampTick := some 10000000, rampMode := .linear }
theorem witness_RampTick :
    lastRamp.inReset = false ∧ 10000000 ≤ lastRamp.now ∧ lastRamp.drum.state = .ramping ∧
      lastRamp.drum.rampTick = some 10000000 ∧ lastRamp.drum.target = some .rpm90 ∧
      900 = (if lastRamp.drum.ref < Speed.rpm90.ref then min Speed.rpm90.ref (lastRamp.drum.ref + lastRamp.profile.drum.slew)
        else max Speed.rpm90.ref (lastRamp.drum.ref - lastRamp.profile.drum.slew)) := by decide
theorem witness_ParkRest :
    let s := withD { turning .parking 40 with rest := some 10000000 }
    10000000 ≤ s.now ∧ s.drum.state = .parking ∧ s.drum.rest = some 10000000 := by decide
theorem witness_FaultWait :
    let s := withD { turning .faultWait 40 with wait := some 10000000 }
    s.inReset = false ∧ 10000000 ≤ s.now ∧ s.drum.state = .faultWait ∧ s.drum.wait = some 10000000 ∧
      s.drum.target = some .rpm120 ∧ s.profile.drum.rampMode = .linear := by decide
theorem test_last_ramp_tick :
    after .rampTick lastRamp
      (fun t => t.drum.ref == 900 && t.drum.duty == 450 && t.drum.state == .settling && t.drum.rampTick == none)
      = true := by decide
theorem test_park_rest :
    after .parkRestExpiry (withD { turning .parking 40 with rest := some 10000000, brake := true })
      (fun t => t.drum.state == .stopped && !t.drum.brake) = true := by decide
theorem test_fault_wait :
    after .faultWaitExpiry (withD { turning .faultWait 40 with wait := some 10000000 })
      (fun t => t.drum.state == .ramping && t.drum.ref == 0 && t.drum.rampTick == some 10100000) = true := by
  decide

/-- STAIRCASE at 30 rpm on the way to 90: a sample of exactly 30 rpm. -/
def stair : State :=
  withD
    { turning .ramping 40 with
      target := some .rpm90, ref := 300, rampMode := .staircase, closedSample := some 250000 }
/-- The steps that the default stair speeds give: up to a stair, down to a stair, up and down to the target. -/
theorem witness_StairStep :
    StairStep stair.profile.drum 300 900 600 ∧ StairStep stair.profile.drum 1200 600 900 ∧
      StairStep stair.profile.drum 900 1200 1200 ∧ StairStep stair.profile.drum 900 600 600 := by
  have h : ∀ x, stair.profile.drum.isStair x ↔ x = 300 ∨ x = 600 ∨ x = 900 := fun x => by
    rw [show stair.profile.drum = DrumProfile.default from rfl]
    simp [DrumProfile.isStair, DrumProfile.default]
    omega
  refine ⟨⟨?_, ?_, ?_⟩, ⟨?_, ?_, ?_⟩, ⟨?_, ?_, ?_⟩, ⟨?_, ?_, ?_⟩⟩ <;> intro hl <;>
    first
      | omega
      | exact ⟨fun x hx h1 h2 => by rcases (h x).1 hx with rfl | rfl | rfl <;> omega, by simp [h]⟩
theorem witness_RegulationSamples_staircase :
    stair.inReset = false ∧ stair.drum.state = .ramping ∧ stair.drum.rampMode = .staircase ∧
      stair.drum.target = some .rpm90 ∧ stair.drum.closedSample = some 250000 ∧ 0 < 250000 ∧
      100 * ((250000 : Int) - ((150000000 + stair.drum.ref) / (2 * stair.drum.ref) : Nat)).natAbs
        ≤ stair.profile.drum.hold * ((150000000 + stair.drum.ref) / (2 * stair.drum.ref)) := by decide
/-- The boundary of the other clause: a sample 10,001 µs long of 250,000 at 4 percent. -/
theorem witness_RegulationSamples_out_of_hold :
    stair.profile.drum.hold * ((150000000 + stair.drum.ref) / (2 * stair.drum.ref))
      < 100 * ((260001 : Int) - ((150000000 + stair.drum.ref) / (2 * stair.drum.ref) : Nat)).natAbs := by decide
/-- R9: the second stair from 60 rpm toward 90 is the target, which is SETTLING. -/
theorem test_last_stair :
    after .regulationSample { stair with drum := { stair.drum with ref := 600, closedSample := some 125000 } }
      (fun t => t.drum.ref == 900 && t.drum.state == .settling && t.drum.integral == 0) = true := by decide

theorem witness_RegulationSamples_elsewhere :
    let s := withD { turning .parking 40 with closedSample := some 70000 }
    s.inReset = false ∧ s.drum.closedSample = some 70000 ∧ 0 < 70000 ∧
      s.drum.state ∈ [DrumState.stopped, .faultWait, .latched, .parking] ∧ lastRamp.drum.rampMode = .linear := by decide

def pwmOnTime : State := withD { turning .inBand 40 with pwm := { duty := 600, start := 39999900, tripped := false } }
theorem witness_CurrentTrip :
    pwmOnTime.inReset = false ∧ pwmOnTime.drum.brake = false ∧ pwmOnTime.drum.pwm.tripped = false ∧
      pwmOnTime.drum.pwm.start ≤ pwmOnTime.crystal ∧
      (pwmOnTime.crystal - pwmOnTime.drum.pwm.start) * 1024 < pwmOnTime.drum.pwm.duty * 200 := by decide
theorem witness_PwmPeriodEnd :
    let s := withD { turning .inBand 40 with pwm := { duty := 600, start := 39999800, tripped := true } }
    s.drum.pwm.start + 200 ≤ s.crystal := by decide
theorem test_ilim_trip : after .ilimTrip pwmOnTime (·.drum.pwm.tripped) = true := by decide
theorem test_pwm_period_end :
    after .pwmPeriodEnd (withD { turning .inBand 40 with pwm := { duty := 600, start := 39999800, tripped := true } })
      (fun t => t.drum.ocRun == 1 && t.drum.pwm.start == 40000000 && !t.drum.pwm.tripped) = true := by decide

def slipping : State := withD { turning .inBand 40 with slipRun := 2, slipDue := true }
def tripping : State := withD { turning .inBand 40 with ocRun := 16, overcurrentDue := true }
def stalling : State := withD { turning .inBand 40 with stallTimer := some 9750000 }
def slowStart : State := withD { turning .ramping 40 with spinUp := some 0 }

/-- Past the 20 s of SPINUP_S. -/
def tooSlow : State := { slowStart with crystal := 80000000 }
theorem witness_FaultDetections_slip :
    slipping.awake = true ∧ slipping.line.state.sending = false ∧ slipping.drum.slipDue = true := by decide
theorem witness_FaultDetections_overcurrent :
    tripping.awake = true ∧ tripping.line.state.sending = false ∧ tripping.drum.overcurrentDue = true := by decide
theorem witness_FaultDetections_stall :
    stalling.awake = true ∧ stalling.line.state.sending = false ∧
      stalling.drum.stallTimer = some 9750000 ∧ 9750000 + 1000 * stalling.profile.drum.stallMs ≤ stalling.now := by
  decide
theorem witness_FaultDetections_spinup :
    tooSlow.awake = true ∧ tooSlow.line.state.sending = false ∧ tooSlow.drum.spinUp = some 0 ∧
      0 + 1000000 * tooSlow.profile.drum.spinupS ≤ tooSlow.now := by decide
/-- The default policies of R177: slip RETRY, stall LATCH_BRAKE, overcurrent LATCH_COAST. -/
theorem test_slip_detected :
    after .slipDetected slipping
      (fun t => t.drum.state == .faultWait && t.drum.slipEvents == 1 && t.drum.wait == some 12000000) = true := by
  decide
theorem test_overcurrent_detected :
    after .overcurrentDetected tripping (fun t => t.drum.state == .latched && !t.drum.brake) = true := by decide
theorem test_stall_timeout :
    after .stallTimeout stalling (fun t => t.drum.state == .latched && t.drum.brake && t.drum.flagStall) = true := by
  decide
theorem test_spinup_timeout :
    after .spinupTimeout tooSlow (fun t => t.drum.state == .latched && t.drum.stallEvents == 1) = true := by decide
/-- R14, R17: under REPORT the stall timer that has run out at the same moment starts again, its own STALL still to be
taken. -/
theorem test_spinup_timeout_keeps_the_stall :
    after .spinupTimeout
      { withD { turning .ramping 40 with spinUp := some 0, stallTimer := some 0 } with
        crystal := 80000000
        profile := { Profile.default with drum := { Profile.default.drum with stallPolicy := .report } } }
      (fun t => t.drum.stallDue && t.drum.stallTimer == some 20000000 && t.drum.stallEvents == 1) = true := by decide

/-- A call in PICTURE on the line. -/
def sendingLine : Line :=
  { Line.reset with
    state := .picture, relay := true, sendLamp := true, active := true, loop := true, loopShown := true
    snapshot := some .default, fBlack := 1300, fWhite := 2100, hBlack := 1538, hWhite := 952, hStart := 1176
    hStop := 1818 }
theorem witness_DrumFaults_band_lost :
    let s := { withD { turning .bandWarning 40 with outOfBandRun := 3, lossDue := true } with line := sendingLine }
    s.awake = true ∧ s.line.state.sending = true ∧ s.drum.state = .bandWarning ∧
      s.drum.lossDue = true := by decide
theorem witness_DrumFaults_slip :
    let s := { slipping with line := sendingLine }
    s.awake = true ∧ s.line.state.sending = true ∧ s.drum.slipDue = true ∧
      s.profile.drum.slipPolicy ≠ .report := by decide
theorem witness_DrumFaults_overcurrent :
    let s := { tripping with line := sendingLine }
    s.profile.drum.overcurrentPolicy ≠ .report ∧ s.drum.overcurrentDue = true := by decide
theorem witness_DrumFaults_stall :
    let s := { stalling with line := sendingLine }
    s.profile.drum.stallPolicy ≠ .report ∧
      s.drum.stallTimer = some 9750000 ∧ 9750000 + 1000 * s.profile.drum.stallMs ≤ s.now := by decide
/-- The policy REPORT, and the spin-up timer that runs out while a turn is sent. -/
theorem witness_DrumFaults_report :
    let d := { tooSlow.profile.drum with stallPolicy := .report }
    let s := { tooSlow with line := sendingLine, profile := { tooSlow.profile with drum := d } }
    s.awake = true ∧ s.line.state.sending = true ∧ s.profile.drum.stallPolicy = .report ∧
      s.drum.spinUp = some 0 ∧ 0 + 1000000 * s.profile.drum.spinupS ≤ s.now := by decide
theorem test_band_lost_ends_the_attempt :
    after .bandLost { withD { turning .bandWarning 40 with outOfBandRun := 3, lossDue := true } with line := sendingLine }
      (fun t => t.record.outcome == some .drumFault && t.record.detail == .bandLost && t.line.state == .stopTone)
      = true := by decide
/-- R17, two faults of the same moment: the second finds the drum LATCHED and is counted and flagged. -/
theorem test_second_fault_of_a_moment :
    after .slipDetected
      (withD { turning .latched 40 with slipDue := true })
      (fun t => t.drum.slipEvents == 1 && t.drum.flagSlip && t.drum.state == .latched && !t.drum.slipDue) = true := by
  decide

/-! ## The Carriage Drive -/

def homing (n : Nat) : Carriage :=
  { Carriage.reset with state := .homing, target := some 100, homingSteps := n, nextStep := some 10000000 }
def positioning (p q : Nat) : Carriage :=
  { Carriage.reset with
    state := .positioning, homed := true, position := p, target := some q, nextStep := some 10000000 }
def tracking (n : Nat) : Carriage :=
  { Carriage.reset with
    state := .tracking, homed := true, position := 100, target := some 100, pitch := some 4, stepsDue := n
    nextStep := some 10000000 }

theorem witness_HomingStep :
    let s := withC (homing 4199)
    s.awake = true ∧ s.carriage.state = .homing ∧ s.carriage.nextStep = some 10000000 ∧ 10000000 ≤ s.now ∧
      s.carriage.home = false ∧ s.carriage.homingSteps < 4200 := by decide
theorem witness_HomingEnds :
    let s := withC { homing 4200 with home := true }
    s.carriage.home = true ∧ s.carriage.limit = false ∧ s.carriage.target = some 100 ∧ 0 < 100 := by decide
theorem witness_HomingArrives :
    let s := withC { homing 0 with home := true, target := some 0 }
    s.carriage.home = true ∧ s.carriage.target = some 0 ∧ s.scan.state ≠ .frameDone := by decide
theorem witness_HomingFault :
    let s := withC (homing 4200)
    s.awake = true ∧ s.carriage.home = false ∧ 4200 ≤ s.carriage.homingSteps ∧ s.jobs.state.running = false := by
  decide
theorem witness_HomingEndsAtLimit :
    let s := withC { homing 4200 with home := true, limit := true }
    s.carriage.home = true ∧ s.carriage.limit = true ∧ s.carriage.target = some 100 ∧ 0 < 100 ∧
      s.jobs.state.running = false := by decide
theorem test_homing_step :
    after .homingStep (withC (homing 0))
      (fun t => t.carriage.homingSteps == 1 && t.carriage.nextStep == some 10002500) = true := by decide
/-- The end of homing. -/
theorem test_homing_ends :
      (after .homingStep (withC { homing 7 with home := true })
      (fun t => t.carriage.state == .positioning && t.carriage.position == 1 && t.carriage.homed) = true) ∧
      -- R26: DIR is set toward the target at the entry, also where LIMIT then faults the carriage.
      (after .homingStep (withC { homing 7 with home := true, limit := true })
      (fun t => t.carriage.state == .fault && t.carriage.dirAway) = true) := by decide
theorem test_homing_fault :
    after .homingFault (withC (homing 4200)) (fun t => t.carriage.state == .fault) = true := by decide

theorem witness_PositionStepAway :
    let s := withC (positioning 100 101)
    s.awake = true ∧ s.carriage.state = .positioning ∧ s.carriage.nextStep = some 10000000 ∧ 10000000 ≤ s.now ∧
      s.carriage.target = some 101 ∧ s.carriage.position < 101 ∧ s.carriage.limit = false ∧
      (s.carriage.home = true → s.carriage.position = 0) := by decide
theorem witness_PositionStepHome :
    let s := withC (positioning 100 99)
    s.carriage.target = some 99 ∧ 99 < s.carriage.position ∧ s.carriage.home = false := by decide
theorem witness_PositionFaultAtHome :
    let s := withC { positioning 1 0 with home := true }
    s.carriage.target = some 0 ∧ s.carriage.position ≠ 0 ∧ s.jobs.state.running = false ∧
      s.carriage.home = true ∧ 0 < s.carriage.position := by decide
theorem witness_PositionFaultAtLimit :
    let s := withC { positioning 100 101 with limit := true }
    s.carriage.target = some 101 ∧ s.carriage.position ≠ 101 ∧ s.jobs.state.running = false ∧
      s.carriage.limit = true ∧ s.carriage.position < 101 := by decide
theorem witness_Arrival :
    let s := withC (positioning 100 100)
    s.awake = true ∧ s.carriage.target = some 100 ∧ s.carriage.position = 100 := by decide
theorem test_position_step :
    after .positionStep (withC (positioning 100 99))
      (fun t => t.carriage.position == 99 && !t.carriage.dirAway) = true := by decide
theorem test_arrival :
    after .arrival (withC (positioning 100 100)) (fun t => t.carriage.state == .atFrame) = true := by decide

theorem witness_LimitFaults :
    let s := withC { positioning 100 101 with dirAway := true }
    s.awake = true ∧ s.jobs.state.running = false ∧ s.carriage.limit = false ∧
      s.carriage.state = .positioning ∧ s.carriage.dirAway = true := by decide
theorem witness_LimitEndsTracking :
    let s := withC (tracking 1)
    s.carriage.limit = false ∧ s.carriage.state = .tracking ∧ s.scan.state ≠ .scanning := by decide
theorem witness_LimitElsewhere :
    let s := withC { positioning 100 99 with dirAway := false }
    s.carriage.limit = false ∧ s.carriage.state ≠ .tracking ∧
      (s.carriage.state = .positioning → s.carriage.dirAway = false) := by decide
theorem witness_HomeFaults :
    let s := withC (positioning 1 0)
    s.carriage.home = false ∧ s.carriage.state = .positioning ∧ 0 < s.carriage.position := by decide
theorem witness_HomeElsewhere :
    let s := withC (homing 10)
    s.carriage.home = false ∧ (s.carriage.state = .positioning → s.carriage.position = 0) := by decide
theorem witness_LimitEndsTracking_in_a_line :
    let s := { withC (tracking 1) with
      scan := { Scan.reset with
        state := .scanning
        line := some { slot := 2, line := 3, positions := 0, sampled := false, headerWritten := 0 } } }
    s.awake = true ∧ s.carriage.limit = false ∧ s.carriage.state = .tracking ∧ s.scan.state = .scanning := by decide
theorem test_limit_asserted :
    after .limitAsserted (withC { positioning 100 101 with dirAway := true })
      (fun t => t.carriage.state == .fault && t.carriage.limit) = true := by decide
theorem test_home_asserted :
    after .homeAsserted (withC (homing 10)) (fun t => t.carriage.state == .homing && t.carriage.home) = true := by
  decide

theorem witness_TrackStep :
    let s := withC (tracking 1)
    s.awake = true ∧ s.carriage.state = .tracking ∧ s.carriage.nextStep = some 10000000 ∧ 10000000 ≤ s.now ∧
      s.carriage.stepsDue = 0 + 1 ∧ s.carriage.limit = false := by decide
theorem witness_TrackStepAtLimit :
    let s := withC { tracking 1 with limit := true }
    s.awake = true ∧ s.carriage.stepsDue = 0 + 1 ∧ s.carriage.limit = true := by decide
theorem test_track_step :
    after .trackStep (withC (tracking 3))
      (fun t => t.carriage.position == 101 && t.carriage.stepsDue == 2 && t.carriage.nextStep == some 10002000)
      = true := by decide

/-- A job of one frame to one destination, waiting for its retry. -/
def oneMember : Member :=
  { addr := 0x10000, caption := 42, start := 100, count := 10, pitch := 4, bank := 0, bypassTone := false
    testWedge := false, black := 100, white := 900 }
def oneJob : Job :=
  { members := [oneMember], speed := .rpm120, k := 4, phasing := 15, delay := 2, window := 2, retryLimit := 2
    retryInterval := 60, urgent := false, destinations := [1] }
def emptyEntry : FrameEntry := { firstSent := 0, short := 0, sig := 1, check := .notCompared, ended := false }
def oneDest (p : Progress) : Dest :=
  { dirIndex := 1, progress := p, attempts := 1, lastOutcome := some .noAnswer, lastDetail := .none
    frames := [emptyEntry], served := 0, refused := 0, final := none, cause := none }
def jobIn (st : JobState) (p : Progress) : Jobs :=
  { Jobs.reset with
    state := st, current := some oneJob, mount := .fresh, progress := [oneDest p], scanSigs := [1] }
def waitingJob : Jobs := { jobIn .retryWait .retryWait with retryList := [(0, 100)] }

theorem witness_CarriageFault_homing :
    let s := { withC (homing 4200) with jobs := waitingJob }
    s.awake = true ∧ s.jobs.state.running = true ∧ s.carriage.state = .homing ∧
      s.carriage.nextStep = some 10000000 ∧ 10000000 ≤ s.now ∧ s.carriage.home = false ∧
      4200 ≤ s.carriage.homingSteps := by decide
theorem witness_CarriageFault_limit :
    let s := { withC { positioning 100 101 with dirAway := true } with jobs := waitingJob }
    s.awake = true ∧ s.jobs.state.running = true ∧ s.jobs.attemptInProgress = false ∧ s.carriage.limit = false ∧ s.carriage.state = .positioning ∧
      s.carriage.dirAway = true := by decide
theorem witness_CarriageFault_step :
    let s := { withC { positioning 1 0 with home := true } with jobs := waitingJob }
    s.awake = true ∧ s.jobs.state.running = true ∧ s.jobs.attemptInProgress = false ∧
      s.carriage.state = .positioning ∧ s.carriage.nextStep = some 10000000 ∧ 10000000 ≤ s.now ∧
      s.carriage.target = some 0 ∧ s.carriage.position ≠ 0 ∧ s.carriage.home = true ∧ 0 < s.carriage.position := by decide
theorem witness_CarriageFault_home :
    let s := { withC (positioning 1 0) with jobs := waitingJob }
    s.awake = true ∧ s.jobs.state.running = true ∧ s.carriage.home = false ∧ s.carriage.state = .positioning ∧
      0 < s.carriage.position := by decide
theorem test_carriage_fault_ends_the_job :
    after .homingFault { withC (homing 4200) with jobs := waitingJob }
      (fun t => t.jobs.state == .finishing && t.jobs.endCause == some .carriageFault) = true := by decide

/-! ## The Scan Unit and the tone path -/

def oneFrame : Frame :=
  { start := 100, count := 10, pitch := 4, k := 4, bank := 0, bypassTone := false, testWedge := false, black := 100
    white := 900 }
def lineOf (n positions headers : Nat) : LineInProgress :=
  { slot := 2, line := n, positions := positions, sampled := false, headerWritten := headers }
def scanning (l : LineInProgress) : Scan :=
  { Scan.reset with
    state := .scanning, lamp := true, frames := [oneFrame], nextLine := l.line + 1, line := some l
    lastPair := some (100, 900), pair := some (100, 900) }
/-- In interval n of a scanned turn, 1,000 µs after its tach event, of a length of 1,000 µs. -/
def scanTurn (n : Nat) (l : LineInProgress) : State :=
  { live with
    drum := { turning .inBand n with lastTach := some 9999000, lenLast := 1000 }
    scan := scanning l
    ring := { live.ring with slots := live.ring.slots.set 2 { state := .filling, frame := 0, line := l.line } } }

theorem witness_WarmUp :
    let s := { live with scan := { Scan.reset with state := .warming, warm := some 10000000 } }
    s.inReset = false ∧ s.scan.state = .warming ∧ s.scan.warm = some 10000000 ∧ 10000000 ≤ s.now := by decide
theorem witness_BlackReference :
    let s := scanTurn 2 (lineOf 3 0 0)
    s.scan.state = .scanning ∧ s.scan.line = some (lineOf 3 0 0) ∧ (lineOf 3 0 0).sampled = false ∧
      s.drum.interval = some 2 ∧ s.scan.refTaken = false ∧ s.drum.lastTach = some 9999000 ∧
      9999000 + s.drum.lenLast / 2 ≤ s.now ∧ 2 ≤ 2 ∧ 2 ≤ 5 := by decide
theorem witness_WhiteReference :
    let s := scanTurn 11 (lineOf 3 0 0)
    s.drum.interval = some 11 ∧ s.scan.refTaken = false ∧ 9999000 + s.drum.lenLast / 2 ≤ s.now ∧ 8 ≤ 11 ∧
      11 ≤ 11 := by decide
theorem test_warm_up :
    after .warmUpExpiry { live with scan := { Scan.reset with state := .warming, warm := some 10000000 } }
      (fun t => t.scan.state == .ready) = true := by decide
theorem test_black_reference :
    after (.referenceSample 111) (scanTurn 5 (lineOf 3 0 0)) (fun t => t.scan.blackRefs == [111]) = true := by decide
theorem test_no_reference_between_the_patches :
    after (.referenceSample 111) (scanTurn 6 (lineOf 3 0 0))
      (fun t => t.scan.blackRefs == [] && t.scan.whiteRefs == []) = true := by decide

def fullFifo : List FifoEntry :=
  (List.range 16).map fun i => { word := i, closed := true, access := { addr := 0x100 + 4 * i, be := 15, data := 0 } }
/-- A reading of 500 between 100 and 900: L = 32 (half of 63, rounded half up), and Y = 130 by the straight curve. -/
theorem witness_SlotEvents :
    let s := scanTurn 16 (lineOf 3 0 0)
    s.inReset = false ∧ s.drum.interval = some 16 ∧ 16 ≤ 16 ∧ s.slotsPerInterval = some 4 ∧
      s.line.slotsFallen = 0 ∧ 0 < 4 ∧ s.drum.lastTach = some 9999000 ∧ 9999000 + 0 * s.drum.lenLast / 4 ≤ s.now ∧
      0 = (16 - 16) * 4 + 0 ∧ 130 = lineLevelOf s.profile oneFrame 100 900 0 (500 : Sample).toNat := by decide
theorem witness_SlotEvents_not_due :
    let s := { scanTurn 16 (lineOf 3 0 0) with line := { Line.reset with slotsFallen := 4 } }
    s.inReset = false ∧ s.slotsPerInterval = some 4 ∧ ¬ s.line.slotsFallen < 4 := by decide
theorem witness_SlotEvents_early :
    let s := { scanTurn 16 (lineOf 3 0 0) with line := { Line.reset with slotsFallen := 1 }, crystal := 39996996 }
    s.drum.lastTach = some 9999000 ∧ s.now < 9999000 + s.line.slotsFallen * s.drum.lenLast / 4 := by decide
theorem witness_SlotEvents_overrun :
    let s := { scanTurn 32 (lineOf 3 64 0) with scan := { scanning (lineOf 3 64 0) with fifo := fullFifo } }
    s.drum.interval = some 32 ∧ 64 = (32 - 16) * 4 + 0 ∧ 16 ≤ s.scan.fifo.length ∧
      (∀ e ∈ s.scan.fifo, e.word ≠ 64 / 4) := by decide
/-- The Scan Unit takes a slot event. -/
theorem test_slot_event_scans :
      (after (.slotEvent 500) (scanTurn 16 (lineOf 3 0 0))
      (fun t => t.scan.fifo.map (fun e => (e.word, e.access.be, e.access.data)) == [(0, 1, 130)]
        && t.line.slotsFallen == 1) = true) ∧
      (after (.slotEvent 500)
      { scanTurn 32 (lineOf 3 64 0) with scan := { scanning (lineOf 3 64 0) with fifo := fullFifo } }
      (fun t => t.scan.overruns == 1 && t.scan.header.overrun) = true) := by decide

def oneCall : CallInfo :=
  { dial := [.digit 2, .pause, .digit 0], frames := [oneFrame], k := 4, phasing := 15, delay := 2, window := 2 }
/-- Sending slot 1 in interval n of a picture turn. -/
def sendTurn (n : Nat) (buffer : List (Nat × Word)) : State :=
  { live with
    drum := { turning .inBand n with lastTach := some 9999000, lenLast := 1000 }
    line := { sendingLine with call := some oneCall }
    ring :=
      { live.ring with
        slots := live.ring.slots.set 1 { state := .sending, frame := 0, line := 0 }
        picked := some 1, firstSend := true, buffer := buffer } }
theorem witness_SlotEvents_sent :
    let s := sendTurn 16 [(0, 0x000000FF), (1, 0)]
    s.inReset = false ∧ s.scan.state ≠ .scanning ∧ s.slotsPerInterval = some 4 ∧ s.line.slotsFallen = 0 ∧
      s.line.state = .picture ∧ s.ring.picked ≠ none ∧
      some 255 =
        (s.ring.buffer.find? fun e => decide (e.1 = 0 / 4)).map (fun e => (byteOf e.2 (0 % 4)).toNat) := by decide
/-- A turn both scanned and sent. -/
def bothTurn : State :=
  { scanTurn 16 (lineOf 3 0 0) with
    line := (sendTurn 16 []).line, ring := (sendTurn 16 [(0, 0x000000FF)]).ring }
theorem witness_SlotEvents_both :
    bothTurn.scan.state = .scanning ∧ bothTurn.line.state = .picture ∧ bothTurn.slotsPerInterval = some 4 := by decide

/-- The sender takes a slot event. -/
theorem test_slot_event_sends :
      -- R51: level 255 is white, 2,100 Hz: floor(2,000,000 / 2,100 + 1/2) = 952 counts.
      (after (.slotEvent 0) (sendTurn 16 [(0, 0x000000FF), (1, 0)])
      (fun t => t.line.carrier.half == 952 && t.line.lastLevel == 255 && t.ring.starves == 0) = true) ∧
      (after (.slotEvent 0) (sendTurn 255 []) (fun t => t.ring.starves == 1 && t.record.starves == 1) = true) ∧
      -- One slot event has both effects (R22).
      (after (.slotEvent 500) bothTurn
      (fun t => t.scan.fifo.map (·.access.data) == [130] && t.line.carrier.half == 952) = true) := by decide

/-! ### The INDEX -/

theorem witness_TachEventsInFull_slots :
    let s := sendTurn 16 [(0, 0x000000FF)]
    s.awake = true ∧ s.drum.synced = true ∧ s.drum.interval = some 16 ∧ s.drum.lastTach = some 9999000 ∧
      16 ≤ 16 ∧ s.slotsPerInterval = some 4 ∧ live.slotsPerInterval = none := by decide
theorem witness_TachEventsInFull_phasing :
    let s := { withD (turning .inBand 7) with line := { sendingLine with state := .phasing, call := some oneCall } }
    s.awake = true ∧ s.drum.interval = some 7 ∧ s.line.state = .phasing ∧
      false = decide (s.drum.indexArmed = true ∨ 7 = 255) := by decide
/-- What the end of an interval does. -/
theorem test_tach_event_consequences :
      -- R22: the four slot events of the interval that have not fallen yet fall first.
      (after (.tachEvent cells0 true) (sendTurn 16 [(0, 0x000000FF)])
      (fun t => t.ring.starves == 0 && t.line.slotsFallen == 0 && t.drum.interval == some 17) = true) ∧
      -- R44: four black and four white samples make the pair at the end of interval 11.
      (after (.tachEvent cells0 true)
      { scanTurn 11 (lineOf 3 0 0) with
        scan :=
          { scanning (lineOf 3 0 0) with
            pair := none, refTaken := true, blackRefs := [100, 104, 100, 99], whiteRefs := [900, 901, 903, 904] } }
      (fun t => t.scan.pair == some (100, 902) && t.scan.holds == 0) = true) ∧
      -- At the INDEX line 4 is begun in the slot at the write index, and the carriage steps (R28, R34, R61).
      (after (.tachEvent cells0 true)
      { live with
        drum := { turning .inBand 255 with indexArmed := true }
        carriage := tracking 0
        scan := { scanning (lineOf 3 960 0) with line := none, nextLine := 4 } }
      (fun t => t.scan.line.map (fun l => (l.slot, l.line)) == some (0, 4)
        && (t.ring.slot 0).state == .filling && t.carriage.position == 101 && t.carriage.stepsDue == 3) = true) ∧
      -- R34: with no slot FREE or SENT the turn is a stall.
      (after (.tachEvent cells0 true)
      { live with
        drum := { turning .inBand 255 with indexArmed := true }
        carriage := tracking 0
        scan := { scanning (lineOf 3 960 0) with line := none, nextLine := 4 }
        ring := { live.ring with slots := List.replicate 8 { state := .filled, frame := 0, line := 0 } } }
      (fun t => t.scan.stalls == 1 && t.scan.line == none && t.carriage.position == 100) = true) ∧
      -- R38, R39: LIMIT at the advance of the INDEX ends the frame, the line just begun being given back (R62).
      (after (.tachEvent cells0 true)
      { live with
        drum := { turning .inBand 255 with indexArmed := true }
        carriage := { tracking 0 with limit := true }
        scan := { scanning (lineOf 3 960 0) with line := none, nextLine := 4, linesDone := 4 } }
      (fun t => t.scan.state == .frameDone && (t.ring.slot 0).state == .free && t.ring.writeIndex == 0
        && t.carriage.state == .atFrame) = true) ∧
      -- R63 to R66: the turn just ended leaves its slot SENT, and the next line is picked.
      (after (.tachEvent cells0 false)
      { sendTurn 255 [] with
        record := { AttemptRecord.empty with frames := [emptyEntry] }
        ring :=
          { (sendTurn 255 []).ring with
            slots :=
              (sendTurn 255 []).ring.slots.set 2 { state := .filled, frame := 0, line := 1 } } }
      (fun t => (t.ring.slot 1).state == .sent && (t.ring.slot 2).state == .sending && t.ring.picked == some 2
        && t.ring.sendLine == 1 && t.record.frames.map (·.firstSent) == [1]) = true) := by decide

def oneWord : Access := { addr := 0x2B74, be := 3, data := 0x44332211 }
def oneEntry : FifoEntry := { word := 1, closed := true, access := oneWord }
def scanPort (headers n : Nat) (p : PortWord) : State :=
  { scanTurn 200 (lineOf n 960 headers) with
    scan := { scanning (lineOf n 960 headers) with fifo := [oneEntry] }
    gate := { Gate.reset with port := some p } }
theorem witness_ScanEntryWritten :
    let s := scanPort 0 3 (.scanEntry oneWord true)
    s.awake = true ∧ s.gate.port = some (.scanEntry oneWord true) ∧ s.scan.fifo = oneEntry :: [] := by decide
theorem witness_ScanHeaderWritten :
    let s := scanPort 2 3 (.scanHeader oneWord true)
    s.awake = true ∧ s.gate.port = some (.scanHeader oneWord true) ∧ s.scan.line = some (lineOf 3 960 2) ∧
      (lineOf 3 960 2).headerWritten < 3 := by decide
theorem witness_LineComplete :
    let s := scanPort 3 3 (.scanHeader oneWord true)
    s.scan.line = some (lineOf 3 960 3) ∧ (lineOf 3 960 3).headerWritten = 3 ∧
      s.scan.frames[s.scan.current]? = some oneFrame ∧ (lineOf 3 960 3).line + 1 ≠ oneFrame.count ∧
      s.scan.truncating = false ∧ (s.ring.slot (lineOf 3 960 3).slot).state = .filling := by decide
/-- A closed entry asks for the port, and with none left the header of a sampled line does. -/
theorem witness_ScanRequest :
    let l := { lineOf 3 0 2 with sampled := true }
    let s := scanTurn 250 l
    s.layout.inForce = some lay ∧ s.scan.fifo = [] ∧ s.scan.line = some l ∧ l.sampled = true ∧ l.headerWritten < 4 ∧
      s.scanRequest =
        some (.scanHeader { addr := 0x2000 + 1456 * 2 + 8, be := 15, data := s.scan.header.word 2 } true) := by
  decide
theorem witness_DroppedLinesWord :
    (scanPort 0 3 (.scanEntry oneWord false)).gate.port = some (.scanEntry oneWord false) := by decide
/-- R36: only bytes 0 and 1 are enabled. -/
theorem test_scan_word_written :
    after .scanWordWritten (scanPort 0 3 (.scanEntry oneWord true))
      (fun t => t.scan.fifo == [] && t.mem.word 0x2B74 == 0x00002211) = true := by decide
theorem witness_TheLastLineEndsTheFrame :
    let s := scanPort 3 9 (.scanHeader oneWord true)
    s.awake = true ∧ s.gate.port = some (.scanHeader oneWord true) ∧ s.scan.line = some (lineOf 9 960 3) ∧
      (lineOf 9 960 3).headerWritten = 3 ∧ s.scan.frames[s.scan.current]? = some oneFrame ∧
      (lineOf 9 960 3).line + 1 = oneFrame.count ∧ s.jobs.attemptInProgress = false := by decide
theorem witness_TheLastLineEndsTheFrame_truncated :
    let s := { scanPort 3 4 (.scanHeader oneWord true) with
      scan := { (scanPort 3 4 (.scanHeader oneWord true)).scan with truncating := true } }
    s.awake = true ∧ s.scan.line = some (lineOf 4 960 3) ∧ s.scan.truncating = true := by decide
theorem witness_TheLastLineEndsTheFrame_in_a_call :
    let s := { scanPort 3 9 (.scanHeader oneWord true) with
      line := sendingLine, jobs := { jobIn .attempting .attempting with attemptInProgress := true } }
    s.awake = true ∧ s.line.active = true ∧ s.jobs.current = some oneJob ∧
      oneJob.members.length ≤ s.scan.current + 1 := by decide

/-- The fourth header word. -/
theorem test_line_complete :
      (after .scanWordWritten (scanPort 3 3 (.scanHeader oneWord true))
      (fun t => (t.ring.slot 2).state == .filled && t.scan.line == none && t.scan.linesDone == 1) = true) ∧
      -- R38, R126: FRAME_DONE with the lines and the signature noted.
      (after .scanWordWritten
      { scanPort 3 9 (.scanHeader oneWord true) with
        line := sendingLine, jobs := { jobIn .attempting .attempting with attemptInProgress := true } }
      (fun t => t.scan.state == .frameDone && t.ring.frameDone == [{ frame := 0, linesScanned := 1, sig := 1 }]
        && t.jobs.scanSigs == [1]) = true) := by decide

theorem witness_Prefetch_live :
    let s := { sendTurn 16 [] with gate := { Gate.reset with port := some (.prefetch 0x25C0 0 true) } }
    s.inReset = false ∧ s.gate.port = some (.prefetch 0x25C0 0 true) := by decide
theorem witness_Prefetch_left :
    let s := { live with gate := { Gate.reset with port := some (.prefetch 0x25C0 363 false) } }
    s.inReset = false ∧ s.gate.port = some (.prefetch 0x25C0 363 false) := by decide
theorem test_prefetch :
    after .prefetchWordArrived { sendTurn 16 [] with gate := { Gate.reset with port := some (.prefetch 0x25C0 0 true) } }
      (fun t => t.ring.buffer == [(0, 0)] && t.ring.fetch == 1) = true := by decide

/-- The straight curve of R48 at L = 49 and 32, as R48's text gives it. -/
theorem witness_BypassTone :
    let f : Frame := { oneFrame with bypassTone := true }
    f.bypassTone = true ∧ f.testWedge = false ∧ levelIndex 720 100 900 = 49 ∧
      lineLevel Profile.default f (100, 900) 0 720 = 198 ∧ levelIndex 500 100 900 = 32 ∧
      lineLevel Profile.default f (100, 900) 0 500 = 130 := by decide
theorem witness_LevelIndex : 100 + 64 ≤ 164 ∧ levelIndex 100 100 164 = 0 ∧ levelIndex 164 100 164 = 63 := by decide
theorem witness_Wedge :
    let f : Frame := { oneFrame with testWedge := true, k := 6 }
    f.testWedge = true ∧ 2 ≤ f.k ∧ f.k ≤ 6 ∧ 1439 < 240 * f.k ∧
      lineLevel Profile.default f (0, 0) 1439 0 = 255 := by decide
theorem witness_HalfPeriods :
    400 ≤ 400 ∧ 400 + 200 ≤ 3000 ∧ 3000 ≤ 3000 ∧ 255 ≤ 255 ∧ pictureHalf 400 3000 0 = 5000 ∧
      pictureHalf 400 3000 255 = 667 := by decide
/-- The worked table of R56 (03, Signatures): the levels 255 and 0 leave 13DEh. -/
theorem test_signature : [255, 0].foldl sigFeed 1 = 0x13DE := by decide +kernel
theorem witness_OneWrongLevel :
    0 < 256 ∧ 12 < 256 ∧ 0 ≠ 12 ∧ [255, 0].foldl sigFeed 1 ≠ [255, 12].foldl sigFeed 1 := by decide +kernel

/-! ## The Line Unit and the Line Ring -/

def lineIn (st : LineState) : Line := { sendingLine with state := st, call := some oneCall }
def lineS (st : LineState) : State := withL (lineIn st)

def toning : State :=
  withL
    { lineIn .picture with
      carrier := { mode := .tone, level := true, half := 952, since := 39999048, pending := some 1538 } }
theorem witness_CarrierToggles :
    toning.inReset = false ∧ toning.line.relay = true ∧ toning.line.carrier.mode = .tone ∧
      toning.line.carrier.since + toning.line.carrier.half ≤ toning.crystal := by decide
theorem test_carrier_toggle :
    after .carrierToggle toning
      (fun t => !t.line.carrier.level && t.line.carrier.half == 1538 && t.line.carrier.since == 40000000
        && t.line.carrier.pending == none) = true := by decide

def dialing (phase : DialPhase) (left cursor : Nat) : State :=
  withL
    { lineIn .dialing with
      dialPhase := some phase, breaksLeft := left, dialCursor := cursor, dialTimer := some 9999999 }
theorem witness_Dialing_begins :
    let s := withL { lineIn .seizeWait with seizeTimer := some 10000000 }
    s.inReset = false ∧ 10000000 ≤ s.now ∧ s.line.snapshot = some .default ∧ s.line.call = some oneCall ∧
      s.line.state = .seizeWait ∧ s.line.seizeTimer = some 10000000 ∧
      oneCall.dial = .digit 2 :: [.pause, .digit 0] := by decide
theorem witness_Dialing_break :
    let s := dialing .brk 0 0
    9999999 ≤ s.now ∧ s.line.snapshot = some .default ∧ s.line.call = some oneCall ∧ s.line.state = .dialing ∧
      s.line.dialTimer = some 9999999 ∧ s.line.dialPhase = some .brk ∧ s.line.breaksLeft = 0 := by decide
theorem witness_Dialing_make_break :
    let s := dialing .mk 1 0
    s.line.state = .dialing ∧ s.line.dialTimer = some 9999999 ∧ s.line.dialPhase = some .mk ∧
      s.line.breaksLeft = 0 + 1 := by decide
theorem witness_Dialing_make_pause :
    let s := dialing .mk 0 0
    s.line.dialPhase = some .mk ∧ s.line.breaksLeft = 0 ∧ oneCall.dial[s.line.dialCursor + 1]? = some .pause := by
  decide
theorem witness_Dialing_make_answer :
    let s := dialing .mk 0 2
    s.line.dialPhase = some .mk ∧ s.line.breaksLeft = 0 ∧ oneCall.dial[s.line.dialCursor + 1]? = none := by decide
theorem test_seize_wait :
    after .seizeWaitExpiry (withL { lineIn .seizeWait with seizeTimer := some 10000000 })
      (fun t => t.line.state == .dialing && t.line.dialPhase == some .brk && t.line.breaksLeft == 1
        && t.line.dialTimer == some 10060000) = true := by decide
theorem test_dial_break_end :
    after .dialBreakEnd (dialing .brk 0 0)
      (fun t => t.line.dialPhase == some .mk && t.line.dialTimer == some 10699999) = true := by decide
theorem test_dial_make_end_digit_zero :
    after .dialMakeEnd (dialing .mk 0 1)
      (fun t => t.line.dialPhase == some .brk && t.line.breaksLeft == 9) = true := by decide
theorem test_dial_make_end_answer :
    after .dialMakeEnd (dialing .mk 0 2)
      (fun t => t.line.state == .answerWait && t.line.answerTimer == some 54999999) = true := by decide

theorem witness_LoopWatch_change :
    let s := lineS .picture
    s.awake = true ∧ s.line.loop ≠ false ∧ s.line.relay = true ∧ s.line.dialPhase ≠ some .brk := by decide
theorem witness_LoopWatch_open : live.line.loop ≠ true ∧ live.line.relay = false := by decide
def lost (st : LineState) : State := withL { lineIn st with loop := false, loopTimer := some 9600000 }
theorem witness_LoopLoss_stop_tone :
    (lost .stopTone).awake = true ∧ (lost .stopTone).line.relay = true ∧
      (lost .stopTone).line.loopTimer = some 9600000 ∧
      9600000 + 1000 * (lost .stopTone).line.snap.loopLoss ≤ (lost .stopTone).now ∧
      (lost .stopTone).line.state = .stopTone := by decide
theorem witness_LoopLoss_attempt :
    (lost .answerWait).line.loopTimer = some 9600000 ∧
      (lost .answerWait).line.state ∈
        [LineState.seizeWait, .dialing, .answerWait, .startTone, .readyWait, .phasing, .picture, .separator] := by
  decide
theorem test_loop_change :
    after (.loopChange false) (lineS .picture)
      (fun t => !t.line.loop && t.line.loopTimer == some 10000000) = true := by decide
theorem test_loop_loss :
    after .loopLoss (lost .answerWait)
      (fun t => t.record.outcome == some .lineLost && t.line.state == .releaseGuard && !t.line.relay) = true := by
  decide

def window : State :=
  withL { lineIn .answerWait with monitor := { windowEnd := some 10000000, band := some .ready, count := 2
                                               recognised := false } }
theorem witness_ToneWindows :
    window.inReset = false ∧ window.line.relay = true ∧ window.line.monitor.windowEnd = some 10000000 ∧
      10000000 ≤ window.now ∧ some Tone.ready = (if 80 ≤ 80 ∧ 80 ≤ 88 then some Tone.ready else none) ∧
      3 = (if window.line.monitor.band = some .ready then window.line.monitor.count + 1 else 1) ∧
      false = (decide (window.line.monitor.band = some .ready) && window.line.monitor.recognised) ∧
      window.line.snap.windows ≤ 3 := by decide
theorem witness_ToneWindows_used :
    let s := withL { lineIn .answerWait with monitor := { windowEnd := some 10000000, band := some .ready, count := 3
                                                          recognised := true } }
    s.line.monitor.windowEnd = some 10000000 ∧ s.line.monitor.recognised = true := by decide
/-- R83: the bands are 80 to 88, 64 to 72, 48 to 56 and 32 to 40 crossings. -/
theorem test_tone_window_in_band :
    after (.toneWindowEnd 88) window
      (fun t => t.line.monitor.band == some .ready && t.line.monitor.count == 3 && t.line.monitor.recognised
        && t.line.toneDue == some .ready) = true := by decide
theorem test_tone_window_between_bands :
    after (.toneWindowEnd 79) window (fun t => t.line.monitor.band == none && t.line.monitor.count == 0) = true := by
  decide

/-- A tone has just been recognised. -/
def heard (st : LineState) (tone : Tone) : State :=
  withL
    { lineIn st with
      toneDue := some tone
      monitor := { windowEnd := some 10040000, band := some tone, count := 3, recognised := true } }
theorem witness_ToneRecognitions_ready :
    let s := heard .answerWait .ready
    s.awake = true ∧ s.line.toneDue = some .ready ∧ s.line.state = .answerWait := by decide
theorem witness_ToneRecognitions_not_ready :
    let s := heard .answerWait .notReady
    s.awake = true ∧ s.line.toneDue = some .notReady ∧ s.line.state = .answerWait := by decide
theorem witness_ToneRecognitions_halt :
    let s := heard .separator .halt
    s.awake = true ∧ s.line.toneDue = some .halt ∧ s.line.state = .separator := by decide
/-- The release of the line has overtaken the recognition (R85). -/
def heardTooLate : State :=
  withL { Line.reset with state := .releaseGuard, guardTimer := some 11500000, toneDue := some .halt }
theorem witness_ToneRecognitions_shown :
    heardTooLate.awake = true ∧ heardTooLate.line.toneDue = some .halt ∧
      heardTooLate.line.state ∈
        [LineState.onHook, .seizeWait, .dialing, .startTone, .readyWait, .stopTone, .releaseGuard] := by decide
/-- A tone taken in ANSWER_WAIT, in SEPARATOR and in RELEASE_GUARD (R84, R85, R91). -/
theorem test_tone_recognised :
      (after .toneRecognised (heard .answerWait .ready)
      (fun t => t.line.state == .startTone && t.record.answered && t.line.startToneTimer == some 13000000)
      = true) ∧
      -- HALT ends the attempt; a recognition that finds RELEASE_GUARD is shown (R84, R85).
      (after .toneRecognised (heard .separator .halt)
      (fun t => t.record.outcome == some .halted && t.line.state == .releaseGuard) = true ∧
    after .toneRecognised heardTooLate
      (fun t => t.line.lastTone == some (.halt, .releaseGuard) && t.line.toneDue == none
        && t.line.state == .releaseGuard) = true) := by decide

/-- PICTURE with lines 0 and 1 first sent and line 1 still in the ring. -/
def asked (grants : Nat) (slots : List RingSlot) : State :=
  { heard .picture .repeatLines with
    line := { (heard .picture .repeatLines).line with grantsUsed := grants }
    record := { AttemptRecord.empty with frames := [{ emptyEntry with firstSent := 2 }] }
    ring := { live.ring with slots := slots, sendLine := 2 } }
def twoSent : List RingSlot :=
  [{ state := .sent, frame := 0, line := 0 }, { state := .sent, frame := 0, line := 1 },
    { state := .free, frame := 0, line := 0 }, { state := .free, frame := 0, line := 0 }]
theorem witness_RepeatDecisions :
    let s := asked 0 twoSent
    s.awake = true ∧ s.line.toneDue = some .repeatLines ∧ s.line.state = .picture ∧
      s.line.call = some oneCall ∧
      2 = (s.record.frames[s.ring.sendFrame]?.map fun e => e.firstSent).getD 0
        + (if s.ring.picked.isSome = true ∧ s.ring.firstSend = true then 1 else 0) ∧
      2 = min oneCall.window 2 := by decide
theorem witness_RepeatDecisions_limit :
    (asked 8 twoSent).ring.repeatQueue = [] ∧
      (asked 8 twoSent).line.snap.repeatLimit ≤ (asked 8 twoSent).line.grantsUsed := by decide
theorem witness_RepeatDecisions_gone :
    let s := asked 0 (List.replicate 4 { state := .free, frame := 0, line := 0 })
    s.ring.repeatSlot (2 - 2 + 0) = none := by decide
theorem witness_RepeatDecisions_empty :
    let s := { asked 0 twoSent with record := { AttemptRecord.empty with frames := [emptyEntry] } }
    s.ring.repeatQueue = [] ∧ 0 = (s.record.frames[s.ring.sendFrame]?.map fun e => e.firstSent).getD 0 ∧
      0 = min oneCall.window 0 := by decide
theorem test_repeat :
    after .toneRecognised (asked 0 twoSent)
      (fun t => t.ring.repeatQueue == [0, 1] && t.ring.grants == 1 && t.record.repeatsServed == 1) = true ∧
    after .toneRecognised (asked 8 twoSent)
      (fun t => t.ring.repeatQueue == [] && t.ring.lastRefusal == some .limitReached
        && t.record.repeatsRefused == 1) = true := by decide

def answering : State := withL { lineIn .answerWait with answerTimer := some 10000000 }
def readying : State := withL { lineIn .readyWait with readyTimer := some 10000000 }
theorem witness_TimersOfTheCall_answer :
    answering.awake = true ∧ 10000000 ≤ answering.now ∧ answering.line.state = .answerWait ∧
      answering.line.answerTimer = some 10000000 := by decide
theorem witness_TimersOfTheCall_ready_drum :
    readying.line.state = .readyWait ∧ readying.line.readyTimer = some 10000000 ∧ readying.drum.state ≠ .inBand ∧
      readying.drum.state ≠ .bandWarning := by decide
theorem witness_TimersOfTheCall_ready_carriage :
    let s := { readying with drum := turning .inBand 0 }
    s.drum.state = .inBand ∧ s.carriage.state ≠ .atFrame := by decide
def placed : Carriage := { Carriage.reset with state := .atFrame, position := 100, homed := true }
theorem witness_TimersOfTheCall_ready_elsewhere :
    let s := { readying with drum := turning .inBand 0, carriage := { placed with position := 101 } }
    s.line.frames = oneFrame :: [] ∧ s.carriage.state = .atFrame ∧ s.carriage.position ≠ oneFrame.start := by decide
theorem witness_TimersOfTheCall_ready_scanner :
    let s := { readying with drum := turning .bandWarning 0, carriage := placed }
    s.drum.state = .bandWarning ∧ s.line.frames = oneFrame :: [] ∧ s.carriage.state = .atFrame ∧
      s.carriage.position = oneFrame.start ∧ s.scan.state ≠ .ready := by decide
theorem witness_TimersOfTheCall_ready_index :
    let s := { readying with drum := turning .bandWarning 0, carriage := placed
                             scan := { Scan.reset with state := .ready, lamp := true } }
    s.line.frames = oneFrame :: [] ∧ s.carriage.state = .atFrame ∧ s.carriage.position = oneFrame.start ∧
      s.scan.state = .ready := by decide
theorem witness_TimersOfTheCall_start_tone :
    let s := withL { lineIn .startTone with startToneTimer := some 10000000 }
    s.inReset = false ∧ 10000000 ≤ s.now ∧ s.line.state = .startTone ∧ s.line.startToneTimer = some 10000000 := by
  decide
theorem witness_TimersOfTheCall_stop_tone :
    let s := withL { lineIn .stopTone with stopToneTimer := some 10000000 }
    s.line.state = .stopTone ∧ s.line.stopToneTimer = some 10000000 := by decide
def guarding : State :=
  withL { Line.reset with state := .releaseGuard, guardTimer := some 10000000 }
theorem witness_TimersOfTheCall_guard :
    guarding.inReset = false ∧ guarding.line.state = .releaseGuard ∧ guarding.line.guardTimer = some 10000000 ∧
      10000000 ≤ guarding.now := by decide
/-- An UNTRIED destination waits for the line. -/
theorem witness_TimersOfTheCall_guard_looks :
    let s := { guarding with jobs := jobIn .attempting .untried }
    (s.jobs.state = .attempting ∨ s.jobs.state = .retryWait) ∧ s.jobs.endCause = none ∧
      s.jobs.startInFlight = none ∧ s.jobs.attemptInProgress = false ∧ s.drum.state ≠ .latched ∧
      s.chosen = some 0 := by decide
theorem test_answer_timeout :
    after .answerTimeout answering
      (fun t => t.record.outcome == some .noAnswer && t.line.state == .releaseGuard) = true := by decide
theorem test_ready_wait :
    after .readyWaitExpiry readying
      (fun t => t.record.detail == .drumNotReady && t.line.state == .stopTone) = true := by decide
theorem test_start_tone :
    after .startToneExpiry (withL { lineIn .startTone with startToneTimer := some 10000000 })
      (fun t => t.line.state == .readyWait && t.line.readyTimer == some 40000000) = true := by decide
theorem test_stop_tone :
    after .stopToneExpiry (withL { lineIn .stopTone with stopToneTimer := some 10000000 })
      (fun t => t.line.state == .releaseGuard && t.line.guardTimer == some 11500000) = true := by decide
theorem test_release_guard :
    after .releaseGuardExpiry { guarding with jobs := { jobIn .attempting .untried with lineAtRest := false } }
      (fun t => t.line.state == .onHook && t.jobs.startInFlight == some 0) = true := by decide

/-- The fifteenth turn of phasing has begun and line 0 stands in slot 1. -/
def phased (d : DrumState) : State :=
  { withL { lineIn .phasing with turnCount := 15 } with
    drum := turning d 0
    ring := { live.ring with slots := live.ring.slots.set 1 { state := .filled, frame := 0, line := 0 } } }
theorem witness_PhasingEnd :
    let s := phased .inBand
    (s.awake = true ∧ s.line.state = .phasing ∧ s.line.call = some oneCall ∧ oneCall.phasing ≤ s.line.turnCount) ∧
      s.drum.state.turns :=
  ⟨by decide, Or.inl rfl⟩
theorem witness_PhasingEnd_not_ready :
    (phased .settling).line.state = .phasing ∧ ¬ (phased .settling).drum.state.turns :=
  ⟨by decide, by unfold DrumState.turns; decide⟩
theorem test_phasing_end :
    after .phasingEnd (phased .inBand)
      (fun t => t.line.state == .picture && t.ring.picked == some 1 && t.ring.firstSend
        && (t.ring.slot 1).state == .sending) = true := by decide

/-! ## Send entries, chains and jobs -/

def withOp (s : State) (kind : OpKind) (w : OpWord) (got : List Word) : State :=
  { s with gate := { s.gate with port := some .control, ops := [{ kind := kind, todo := [w], got := got }] } }
/-- The second word of Send entry 0 is in progress; `action` stands in memory, the chain at `head`. -/
def entryRead (head : Word) (action : Word) : State :=
  withOp
    { live with
      mem := live.mem.write { addr := 0x1004, be := 15, data := action }
      mailbox :=
        { live.mailbox with
          noted := [0], take := some { entryAddr := 0x1000, stale := false, phase := .reading } } }
    (.sendRead 0) (.rd 0x1004) [head]
def reading : Take := { entryAddr := 0x1000, stale := false, phase := .reading }
theorem witness_SendEntry_start :
    let s := entryRead 0xFFF80 1
    s.inReset = false ∧ s.gate.port = some .control ∧
      s.gate.ops = { kind := .sendRead 0, todo := [.rd 0x1004], got := [0xFFF80] } :: [] ∧
      s.mailbox.take = some reading ∧ s.layout.inForce = some lay ∧ 1 = (s.mem.word 0x1004).toNat % 256 ∧
      (0xFFF80 : Word).toNat % 16 = 0 ∧ (0xFFF80 : Word).toNat + 128 ≤ lay.memoryTop := by decide
theorem witness_SendEntry_start_misplaced :
    (0xFFF90 : Word).toNat % 16 = 0 ∧ lay.memoryTop < (0xFFF90 : Word).toNat + 128 ∧ (8 : Word).toNat % 16 ≠ 0 := by
  decide
theorem witness_SendEntry_free : 0 = ((entryRead 0 0).mem.word 0x1004).toNat % 256 := by decide
theorem witness_SendEntry_bad : 2 < ((entryRead 0 3).mem.word 0x1004).toNat % 256 := by decide
theorem test_start_entry :
    after .startEntry (entryRead 0xFFF80 1)
      (fun t => t.gate.ops.map (·.kind) == [.memberRead] && t.jobs.refusals == 0 && t.mailbox.noted == []) = true := by
  decide
theorem test_start_entry_bad_address :
    after .startEntry (entryRead 0xFFF90 1)
      (fun t => t.jobs.lastRefusal == some .badAddress && t.mailbox.take == none && t.mailbox.takeIndex == 1)
      = true := by decide
theorem test_free_entry :
    after .freeEntry (entryRead 0 0)
      (fun t => t.gate.ops.map (·.kind) == [.freeWrite] && t.mailbox.takeIndex == 1) = true := by decide
theorem test_bad_action_entry :
    after .badActionEntry (entryRead 0 3)
      (fun t => t.gate.ops.map (·.kind) == [.posting (some 0) false, .freeWrite] && t.jobs.refusals == 0)
      = true := by decide

/-- A TCB of 12, Transmission control block: 120 rpm, k 4, pitch 4, 10 lines from position 100, one
destination; word 31 is still to come. `w3` and `link` vary. -/
def tcb (link w3 : Word) : List Word :=
  [link, 42, 0x000A0064, w3, 0x1202020F, 0x03CE1064, 1] ++ List.replicate 24 0
def memberRead (link w3 : Word) (jobs : Jobs) : State :=
  withOp
    { live with
      jobs := jobs
      mailbox :=
        { live.mailbox with
          take := some { entryAddr := 0x1000, stale := false, phase := .fetching none [] 0x10000 } } }
    .memberRead (.rd 0x1007C) (tcb link w3)
def fetching : Take := { entryAddr := 0x1000, stale := false, phase := .fetching none [] 0x10000 }
theorem witness_MembersAreChecked :
    let s := memberRead 0 0x00780704 .reset
    let m := readTcb (tcb 0 0x00780704 ++ [s.mem.word 0x1007C])
    s.inReset = false ∧ s.gate.port = some .control ∧
      s.gate.ops = { kind := .memberRead, todo := [.rd 0x1007C], got := tcb 0 0x00780704 } :: [] ∧
      s.mailbox.take = some fetching ∧ fetching.phase = .fetching none [] 0x10000 ∧ s.layout.inForce = some lay ∧
      memberRefusal lay.directoryCount none m = some .badSlots := by decide
def oneHead : ChainHead :=
  { speed := .rpm120, k := 4, delay := 2, window := 2, phasing := 15, retryLimit := 2, retryInterval := 60
    urgent := false, destinations := [1] }
/-- A later member, at 10080h, with `w3`. -/
def memberRead2 (link w3 : Word) (members : List Member) : State :=
  withOp
    { live with
      mailbox :=
        { live.mailbox with
          take := some { entryAddr := 0x1000, stale := false, phase := .fetching (some oneHead) members 0x10080 } } }
    .memberRead (.rd 0x100FC) (tcb link w3)
def fetching2 (members : List Member) : Take :=
  { entryAddr := 0x1000, stale := false, phase := .fetching (some oneHead) members 0x10080 }
theorem witness_MembersAreChecked_later :
    let s := memberRead2 0 0x005A0404 [oneMember]
    s.mailbox.take = some (fetching2 [oneMember]) ∧
      memberRefusal lay.directoryCount (some oneHead) (readTcb (tcb 0 0x005A0404 ++ [s.mem.word 0x100FC]))
        = some .chainMismatch := by decide
def otherJob : Job := { oneJob with members := [{ oneMember with addr := 0x20000 }] }

theorem witness_ChainsAreFetched :
    let s := memberRead 0x10080 0x00780404 .reset
    let m := readTcb (tcb 0x10080 0x00780404 ++ [s.mem.word 0x1007C])
    (s.inReset = false ∧ s.gate.port = some .control ∧
      s.gate.ops = { kind := .memberRead, todo := [.rd 0x1007C], got := tcb 0x10080 0x00780404 } :: [] ∧
      s.mailbox.take = some fetching ∧ fetching.phase = .fetching none [] 0x10000 ∧ s.layout.inForce = some lay ∧
      memberRefusal lay.directoryCount none m = none ∧ speedOfCode m.speedCode = some .rpm120 ∧
      m.kept 0x10000 = oneMember ∧ m.link ≠ 0 ∧ ([] ++ [oneMember]).length < 8) ∧
      addressPasses lay.memoryTop ([] ++ [oneMember]) m.link :=
  ⟨by decide, by unfold addressPasses; decide⟩
/-- A second member passes, and its link to the head itself passes its address check; the ninth does not. -/
theorem witness_ChainsAreFetched_later :
    let s := memberRead2 0x10000 0x00780404 [oneMember]
    let m := readTcb (tcb 0x10000 0x00780404 ++ [s.mem.word 0x100FC])
    (memberRefusal lay.directoryCount (some oneHead) m = none ∧ m.link ≠ 0) ∧
      addressPasses lay.memoryTop ([oneMember] ++ [m.kept 0x10080]) m.link :=
  ⟨by decide, by unfold addressPasses; decide⟩
theorem witness_ChainsAreFetched_too_long :
    let s := memberRead2 0x10000 0x00780404 (List.replicate 7 oneMember)
    let m := readTcb (tcb 0x10000 0x00780404 ++ [s.mem.word 0x100FC])
    memberRefusal lay.directoryCount (some oneHead) m = none ∧ m.link ≠ 0 ∧
      8 ≤ (List.replicate 7 oneMember ++ [m.kept 0x10080]).length := by decide
theorem witness_ChainsAreFetched_overlap :
    let m := readTcb (tcb 0x10040 0x00780404 ++ [0])
    m.link ≠ 0 ∧ ¬ addressPasses lay.memoryTop [oneMember] m.link :=
  ⟨by decide, by unfold addressPasses; decide⟩
theorem witness_ChainsAreQueued :
    let s := memberRead 0 0x00780404 { jobIn .retryWait .retryWait with current := some otherJob }
    let m := readTcb (tcb 0 0x00780404 ++ [s.mem.word 0x1007C])
    m.link = 0 ∧ (m.clamped .rpm120).delay + (m.clamped .rpm120).window + 2 ≤ lay.ringCount ∧
      (∀ j ∈ s.jobs.queue ++ s.jobs.current.toList, ∀ z ∈ j.members, z.addr ≠ 0x10000) ∧
      s.jobs.queue.length < 16 ∧ s.jobs.state ≠ .idle ∧ s.jobs.queue = [] ++ [] := by decide
theorem witness_ChainsAreRefused :
    (∃ j ∈ (jobIn .retryWait .retryWait).queue ++ (jobIn .retryWait .retryWait).current.toList,
      ∃ z ∈ j.members, z.addr = 0x10000) ∧ 16 ≤ (List.replicate 16 otherJob).length ∧ 8 < 8 + 8 + 2 := by decide
theorem witness_ChainsBecomeCurrent :
    let s := memberRead 0 0x00780404 .reset
    s.jobs.state = .idle ∧ s.jobs.queue = [] ∧ s.jobs.current = none := by decide
theorem test_member_read :
    -- R104: the chain's job is current at 10000h already.
    after .tcbMemberRead (memberRead 0 0x00780404 (jobIn .retryWait .retryWait))
      (fun t => t.jobs.lastRefusal == some .duplicate && t.jobs.refusals == 1) = true ∧
    -- R100: the ninth member is not fetched.
    after .tcbMemberRead (memberRead2 0x10000 0x00780404 (List.replicate 7 oneMember))
      (fun t => t.jobs.lastRefusal == some .chainTooLong && t.mailbox.take == none) = true ∧
    -- R102, R104: the first failing check names the reason.
    after .tcbMemberRead (memberRead 0 0x00780704 .reset)
      (fun t => t.jobs.lastRefusal == some .badSlots && t.jobs.refusals == 1 && t.mailbox.take == none) = true := by
  decide
theorem test_chain_becomes_current :
    after .tcbMemberRead (memberRead 0 0x00780404 .reset)
      (fun t => t.jobs.state == .mountWait && t.jobs.mountLamp && t.jobs.current.map (·.members) == some [oneMember]
        && t.jobs.progress.map (·.dirIndex) == [1]) = true := by decide

def withJobs (j : Jobs) : State := { live with jobs := j }
/-- The job of the queue lies at 10000h, the one asked for by an ABORT. -/
def abortRead (a : Word) (j : Jobs) : State := { entryRead a 2 with jobs := j }
theorem witness_Abort_queued :
    let s := abortRead 0x10000 { jobIn .retryWait .retryWait with current := some otherJob, queue := [oneJob] }
    s.awake = true ∧ s.gate.port = some .control ∧
      s.gate.ops = { kind := .sendRead 0, todo := [.rd 0x1004], got := [0x10000] } :: [] ∧
      s.mailbox.take = some reading ∧ (s.mem.word 0x1004).toNat % 256 = 2 ∧
      s.jobs.queue = [] ++ oneJob :: [] ∧ (∃ y ∈ oneJob.members, y.addr = 0x10000) := by decide
theorem witness_Abort_current :
    let s := abortRead 0x10000 (jobIn .retryWait .retryWait)
    (∀ i ∈ s.jobs.queue, ∀ y ∈ i.members, y.addr ≠ 0x10000) ∧ s.jobs.current = some oneJob ∧
      (∃ y ∈ oneJob.members, y.addr = 0x10000) ∧ s.jobs.state ≠ .finishing := by decide
theorem witness_Abort_unknown :
    let s := abortRead 0x30000 .reset
    s.jobs.queue = [] ∧ s.jobs.current = none := by decide
theorem witness_AbortedResults :
    let s := withOp { live with mailbox := { live.mailbox with take := some { reading with phase := .aborting } } }
      (.abortedResults oneJob) (.wr oneWord) []
    s.inReset = false ∧ s.gate.port = some .control ∧
      s.gate.ops = { kind := .abortedResults oneJob, todo := [.wr oneWord], got := [] } :: [] ∧
      s.mailbox.take = some { reading with phase := .aborting } := by decide
-- R116, R165: the FREE and the results writes of one moment, in both orders.
theorem test_abort_current :
    (List.all [(0, [OpKind.results, .freeWrite]), (1, [.freeWrite, .results])] fun p =>
      after (.abortEntry false p.1) (abortRead 0x10000 (jobIn .retryWait .retryWait))
        (fun t => t.jobs.state == .finishing && t.jobs.endCause == some .aborted && t.gate.ops.map (·.kind) == p.2))
      = true := by decide
/-- R117, R165: one operation for each member of the chain. -/
theorem test_abort_queued :
    after (.abortEntry false 0)
      (abortRead 0x20000
        { jobIn .retryWait .retryWait with
          queue :=
            [{ oneJob with members := [{ oneMember with addr := 0x20000 }, { oneMember with addr := 0x20080 }] }] })
      (fun t => t.gate.ops.map (fun o => (o.kind == .memberResults, o.todo.length)) == [(true, 17), (false, 17)]
        && t.jobs.queue == []) = true := by decide
theorem test_aborted_results :
    after .abortedResultsWritten
      (withOp { live with mailbox := { live.mailbox with take := some { reading with phase := .aborting } } }
        (.abortedResults oneJob) (.wr oneWord) [])
      (fun t => t.mailbox.take == none && t.mailbox.slots == [.posting, .free, .free, .free]) = true := by decide

theorem witness_Clamp_open_idle :
    live.awake = true ∧ live.jobs.clampClosed = true ∧ live.jobs.state.running = false := by decide
theorem witness_Clamp_open_waiting :
    let s := withJobs waitingJob
    s.awake = true ∧ s.jobs.clampClosed = true ∧ s.jobs.state.running = true ∧ s.drum.state = .stopped ∧
      s.line.state.sending = false := by decide
theorem witness_Clamp_open_sending :
    let s := { withJobs { jobIn .attempting .attempting with attemptInProgress := true } with
      line := lineIn .picture, drum := turning .inBand 40 }
    s.jobs.clampClosed = true ∧ s.jobs.state.running = true ∧ s.jobs.attemptInProgress = true ∧
      s.drum.state = .inBand ∧ s.line.state.sending = true := by decide
def unclamped (st : JobState) (m : Mount) : State :=
  withJobs { jobIn st .untried with clampClosed := false, mount := m }
theorem witness_Clamp_close :
    (unclamped .finishing .opened).jobs.clampClosed = false ∧ (unclamped .finishing .opened).jobs.mount = .opened ∧
      (unclamped .finishing .opened).jobs.state ≠ .mountWait ∧
      (unclamped .finishing .stale).jobs.mount = .stale := by decide
theorem witness_Clamp_close_backlog :
    let s := { unclamped .mountWait .opened with
      mailbox := { live.mailbox with backlog := [loneCompletion 0 .notFound none] } }
    s.jobs.mount = .opened ∧ s.jobs.state = .mountWait ∧ s.mailbox.backlog ≠ [] := by decide
theorem witness_Clamp_close_line_busy :
    let s := withJobs { (unclamped .mountWait .opened).jobs with lineAtRest := false }
    s.jobs.state = .mountWait ∧ s.mailbox.backlog = [] ∧ s.jobs.lineAtRest = false := by decide
theorem witness_Clamp_close_starts :
    let s := unclamped .mountWait .opened
    s.awake = true ∧ s.mailbox.backlog = [] ∧ s.jobs.lineAtRest = true ∧ s.jobs.endCause = none ∧
      s.jobs.startInFlight = none ∧ s.jobs.attemptInProgress = false ∧ s.drum.state ≠ .latched ∧
      s.jobs.progress[0]? = some (oneDest .untried) ∧ (oneDest .untried).progress = .untried ∧
      s.layout.inForce = some lay := by decide
theorem witness_StopKey :
    (withJobs waitingJob).jobs.state.running = true ∧ live.jobs.state.running = false := by decide
theorem test_clamp_open :
    after (.clampOpen false false) (withJobs waitingJob)
      (fun t => t.jobs.endCause == some .mediaRemoved && t.jobs.state == .finishing && t.jobs.mount == .opened)
      = true := by decide
theorem test_clamp_open_band_lost_first :
    after (.clampOpen true false)
      { withJobs { jobIn .attempting .attempting with attemptInProgress := true } with
        line := lineIn .picture, drum := turning .inBand 40 }
      (fun t => t.record.outcome == some .drumFault && t.jobs.endCause == some .mediaRemoved) = true := by decide
theorem test_clamp_close :
    after .clampClose (unclamped .mountWait .opened)
      (fun t => t.jobs.state == .attempting && !t.jobs.mountLamp && t.jobs.startInFlight == some 0) = true := by
  decide
theorem test_stop_key :
    after (.stopKey false) (withJobs waitingJob) (fun t => t.jobs.endCause == some .operatorStop) = true := by decide

/-- An attempt in progress on the line, its destination not to be tried again. -/
def calling (st : LineState) : State :=
  { lineS st with
    line := { lineIn st with answerTimer := some 10000000 }
    jobs := { jobIn .attempting .attempting with attemptInProgress := true, lineAtRest := false, noRetry := true } }
/-- The requests of the stop key are on their way to it. -/
def onTheirWay (st : LineState) : State :=
  { calling st with
    jobs := { (calling st).jobs with endCause := some .operatorStop, requestsDue := some { freeAhead := none } } }
theorem witness_RequestsOnTheirWay :
    (calling .answerWait).awake = true ∧ (calling .answerWait).jobs.attemptInProgress = true ∧
      (calling .answerWait).jobs.state.running = true ∧ (calling .answerWait).jobs.clampClosed = true := by decide
theorem witness_CarriageFault_attempt :
    let s := { calling .answerWait with carriage := { positioning 100 101 with dirAway := true } }
    s.awake = true ∧ s.jobs.attemptInProgress = true ∧ s.jobs.state.running = true ∧ s.carriage.limit = false ∧
      s.carriage.state = .positioning ∧ s.carriage.dirAway = true := by decide
theorem witness_RequestsOnTheirWay_abort :
    let s := { abortRead 0x10000 (calling .answerWait).jobs with line := (calling .answerWait).line }
    s.awake = true ∧ s.jobs.attemptInProgress = true ∧ s.gate.port = some .control ∧
      s.gate.ops = { kind := .sendRead 0, todo := [.rd 0x1004], got := [0x10000] } :: [] ∧
      s.mailbox.take = some reading ∧ (s.mem.word 0x1004).toNat % 256 = 2 ∧
      (∀ i ∈ s.jobs.queue, ∀ y ∈ i.members, y.addr ≠ (0x10000 : Word).toNat) ∧ s.jobs.current = some oneJob ∧
      (∃ y ∈ oneJob.members, y.addr = (0x10000 : Word).toNat) ∧ s.jobs.state ≠ .finishing := by decide
theorem witness_RequestsOnTheirWay_answer :
    let s := onTheirWay .answerWait
    s.inReset = false ∧ s.jobs.requestsDue = some { freeAhead := none } ∧ s.jobs.endCause = some .operatorStop ∧
      s.jobs.attemptInProgress = true ∧ s.carriage.arrivalEvent = false ∧ s.carriage.truncationEvent = false ∧
      s.carriage.faultEvent = false ∧ s.drum.bandLostSignal = false ∧ s.line.state = .answerWait ∧
      s.line.answerTimer = some 10000000 ∧ 10000000 ≤ s.now ∧ s.pending = [] ∧
      s.line.state.attempting = true := by decide
theorem witness_RequestsOnTheirWay_loop :
    let s := { onTheirWay .picture with line := { lineIn .picture with loop := false, loopTimer := some 9600000 } }
    s.line.relay = true ∧ s.line.loopTimer = some 9600000 ∧ 9600000 + 1000 * s.line.snap.loopLoss ≤ s.now ∧
      s.line.state.attempting = true := by decide
theorem witness_RequestsOnTheirWay_band :
    let s := { onTheirWay .picture with drum := { turning .bandWarning 40 with outOfBandRun := 3, lossDue := true } }
    s.line.state.sending = true ∧ s.drum.state = .bandWarning ∧ s.drum.lossDue = true := by decide
/-- R114, R132, R133: the answer timeout taken first ends the attempt NO_ANSWER, and its record, taken under the stop
key's end cause, makes the destination NOT_SENT; else the stop key ends it when the moment is over. -/
theorem test_stop_key_late :
    after (.stopKey true) (calling .answerWait)
      (fun t => t.jobs.requestsDue == some { freeAhead := none } && t.line.state == .answerWait) = true ∧
    after .answerTimeout (onTheirWay .answerWait)
      (fun t => t.record.outcome == some .noAnswer && t.jobs.endCause == some .operatorStop
        && t.jobs.progress.map (fun d => (d.lastOutcome, d.final)) == [(some .noAnswer, some .notSent)]
        && t.jobs.state == .finishing && t.jobs.requestsDue == none) = true ∧
    (match step (onTheirWay .answerWait) with
      | .next t => t.record.outcome == some .operatorStop && t.jobs.state == .finishing && t.crystal == 40000001
      | _ => false) = true := by decide

def finishing (q : List Job) (cause : Option Cause) : State :=
  withOp
    (withJobs
      { jobIn .finishing .final with
        endCause := cause, queue := q
        progress :=
          [{ oneDest .final with final := some .sent, frames := [{ emptyEntry with ended := true }] }] })
    .results (.wr oneWord) []
theorem witness_JobsFinish :
    let s := finishing [] none
    s.inReset = false ∧ s.line.state.sending = false ∧ s.noEvents = true ∧ s.gate.port = some .control ∧
      s.gate.ops = { kind := .results, todo := [.wr oneWord], got := [] } :: [] ∧
      s.jobs.current = some oneJob ∧ s.scan.state ≠ .scanning ∧ s.scan.state ≠ .frameDone ∧
      s.jobs.queue = [] ∧ s.jobs.endCause ≠ some .mediaRemoved := by decide
theorem witness_JobsFinish_media_removed :
    (finishing [] (some .mediaRemoved)).jobs.endCause = some .mediaRemoved := by decide
theorem witness_JobsFinish_queued :
    let s := finishing [oneJob] none
    s.jobs.queue = oneJob :: [] ∧ s.jobs.endCause ≠ some .mediaRemoved ∧ 0 < s.profile.drum.parkDelay ∧
      oneJob.members.length ≤ 8 := by decide
def parkDue (d : DrumState) : State :=
  { live with drum := turning d 40, jobs := { Jobs.reset with parkTimer := some 10000000 } }
theorem witness_ParkDelay :
    (parkDue .inBand).inReset = false ∧ (parkDue .inBand).line.state.sending = false ∧
      (parkDue .inBand).noEvents = true ∧ (parkDue .inBand).jobs.parkTimer = some 10000000 ∧
      10000000 ≤ (parkDue .inBand).now ∧ (parkDue .inBand).drum.state.regulating = true ∧
      (parkDue .parking).drum.state = .parking := by decide
/-- The park delay that ends with the drum STOPPED, LATCHED, and IN_BAND while a turn is sent. -/
theorem witness_ParkDelay_elsewhere :
    let s := { parkDue .inBand with line := lineIn .picture }
    (parkDue .stopped).awake = true ∧ (parkDue .stopped).jobs.parkTimer = some 10000000 ∧
      (parkDue .stopped).drum.state = .stopped ∧ (parkDue .latched).drum.state = .latched ∧
      s.awake = true ∧ s.line.state.sending = true ∧ s.drum.state = .inBand := by decide
/-- The results of a chain of one member, for one destination sent to and one not. -/
theorem witness_Results :
    let ds := [{ oneDest .final with final := some .sent }, oneDest .final]
    oneJob.members[0]? = some oneMember ∧
      (resultOps .results none ds [7] oneJob).length = 1 ∧ ds.length ≤ 2 ∧ ds[1]? = some (oneDest .final) ∧
      ((resultOps .results none ds [7] oneJob).map fun o => o.todo[0]?) =
        [some (.wr { addr := 0x10030, be := 15, data := 0x00070000 })] := by decide
theorem test_job_results_written :
    after .jobResultsWritten (finishing [] none)
      (fun t => t.jobs.state == .idle && t.jobs.current == none && t.mailbox.slots == [.posting, .free, .free, .free])
      = true := by decide
theorem test_job_results_written_next :
    after .jobResultsWritten (finishing [oneJob] none)
      (fun t => t.jobs.state == .mountWait && t.jobs.parkTimer == some 70000000 && t.jobs.mount == .stale) = true := by
  decide
theorem test_park_delay :
    after .parkDelayExpiry (parkDue .inBand)
      (fun t => t.drum.state == .parking && t.drum.duty == 0 && t.drum.rest == some 11000000) = true := by decide

theorem witness_JobsFinish_handed :
    ∃ v, State.HandedAll
      { finishing [] none with
        mem := (finishing [] none).mem.write oneWord
        gate := { (finishing [] none).gate with port := none, ops := [] } }
      [{ addr := 0x10000, status := .doneAll, reason := none, ok := 1, failed := 0, quiet := false
         chainEnd := true }] v :=
  ⟨_, _, ⟨fun _ _ => rfl, fun h => absurd h (by decide)⟩, rfl⟩

/-! ## Destinations, the clock and the slips -/

/-- The Directory entry's words: one digit 5, name "PAPER", NO_RETRY clear; the last is in progress. -/
def dirWords : List Word := [0x00000501, 0, 0, 0, 0, 0, 0x45504150, 0x20202052, 0x20202020, 0, 0]
def starting : State :=
  withOp (withJobs { jobIn .attempting .attempting with startInFlight := some 0 })
    (.directoryRead true) (.rd 0x906C) dirWords
theorem witness_DirectoryRead :
    starting.awake = true ∧ starting.gate.port = some .control ∧
      starting.gate.ops = { kind := .directoryRead true, todo := [.rd 0x906C], got := dirWords } :: [] ∧
      starting.jobs.startInFlight = some 0 ∧ starting.jobs.current = some oneJob ∧
      starting.jobs.progress[0]? = some (oneDest .attempting) ∧ oneJob.frames = oneFrame :: [] ∧
      starting.drum.state = .stopped ∧ starting.carriage.state = .unhomed ∧ starting.carriage.home = false ∧
      starting.scan.state = .idle ∧ 0 < starting.profile.lampWarmUp ∧ starting.line.state = .onHook ∧
      (1300, 2100) =
        (if starting.profile.line.fBlack + 200 ≤ starting.profile.line.fWhite then
          (starting.profile.line.fBlack, starting.profile.line.fWhite) else (1300, 2100)) := by decide
/-- The other states that an attempt may find: each clause of `Drum.Spun` and `Carriage.Positioned`, at frame 0's start. -/
theorem witness_DirectoryRead_elsewhere :
    (∀ d ∈ [DrumState.ramping, .settling, .inBand, .bandWarning], d.regulating = true) ∧
      { starting with drum := turning .faultWait 40 }.awake = true ∧
      { starting with drum := turning .latched 40, carriage := placed }.awake = true ∧
      { starting with drum := turning .parking 40, carriage := { placed with position := 101 } }.awake = true ∧
      { starting with drum := turning .inBand 40, carriage := positioning 100 101 }.awake = true ∧
      { starting with carriage := homing 3 }.awake = true ∧ placed.position = oneFrame.start ∧
      (turning .inBand 40).target = some oneJob.speed := by decide
theorem witness_DirectoryRead_abandoned :
    let s := withOp live (.directoryRead false) (.rd 0x906C) dirWords
    s.inReset = false ∧ s.gate.port = some .control ∧
      s.gate.ops = { kind := .directoryRead false, todo := [.rd 0x906C], got := dirWords } :: [] := by decide
theorem test_directory_read_begins :
    after .directoryReadDone starting
      (fun t => t.line.state == .seizeWait && t.line.call.map (·.dial) == some [.digit 5]
        && t.record.name.take 5 == [80, 65, 80, 69, 82] && t.record.attemptNo == 2) = true := by decide
theorem test_directory_read_moves_the_part :
    after .directoryReadDone starting
      (fun t => t.drum.state == .ramping && t.carriage.state == .homing && t.scan.warm == some 13000000) = true := by
  decide

theorem witness_NextDestination_untried :
    let s := withJobs { jobIn .attempting .final with progress := [oneDest .final, oneDest .untried] }
    s.jobs.progress = [oneDest .final] ++ oneDest .untried :: [] ∧
      (∀ y ∈ [oneDest .final], y.progress ≠ .untried) ∧ (oneDest .untried).progress = .untried := by decide
theorem witness_NextDestination_due :
    let s := { withJobs waitingJob with clock := { Clock.reset with uptime := 100 } }
    (∀ d ∈ s.jobs.progress, d.progress ≠ .untried) ∧ s.jobs.retryList = (0, 100) :: [] ∧
      100 ≤ s.clock.uptime := by decide
theorem witness_NextDestination_not_due :
    let s := { withJobs waitingJob with clock := { Clock.reset with uptime := 99 } }
    s.clock.uptime < 100 ∧ live.jobs.retryList = [] := by decide

def clockAt (uptime : Nat) (j : Jobs) : State :=
  { withJobs j with
    clock := { time := { hours := 23, minutes := 59, seconds := 59, isSet := true }, uptime := uptime
               nextTick := some 10000000 } }
theorem witness_ClockTicks :
    let s := clockAt 4294967295 .reset
    s.inReset = false ∧ s.clock.nextTick = some 10000000 ∧ 10000000 ≤ s.now ∧
      4294967295 = min (s.clock.uptime + 1) 4294967295 := by decide
theorem witness_ClockTicks_waits :
    let s := clockAt 98 waitingJob
    99 = min (s.clock.uptime + 1) 4294967295 ∧ s.jobs.state = .retryWait ∧
      (∀ d ∈ s.jobs.progress, d.progress ≠ .untried) ∧ s.jobs.retryList = (0, 100) :: [] ∧ 99 < 100 := by decide
theorem witness_ClockTicks_retries :
    let s := clockAt 99 waitingJob
    s.jobs.state = .retryWait ∧ (∀ y ∈ s.jobs.progress, y.progress ≠ .untried) ∧
      s.jobs.retryList = (0, 100) :: [] ∧ 100 ≤ min (s.clock.uptime + 1) 4294967295 ∧
      s.jobs.progress[0]? = some (oneDest .retryWait) ∧ s.jobs.endCause = none ∧ s.jobs.startInFlight = none ∧
      s.jobs.attemptInProgress = false ∧ s.jobs.lineAtRest = true ∧ s.drum.state ≠ .latched ∧
      s.layout.inForce = some lay := by decide
/-- The retry falls due while the line is not at rest. -/
theorem witness_ClockTicks_line_busy :
    let s := clockAt 99 { waitingJob with lineAtRest := false }
    s.jobs.state = .retryWait ∧
      (s.jobs.retryList.head?.map fun e => decide (e.2 ≤ 100)) = some true ∧ s.jobs.lineAtRest = false := by decide
theorem test_clock_tick_at_midnight :
    after .clockTick (clockAt 7 .reset)
      (fun t => t.clock.time == { hours := 0, minutes := 0, seconds := 0, isSet := true } && t.clock.uptime == 8)
      = true := by decide
theorem test_clock_tick_begins_a_retry :
    after .clockTick (clockAt 99 waitingJob)
      (fun t => t.jobs.state == .attempting && t.jobs.startInFlight == some 0) = true ∧
    after .clockTick (clockAt 99 { waitingJob with lineAtRest := false })
      (fun t => t.jobs.state == .attempting && t.jobs.startInFlight == none) = true := by decide

/-- The receipt of a SENT attempt with one frame of caption 42. -/
def oneSlip : Slip :=
  { seq := 5, header := defaultHeader, flag := .printPending
    record :=
      { AttemptRecord.empty with
        name := [80, 65, 80, 69, 82, 32, 32, 32, 32, 32, 32, 32], attemptNo := 1, frameCount := 1
        captions := [42], frames := [{ emptyEntry with ended := true }], outcome := some .sent } }
def printing (l c : Nat) (q : List Slip) : State :=
  { live with
    slips :=
      { SlipUnit.reset with
        queue := oneSlip :: q, printer := .printing, cursorLine := l, cursorChar := c, begun := true
        txd := some { code := 65, start := 9990000, orphan := false } } }
theorem witness_SlipCharacter_next :
    let s := printing 0 24 []
    s.inReset = false ∧ s.slips.queue = oneSlip :: [] ∧
      s.slips.txd = some { code := 65, start := 9990000, orphan := false } ∧ 9990000 + 10000 ≤ s.now ∧
      s.slips.printer = .printing ∧
      (oneSlip.output s.slips.reprinting)[s.slips.cursorLine]? = some (defaultHeader ++ [13, 10]) ∧
      (defaultHeader ++ [13, 10])[s.slips.cursorChar + 1]? = some 10 := by decide
theorem witness_SlipCharacter_line_end :
    let s := printing 0 25 []
    s.slips.cursorChar + 1 = (defaultHeader ++ [13, 10]).length ∧
      ((oneSlip.output s.slips.reprinting)[s.slips.cursorLine + 1]?).isSome = true := by decide
theorem witness_SlipCharacter_slip_end :
    let s := printing 8 0 []
    (oneSlip.output s.slips.reprinting)[s.slips.cursorLine]? = some [10] ∧
      s.slips.cursorChar + 1 = [10].length ∧
      s.slips.cursorLine + 1 = (oneSlip.output s.slips.reprinting).length := by decide
theorem witness_SlipCharacter_next_slip :
    (oneSlip.output false)[0]? = some (87 :: (defaultHeader.drop 1 ++ [13, 10])) := by decide
def paperless (q : List Slip) : State :=
  { live with
    slips :=
      { SlipUnit.reset with queue := q, printer := .paperOut, begun := true, paperTimer := some 9000000 } }
theorem witness_SlipCharacter_orphan :
    let s := { printing 0 24 [] with
      slips := { (printing 0 24 []).slips with
        printer := .paperOut, txd := some { code := 65, start := 9990000, orphan := true } } }
    s.slips.queue = oneSlip :: [] ∧ s.slips.txd = some { code := 65, start := 9990000, orphan := true } ∧
      s.slips.printer = .paperOut := by decide
theorem witness_SlipCharacter_orphan_reprints :
    let s := { printing 0 0 [] with
      slips := { (printing 0 0 []).slips with
        reprinting := true, txd := some { code := 65, start := 9990000, orphan := true } } }
    s.inReset = false ∧ s.slips.queue = oneSlip :: [] ∧ 9990000 + 10000 ≤ s.now ∧ s.slips.printer = .printing ∧
      ((oneSlip.output s.slips.reprinting)[s.slips.cursorLine]?.bind fun row => row[s.slips.cursorChar]?) = some 82 := by
  decide
def busyPrinter : State :=
  { printing 0 3 [] with slips := { (printing 0 3 []).slips with busy := true, txd := none } }
theorem witness_SlipBusyRelease :
    busyPrinter.noEvents = true ∧ busyPrinter.slips.busy = true ∧ busyPrinter.slips.printer = .printing ∧
      busyPrinter.slips.txd = none ∧
      (oneSlip.output busyPrinter.slips.reprinting)[busyPrinter.slips.cursorLine]? = some (defaultHeader ++ [13, 10]) ∧
      (defaultHeader ++ [13, 10]).drop busyPrinter.slips.cursorChar = 69 :: (defaultHeader.drop 4 ++ [13, 10]) := by
  decide
theorem witness_SlipBusyRelease_idle :
    let s := { live with slips := { SlipUnit.reset with busy := true } }
    s.awake = true ∧ s.slips.printer ≠ .printing ∧ live.slips.busy = false ∧ live.inReset = false ∧
      live.slips.txd = none := by decide
theorem witness_PaperOut : live.awake = true ∧ live.slips.paper = true := by decide
theorem witness_PaperPresent :
    let s := { live with slips := { SlipUnit.reset with paper := false, printer := .paperOut } }
    s.awake = true ∧ s.slips.paper = false ∧ s.slips.printer = .paperOut := by decide
theorem witness_PaperReturn :
    (paperless []).awake = true ∧ (paperless []).slips.printer = .paperOut ∧
      (paperless []).slips.paperTimer = some 9000000 ∧ 9000000 + 1000000 ≤ (paperless []).now ∧
      (paperless []).slips.queue = [] ∧ (paperless [oneSlip]).slips.queue = oneSlip :: [] ∧
      (paperless [oneSlip]).slips.busy = false ∧ (paperless [oneSlip]).slips.txd = none ∧
      (paperless [oneSlip]).slips.begun = true := by decide
theorem witness_PaperReturn_not_begun :
    let s := { paperless [oneSlip] with slips := { (paperless [oneSlip]).slips with begun := false } }
    s.slips.queue = oneSlip :: [] ∧ s.slips.begun = false ∧ s.slips.busy = false ∧ s.slips.txd = none := by decide
theorem witness_PaperReturn_busy :
    let s := { paperless [oneSlip] with slips := { (paperless [oneSlip]).slips with busy := true } }
    s.slips.queue = oneSlip :: [] ∧ s.slips.busy = true ∧ s.slips.paperTimer = some 9000000 := by decide
/-- R148: SLIP_BUSY that has become active while the printer is IDLE holds the first character. -/
theorem test_slip_busy_holds_the_first_character :
    after (.slipCharacterEnd true) { live with slips := SlipUnit.reset }
      (fun t =>
        let u := t.slips.compose t.now none defaultHeader oneSlip.record
        u.printer == .printing && u.busy && u.txd == none && !u.begun) = true := by decide +kernel
theorem test_slip_character_end :
    after (.slipCharacterEnd false) (printing 0 24 [])
      (fun t => t.slips.cursorChar == 25 && t.slips.txd == some { code := 10, start := 10000000, orphan := false })
      = true ∧
    after (.slipCharacterEnd false) (printing 8 0 [])
      (fun t => t.slips.printer == .idle && t.slips.lastPrinted == 5 && t.slips.queue == []) = true := by decide
theorem test_slip_busy_release :
    after .slipBusyRelease busyPrinter
      (fun t => t.slips.txd == some { code := 69, start := 10000000, orphan := false }) = true := by decide
theorem test_paper_out :
    after .paperOut (printing 0 3 [])
      (fun t => t.slips.printer == .paperOut && t.slips.txd.map (·.orphan) == some true) = true := by decide
theorem test_paper_present :
    after .paperPresent { live with slips := { SlipUnit.reset with paper := false, printer := .paperOut } }
      (fun t => t.slips.paperTimer == some 10000000) = true := by decide
theorem test_paper_return_reprints :
    after .paperReturnExpiry (paperless [oneSlip])
      (fun t => t.slips.reprinting && t.slips.reprints == 1 && t.slips.printer == .printing) = true := by decide
/-- The worked slip of 08. -/
def workedSlip : Slip :=
  { seq := 417, header := defaultHeader, flag := .printPending
    record :=
      { AttemptRecord.empty with
        name := text "NORTHGAZETTE", attemptNo := 1, frameCount := 2, captions := [24031877, 24031878]
        startTime := { hours := 14, minutes := 2, seconds := 37, isSet := true }, startUptime := 5120
        endUptime := 5189, repeatsServed := 1, outcome := some .halted
        frames :=
          [{ firstSent := 12, short := 0, sig := 0x3A7C, check := .isMatch, ended := true },
            { firstSent := 7, short := 5, sig := 0x91E4, check := .notCompared, ended := true }] } }
/-- The seven lines that the worked case gives. -/
theorem test_worked_slip :
    workedSlip.lines =
      ["WIREPHOTO RECEIPT       ", "SEQ 00417 14:02:37      ", "TO NORTHGAZETTE TRY 1   ", "C24031877 L0012 S3A7C   ",
        "C24031878 L0007 S91E4   ", "DUR 001:09 RPT 01/00    ", "HALTED BY RECEIVER      "].map text := by
  decide +kernel
theorem test_worked_slip_length : (workedSlip.output false).flatten.length = 185 := by decide +kernel
theorem witness_TheTextOfASlip :
    (∀ c ∈ workedSlip.header, 32 ≤ c ∧ c ≤ 126) ∧ workedSlip.header.length = 24 ∧
      Numeral 10 5 workedSlip.seq (text "00417") ∧ Numeral 10 2 14 (text "14") ∧ Numeral 10 2 2 (text "02") ∧
      Numeral 10 2 37 (text "37") :=
  ⟨by decide +kernel, by decide +kernel, ⟨by decide, by decide, by decide⟩, ⟨by decide, by decide, by decide⟩,
    ⟨by decide, by decide, by decide⟩, ⟨by decide, by decide, by decide⟩⟩
theorem witness_TheTextOfASlip_frame :
    workedSlip.record.captions[0]? = some 24031877 ∧ Numeral 10 8 24031877 (text "24031877") ∧
      Numeral 10 4 12 (text "0012") ∧ Numeral 16 4 (0x3A7C : Sig).toNat (text "3A7C") ∧
      (workedSlip.record.frames[0]?).isSome = true :=
  ⟨by decide, ⟨by decide, by decide, by decide⟩, ⟨by decide, by decide, by decide⟩,
    ⟨by decide, by decide, by decide⟩, by decide⟩
theorem witness_TheTextOfASlip_duration :
    69 = min (workedSlip.record.endUptime - workedSlip.record.startUptime) 59999 ∧ Numeral 10 3 (69 / 60) (text "001") ∧
      Numeral 10 2 (69 % 60) (text "09") ∧ Numeral 10 2 (min 1 99) (text "01") ∧ Numeral 10 2 (min 0 99) (text "00") ∧
      Numeral 10 1 1 (text "1") ∧ workedSlip.record.name.length = 12 ∧ workedSlip.record.outcome = some .halted :=
  ⟨by decide, ⟨by decide, by decide, by decide⟩, ⟨by decide, by decide, by decide⟩, ⟨by decide, by decide, by decide⟩,
    ⟨by decide, by decide, by decide⟩, ⟨by decide, by decide, by decide⟩, by decide, by decide⟩
theorem witness_TheSlipLogRecord :
    workedSlip.record.outcome = some .halted ∧ workedSlip.record.startUptime < 4294967296 ∧
      workedSlip.record.endUptime < 4294967296 := by decide
theorem witness_TheSlipLogRecord_composed :
    let u := SlipUnit.reset
    u.logList.length < 8 ∧ u.queue = [] ∧ u.printer = .idle ∧ u.txd = none ∧
      ((workedSlip.output false)[0]?.map (·.head?)) = some (some 87) := by decide +kernel
theorem witness_TheSlipLogRecord_full :
    8 ≤ (List.replicate 8 oneSlip).length ∧ 8 ≤ (List.replicate 8 ({ seq := 1, todo := [] } : LogRecord)).length := by
  decide
/-- Word 0 of the worked slip's record: 417, PRINT_PENDING, two frames; the record lies at entry 63. -/
theorem test_worked_slip_record :
    let u := ({ SlipUnit.reset with nextSeq := 417, logIndex := 63 } : SlipUnit).compose 0 (some (0x7000, 64))
      defaultHeader workedSlip.record
    (u.logList.head?.bind fun r => r.todo.head?) = some { addr := 0x7000 + 128 * 63, be := 15, data := 0x020101A1 } ∧
      u.logIndex = 0 ∧ u.nextSeq = 418 := by decide +kernel
/-! ## The Memory Gate -/

theorem witness_HostRead :
    let s := { live with gate := { Gate.reset with buffer := [{ addr := 0x404, data := 1, be := 15 }] } }
    s.inReset = false ∧ s.gate.read = none ∧ s.gate.waiting = none ∧
      0x404 = (0x404 : Addr).toNat - (0x404 : Addr).toNat % 4 ∧ s.layout.inForce = some lay ∧
      0x404 < lay.previewBase ∧ s.gate.buffer.any (fun w => w.addr == 0x404) = true := by decide
def preview : State :=
  { live with ring := { live.ring with slots := live.ring.slots.set 3 { state := .held, frame := 0, line := 9 } } }
theorem witness_HostRead_preview :
    preview.gate.read = none ∧ lay.previewBase ≤ 0xA000 ∧ 0xA000 < lay.previewBase + 1456 ∧
      preview.ring.previewSlot preview.scan.current = some 3 := by decide
theorem witness_HostRead_no_preview : live.ring.previewSlot live.scan.current = none := by decide
def reading1 : HostRead := { addr := 0x404, target := 0x404, held := none }
theorem witness_HostRead_busy :
    let s := { live with gate := { Gate.reset with read := some reading1 } }
    s.inReset = false ∧ s.gate.read ≠ none := by decide
/-- A read held by a write to its word, and the same with that write drained, over another command. -/
def heldRead (buffer : List HostWrite) : State :=
  { live with
    gate := { Gate.reset with buffer := buffer, read := some { addr := 0x404, target := 0x404, held := some .pendingWrite } } }
theorem witness_HostRead_held :
    (∃ t, exec .indexPulse (heldRead []) = .next t ∧ (heldRead []).inReset = false ∧ t.inReset = false) ∧
      (∃ w ∈ (heldRead [{ addr := 0x404, data := 1, be := 15 }]).gate.buffer, w.addr = 0x404) ∧
      ∀ w ∈ (heldRead []).gate.buffer, w.addr ≠ 0x404 :=
  ⟨⟨_, rfl, rfl, rfl⟩, by decide, by decide⟩
/-- R161: slot 2 is FILLING, so its header and its level area are. -/
theorem witness_HostRead_filling : (scanTurn 2 (lineOf 3 0 0)).touchesFilling 0x2B60 :=
  ⟨lay, 2, rfl, by decide, by decide, by decide, by decide⟩
/-- R160, R161: a hold that has ended leaves the read for the free port; one that goes on does not. -/
theorem test_host_read_released :
    after .indexPulse (heldRead []) (fun t => t.gate.read == some reading1 && t.gate.port == some .hostRead) = true ∧
      after .indexPulse (heldRead [{ addr := 0x404, data := 1, be := 15 }])
        (fun t => t.gate.read.map (·.held) == some (some .pendingWrite) && t.gate.port == some .hostWrite) = true := by
  decide
theorem witness_HostReadData :
    let s := { live with gate := { Gate.reset with port := some .hostRead, read := some reading1 } }
    s.gate.port = some .hostRead ∧ s.gate.read = some reading1 := by decide
theorem test_host_read_preview :
    after (.hostRead 0xA008) { preview with ring := { preview.ring with latch := some 3 } }
      (fun t => t.gate.read.map (·.target) == some (0x2000 + 1456 * 3 + 8)) = true := by decide
theorem test_host_read_held :
    after (.hostRead 0x404)
      { live with gate := { Gate.reset with port := some .slipLog, buffer := [{ addr := 0x404, data := 1, be := 15 }] } }
      (fun t => t.gate.read == some { addr := 0x404, target := 0x404, held := some .pendingWrite }) = true := by decide
/-- Byte 0 is the least significant byte of a word (00_scope.md, Addresses). -/
theorem test_host_read_data :
    after .hostReadData
      { live with
        mem := [(0x404, 0x11), (0x406, 0x33)]
        gate := { Gate.reset with port := some .hostRead, read := some reading1 } }
      (fun t => t.gate.readData == 0x00330011 && t.gate.read == none) = true := by decide

def guarded : State :=
  { withJobs waitingJob with
    gate :=
      { Gate.reset with
        guards := [some { base := 0x8000, length := 256, reason := .statusPage, bank := 0 }]
          ++ List.replicate 11 none } }
def statusGuard : Guard := { base := 0x8000, length := 256, reason := .statusPage, bank := 0 }
theorem witness_HostWrite_dropped :
    (guarded.inReset = false ∧ guarded.gate.read = none ∧ guarded.gate.waiting = none ∧
      0x80FC = (0x80FE : Addr).toNat - (0x80FE : Addr).toNat % 4) ∧ guarded.firstGuard 0x80FC .statusPage :=
  ⟨by decide, ⟨statusGuard, by decide, rfl, by decide, by decide⟩, fun r h => absurd h (by cases r <;> decide)⟩
/-- R157: the Directory's history words are guarded only there, from byte 48 of an entry on. -/
theorem witness_HostWrite_history : guarded.firstGuard 0x9030 .history := by
  refine ⟨⟨lay, rfl, by decide, by decide, by decide⟩, fun r h => ?_⟩
  cases r
  case ring =>
    rintro ⟨l, hl, -, -, hb⟩
    obtain rfl : lay = l := Option.some.inj hl
    exact absurd hb (by decide)
  case history => exact absurd h (by decide)
  all_goals
    rintro ⟨g, hg, hr, -, hb⟩
    have : ∀ x ∈ guarded.gate.guards, x = none ∨ (x.map fun y => y.base + y.length) = some 0x8100 := by decide
    have := this _ hg
    simp at this
    omega
/-- With no layout in force and an empty Guard List nothing is guarded. -/
theorem nothing_covered (s : State) (a : Nat) (hl : s.layout.inForce = none) (hg : ∀ g ∈ s.gate.guards, g = none)
    (r : DropReason) : ¬ s.covered a r := by
  cases r
  case ring => rintro ⟨l, h, -⟩; simp [hl] at h
  case history => rintro ⟨l, h, -⟩; simp [hl] at h
  all_goals rintro ⟨g, h, -⟩; exact absurd (hg _ h) (by simp)
theorem witness_HostWrite_posted : bare.gate.buffer.length < 2 ∧ ∀ r, ¬ bare.covered 0x500 r :=
  ⟨by decide, nothing_covered bare 0x500 rfl (by decide)⟩
def fullBuffer : State :=
  { live with
    gate :=
      { Gate.reset with
        port := some .slipLog
        buffer := [{ addr := 0x500, data := 1, be := 15 }, { addr := 0x504, data := 2, be := 15 }] } }
theorem witness_HostWrite_waits : 2 ≤ fullBuffer.gate.buffer.length := by decide
theorem test_host_write_dropped :
    after (.hostWrite 0x80FC 1 15) guarded
      (fun t => t.gate.dropped == 1 && t.gate.droppedAddr == 0x80FC && t.gate.droppedReason == some .statusPage
        && t.gate.buffer == []) = true := by decide
theorem test_host_write_waits :
    after (.hostWrite 0x508 3 15) fullBuffer
      (fun t => t.gate.waiting == some { addr := 0x508, data := 3, be := 15 }) = true := by decide

def draining (w : HostWrite) : State := { live with gate := { Gate.reset with port := some .hostWrite, buffer := [w] } }
/-- A write to the action byte of Send entry 3 is handed to the Mailbox Unit. -/
theorem witness_HostWriteDrain :
    let w : HostWrite := { addr := 0x101C, data := 1, be := 1 }
    ((draining w).inReset = false ∧ (draining w).gate.port = some .hostWrite ∧ (draining w).gate.buffer = w :: [] ∧
      (draining w).gate.waiting = none) ∧ (draining w).HandedOn w [.send 3] [] [] [] := by
  refine ⟨by decide, by decide, fun x => ⟨fun h => ⟨lay, 3, rfl, by decide, by decide, by decide, ?_⟩, ?_⟩,
    fun x => ⟨fun h => absurd h (by simp), ?_⟩, fun x => ⟨fun h => absurd h (by simp), ?_⟩,
    fun x => ⟨fun h => absurd h (by simp), ?_⟩⟩
  · simpa using h
  · rintro ⟨l, e, hl, -, ha, -, rfl⟩
    obtain rfl : lay = l := Option.some.inj hl
    have : e = 3 := by simp [lay] at ha; omega
    simp [this]
  · rintro ⟨l, n, hl, -, ha, -, -⟩
    obtain rfl : lay = l := Option.some.inj hl
    simp [lay] at ha
    omega
  · rintro ⟨ha, -⟩
    exact absurd ha (by decide)
  · rintro ⟨l, n, hl, ha, -⟩
    obtain rfl : lay = l := Option.some.inj hl
    exact absurd ha (by decide)
/-- A write to an address that no item watches is handed to nobody, and the waiting write takes the room. -/
def twoWrites : State :=
  { bare with
    gate := { Gate.reset with
      port := some .hostWrite, waiting := some { addr := 0x508, data := 3, be := 15 }
      buffer := [{ addr := 0x500, data := 1, be := 15 }, { addr := 0x504, data := 2, be := 15 }] } }
theorem witness_HostWriteDrain_waiting :
    (twoWrites.gate.waiting = some { addr := 0x508, data := 3, be := 15 } ∧
      [({ addr := 0x504, data := 2, be := 15 } : HostWrite)].length < 2) ∧ (∀ r, ¬ twoWrites.covered 0x508 r) ∧
      twoWrites.HandedOn { addr := 0x500, data := 1, be := 15 } [] [] [] [] := by
  have hl : twoWrites.layout.inForce = none := rfl
  refine ⟨by decide, nothing_covered _ _ hl (by decide), by decide, ?_, ?_, ?_, ?_⟩
  all_goals refine fun x => ⟨fun h => absurd h (by simp), ?_⟩
  · rintro ⟨l, e, h, -⟩; simp [hl] at h
  · rintro ⟨l, e, h, -⟩; simp [hl] at h
  · rintro ⟨h, -⟩; exact absurd h (by decide)
  · rintro ⟨l, e, h, -⟩; simp [hl] at h
/-- The write that waits falls under a guard that stands by now. -/
theorem witness_HostWriteDrain_waiting_dropped :
    let w : HostWrite := { addr := 0x80FC, data := 3, be := 15 }
    State.firstGuard { guarded with gate := { guarded.gate with waiting := some w } } 0x80FC .statusPage :=
  ⟨⟨statusGuard, by decide, rfl, by decide, by decide⟩, fun r h => absurd h (by cases r <;> decide)⟩
theorem test_host_write_drain :
    after .hostWriteDrain (draining { addr := 0x101C, data := 0x55AA0102, be := 5 })
      (fun t => t.mem.word 0x101C == 0x00AA0002 && t.gate.toMailbox == [.send 3] && t.gate.buffer == []) = true := by
  decide
/-- R155: the waiting write's guard is checked when it takes the room. -/
theorem test_host_write_drain_waiting :
    after .hostWriteDrain
      { guarded with
        gate :=
          { guarded.gate with
            port := some .hostWrite, waiting := some { addr := 0x80FC, data := 3, be := 15 }
            buffer := [{ addr := 0x101C, data := 1, be := 2 }, { addr := 0x504, data := 2, be := 15 }] } }
      (fun t => t.gate.toMailbox == [] && t.gate.waiting == none && t.gate.buffer.length == 1
        && t.gate.droppedAddr == 0x80FC) = true := by decide

/-! ### The port and the Status Page -/

/-- A control word and a Slip Log word ask for the free port. -/
theorem witness_TheArbiter :
    let s := { live with
      gate := { Gate.reset with ops := [{ kind := .freeWrite, todo := [.wr oneWord], got := [] }] }
      slips := { SlipUnit.reset with logList := [{ seq := 5, todo := [oneWord] }] } }
    ∃ t, step s = .next t ∧ t.inReset = false ∧ t.gate.port = some .control := ⟨_, rfl, by decide, by decide⟩
/-- R66: the first position of the turn due is in word 0, and the port is asked for it. -/
theorem witness_TheArbiter_prefetch :
    let s := sendTurn 16 []
    s.ring.picked.isSome = true ∧ s.line.call = some oneCall ∧ s.layout.inForce = some lay ∧ s.drum.interval = some 16 ∧
      (s.prefetchWord.isSome = true) ∧ live.ring.picked = none := by decide
theorem witness_TheArbiter_free : ∃ t, step live = .next t ∧ t.inReset = false ∧ t.gate.port = none :=
  ⟨_, rfl, by decide, by decide⟩
theorem witness_TheArbiter_busy :
    let s := { fullBuffer with pending := [.indexPulse] }
    ∃ t, step s = .next t ∧ t.inReset = false ∧ s.gate.port = some .slipLog ∧
      PortWord.endedBy .slipLog .indexPulse = false := ⟨_, rfl, by decide, by decide, by decide⟩
/-- Word 9 is marked, and nothing asks for the port. -/
def oneMark : State := { live with gate := { Gate.reset with marks := (List.replicate 64 false).set 9 true } }
theorem witness_TheStatusWriter :
    ∃ t, exec .bandEntry oneMark = .next t ∧ oneMark.inReset = false ∧ t.inReset = false ∧
      oneMark.gate.marks.length = 64 ∧ oneMark.mem.wf = true ∧ t.layout.inForce = some lay ∧ t.gate.port = none ∧
      oneMark.gate.marks[9]? = some true ∧ (∀ w < 9, oneMark.gate.marks[w]? = some false) :=
  ⟨_, rfl, by decide, by decide, by decide, by decide, by decide, by decide, by decide, by decide⟩
theorem witness_TheStatusWriter_idle :
    oneMark.pending = [] ∧ oneMark.jobs.requestsDue = none ∧
      ∃ t, step oneMark = .next t ∧ t.gate.port = none := ⟨by decide, by decide, _, rfl, by decide⟩
/-- R191, R192: a due time above the word's top value is shown as that value. -/
theorem test_status_word_saturates :
    (withJobs { waitingJob with retryList := [(0, 4294967300)] }).statusWord 31 = 4294967295 := by decide +kernel

theorem witness_Words_in_order :
    let s := withOp live .freeWrite (.wr oneWord) []
    s.inReset = false ∧ s.gate.port = some .control ∧
      s.gate.ops = { kind := .freeWrite, todo := .wr oneWord :: [], got := [] } :: [] := by decide
theorem witness_Words_in_order_more :
    let s := { live with
      gate := { Gate.reset with port := some .control
                                ops := [{ kind := .memberRead, todo := [.rd 0x10000, .rd 0x10004], got := [] }] } }
    s.gate.ops = { kind := .memberRead, todo := .rd 0x10000 :: [.rd 0x10004], got := [] } :: [] ∧
      OpKind.memberRead ≠ .profileRead ∧ [OpWord.rd 0x10004] ≠ [] := by decide
/-- The last word of the results of a member that is not the chain's last. -/
theorem witness_Words_in_order_results :
    let s := withOp live .memberResults (.wr oneWord) []
    s.inReset = false ∧ s.gate.port = some .control ∧
      s.gate.ops = { kind := .memberResults, todo := .wr oneWord :: [], got := [] } :: [] := by decide
def history : State :=
  withOp { live with mem := [(0x907C, 255), (0x907D, 255)] } (.historyRead true 1 .zero 42) (.rd 0x907C) [0, 0, 0]
theorem witness_HistoryRead :
    history.inReset = false ∧ history.gate.port = some .control ∧
      history.gate.ops = { kind := .historyRead true 1 .zero 42, todo := [.rd 0x907C], got := [0, 0, 0] } :: [] ∧
      ([0, 0, 0] : List Word).length = 3 ∧ 65535 = (history.mem.word 0x907C).toNat % 65536 ∧
      0 = (history.mem.word 0x907C).toNat / 65536 ∧ 12 ≤ 0x907C ∧ 1 < 256 := by decide
def logging : State :=
  { live with
    slips := { SlipUnit.reset with logList := [{ seq := 5, todo := [oneWord] }] }
    gate := { Gate.reset with port := some .slipLog } }
theorem witness_SlipLogWord :
    logging.inReset = false ∧ logging.gate.port = some .slipLog ∧
      logging.slips.logList = { seq := 5, todo := oneWord :: [] } :: [] := by decide
theorem test_control_word_done :
    after .controlWordDone (withOp live .freeWrite (.wr oneWord) [])
      (fun t => t.mem.word 0x2B74 == 0x00002211 && t.gate.ops == []) = true := by decide
/-- A count of 65,535 stays (R138, R192). -/
theorem test_history_read_done :
    after .historyReadDone history
      (fun t => t.gate.ops.map (fun o => o.todo.getLast?) ==
        [some (.wr { addr := 0x907C, be := 15, data := 65535 })]) = true := by decide
theorem test_slip_log_word_written :
    after .slipLogWordWritten logging (fun t => t.slips.lastLogged == 5 && t.slips.logList == []) = true := by decide

/-! ## The mailboxes -/

def handedOn (w : MailboxWrite) : State := { live with gate := { Gate.reset with toMailbox := [w] } }
theorem witness_SendActionWrite :
    (handedOn (.send 3)).inReset = false ∧ (handedOn (.send 3)).gate.toMailbox = .send 3 :: [] := by decide
def noted : State := { live with mailbox := { live.mailbox with noted := [0] } }
theorem witness_TakeStart :
    noted.inReset = false ∧ noted.layout.inForce = some lay ∧ noted.mailbox.takeIndex = 0 ∧
      0 ∈ noted.mailbox.noted ∧ noted.layout.load = none ∧ noted.mailbox.backlog = [] ∧
      noted.mailbox.take = none := by decide
theorem witness_TakeStart_not_noted : live.mailbox.takeIndex ∉ live.mailbox.noted := by decide
theorem test_send_action_write :
    after .sendActionWrite (handedOn (.send 3)) (fun t => t.mailbox.noted == [3] && t.gate.toMailbox == []) = true := by
  decide
theorem test_take_start :
    after .takeStart noted
      (fun t => t.mailbox.take.map (·.entryAddr) == some 0x1000 && t.gate.ops.map (·.kind) == [.sendRead 0]) = true := by
  decide

def freed (st : ReturnState) (action : Byte) (backlog : List Completion) : State :=
  { handedOn (.ret 0 action) with
    mailbox := { live.mailbox with slots := [st, .free, .free, .free], attn := st == .full, backlog := backlog } }
theorem witness_ReturnFree_ignored :
    (freed .posting 0 []).gate.toMailbox = .ret 0 0 :: [] ∧
      (freed .posting 0 []).mailbox.slots[0]? ∉ [some ReturnState.full, some .fullQuiet] ∧
      (freed .full 1 []).gate.toMailbox = .ret 0 1 :: [] ∧ (1 : Byte) ≠ 0 ∧ (freed .full 1 []).mailbox.backlog = [] ∧
      (freed .full 1 [loneCompletion 0x10000 .notFound none]).mailbox.slots[
        (freed .full 1 [loneCompletion 0x10000 .notFound none]).mailbox.postIndex]? ≠ some .free := by decide
/-- Slot `n` is freed with two completions in the Backlog, the slot at the post index being slot 1. -/
def freedAt (n : Nat) : State :=
  { handedOn (.ret n 0) with
    mailbox :=
      { live.mailbox with
        slots := [.full, .full, .fullQuiet, .posting], attn := true, postIndex := 1
        backlog := [loneCompletion 0x10000 .notFound none, loneCompletion 0x20000 .notFound none] } }
theorem witness_ReturnFree :
    (∀ n ∈ [0, 1, 2], (freedAt n).inReset = false ∧ (freedAt n).gate.toMailbox = .ret n 0 :: [] ∧
      (freedAt n).mailbox.slots[n]? ∈ [some ReturnState.full, some .fullQuiet]) ∧
      (freedAt 0).mailbox.backlog.length = 2 ∧ (freedAt 0).jobs.state ≠ .mountWait := by decide
/-- R186: the first of two completions goes into the slot just freed, and the other waits; a slot freed elsewhere posts
none. -/
theorem test_return_free :
    after (.returnFreeWrite 0) (freed .full 0 [])
      (fun t => t.mailbox.slots == [.free, .free, .free, .free] && !t.mailbox.attn) = true ∧
    after (.returnFreeWrite 0) (freedAt 1)
      (fun t => t.mailbox.slots == [.full, .posting, .fullQuiet, .posting] && t.mailbox.postIndex == 2
        && t.mailbox.backlog == [loneCompletion 0x20000 .notFound none]) = true ∧
    after (.returnFreeWrite 0) (freedAt 2)
      (fun t => t.mailbox.slots == [.full, .full, .free, .posting] && t.mailbox.backlog.length == 2) = true := by decide
theorem witness_ReturnFree_mount_wait :
    let s := { freed .full 0 [loneCompletion 0x10000 .notFound none] with
      jobs := { jobIn .mountWait .untried with mountLamp := true, lineAtRest := false } }
    s.jobs.state = .mountWait ∧ s.jobs.mount = .fresh ∧ s.jobs.lineAtRest = false := by decide
def startingJob : State :=
  { freed .full 0 [loneCompletion 0x10000 .notFound none] with
    jobs := { jobIn .mountWait .untried with mountLamp := true } }
theorem witness_ReturnFree_first_attempt :
    let s := startingJob
    s.inReset = false ∧ s.gate.toMailbox = .ret 0 0 :: [] ∧
      s.mailbox.backlog = [loneCompletion 0x10000 .notFound none] ∧ 0 = s.mailbox.postIndex ∧
      s.jobs.state = .mountWait ∧ s.jobs.mount = .fresh ∧ s.jobs.lineAtRest = true ∧
      s.jobs.progress.map (·.progress) = [.untried] ∧ s.jobs.endCause = none ∧ s.jobs.startInFlight = none ∧
      s.jobs.attemptInProgress = false ∧ s.drum.state ≠ .latched ∧ s.layout.inForce.isSome = true := by decide
-- R165: the posting and the Directory read of one moment, in both orders.
theorem test_return_free_orders :
    (List.all [(0, [OpKind.posting (some 0) false, .directoryRead true]),
        (1, [.directoryRead true, .posting (some 0) false])] fun p =>
      after (.returnFreeWrite p.1) startingJob (fun t => t.gate.ops.map (·.kind) == p.2)) = true := by decide
def posting (slot : Option Nat) : State :=
  withOp { live with mailbox := { live.mailbox with slots := [.posting, .free, .free, .free], postIndex := 1 } }
    (.posting slot false) (.wr { addr := 0x110C, be := 15, data := 0x04020201 }) []
theorem witness_ReturnPosting :
    (posting (some 0)).inReset = false ∧ (posting (some 0)).gate.port = some .control ∧
      (posting (some 0)).gate.ops =
        { kind := .posting (some 0) false, todo := [.wr { addr := 0x110C, be := 15, data := 0x04020201 }]
          got := [] } :: [] := by decide
theorem test_return_posting_done :
    after .returnPostingDone (posting (some 0))
      (fun t => t.mailbox.slots == [.full, .free, .free, .free] && t.mailbox.attn) = true := by decide

/-! ## Layout and Profile -/

def generationWritten (load : Option Load) : State :=
  { live with
    layout := { live.layout with load := load }, gate := { Gate.reset with toLayout := [.generation] } }
theorem witness_Load_begins :
    (generationWritten none).inReset = false ∧ (generationWritten none).gate.toLayout = .generation :: [] ∧
      (generationWritten none).layout.load = none ∧ (generationWritten (some .block)).layout.load ≠ none := by decide
/-- The words of `lay`'s Layout Block but for the last; word 0 and the Directory count vary. -/
def block (version count : Word) : List Word :=
  [version, 1, 0x1000, 4, 0x1100, 4, 0x2000, 8, 0x6000, 0x7000, 8, 0x8000, 0x9000, count, 0xA000]
def blockRead (version count : Word) (top : Byte) : State :=
  withOp { bare with layout := { LayoutUnit.reset with load := some .block }, mem := [(0x43E, top)] }
    .blockRead (.rd 0x43C) (block version count)
theorem witness_BlockRead :
    let s := blockRead 1 4 0x10
    s.inReset = false ∧ s.gate.port = some .control ∧
      s.gate.ops = { kind := .blockRead, todo := [.rd 0x43C], got := block 1 4 } :: [] ∧
      ((block 1 4 ++ [s.mem.word 0x43C]).getD 0 0).toNat = 1 ∧
      readLayout (block 1 4 ++ [s.mem.word 0x43C]) = lay := by decide
theorem witness_BlockRead_clauses :
    wordAt (block 2 4) 0 ≠ 1 ∧ 32 < (readLayout (block 1 33)).directoryCount ∧
      (readLayout (block 1 4 ++ [(blockRead 1 4 0).mem.word 0x43C])).memoryTop = 0 ∧
      (∀ w ∈ lay.windows, w.1 % 16 = 0) ∧ (∀ w ∈ lay.windows, w.1 + w.2 ≤ lay.memoryTop) := by decide
theorem test_layout_generation_write :
    after .layoutGenerationWrite (generationWritten none)
      (fun t => t.layout.load == some .block && t.gate.ops.map (·.kind) == [.blockRead]) = true := by decide
theorem test_layout_block_read :
    after .layoutBlockRead (blockRead 1 4 0x10)
      (fun t => t.layout.load == some (.profile lay) && t.gate.ops.map (·.kind) == [.profileRead]) = true := by decide
theorem test_layout_block_outside_top :
    after .layoutBlockRead (blockRead 1 4 0)
      (fun t => t.layout.lastReason == some .outsideTop && t.layout.load == none && t.layout.refusals == 1) = true := by
  decide

/-- Word `w` of a Profile Area is in progress; `todo` are the words after it. The duty value 301 in word 0 has
even parity. -/
def profileWord (w : Nat) (todo : List OpWord) : State :=
  { bare with
    layout := { LayoutUnit.reset with load := some (.profile lay) }
    mem := [(0x6000, 0x2D), (0x6001, 1), (0x6003, 0x80)]
    gate :=
      { Gate.reset with
        port := some .control
        ops := [{ kind := .profileRead, todo := .rd (0x6000 + 4 * w) :: todo, got := List.replicate w 0 }] } }
/-- Every word of a load is passed over, captured or refused. -/
theorem witness_WordOfLoad (s : State) (w : Nat) (data : Word) : ∃ p d ly, s.WordOfLoad w data p d ly := by
  by_cases h : ¬ holdsValue w ∨ s.bankGuarded w
  · exact ⟨_, _, _, fun _ => ⟨rfl, rfl, rfl⟩, fun _ h1 h2 => absurd h (by tauto), fun h1 h2 => absurd h (by tauto),
      fun h1 h2 => absurd h (by tauto)⟩
  cases hp : evenParity data with
  | false =>
    exact ⟨_, _, _, fun h1 => absurd h1 h, fun _ _ _ h3 => absurd (hp.symm.trans h3) (by decide),
      fun _ _ _ => ⟨rfl, rfl, rfl⟩, fun _ _ h3 => absurd (hp.symm.trans h3) (by decide)⟩
  | true =>
    cases hc : s.profile.capture w data with
    | some p =>
      refine ⟨p, s.drum.watchPolicies s.profile.drum p.drum s.now, s.layout, fun h1 => absurd h1 h, fun q _ _ _ h4 => ?_,
        fun _ _ h3 => absurd (hp.symm.trans h3) (by decide), fun _ _ _ h4 => by simp [hc] at h4⟩
      obtain rfl : p = q := Option.some.inj (hc.symm.trans h4)
      exact ⟨rfl, s.drum.watchPolicies_watched _ _ _, rfl⟩
    | none =>
      exact ⟨_, _, _, fun h1 => absurd h1 h, fun q _ _ _ h4 => by simp [hc] at h4,
        fun _ _ h3 => absurd (hp.symm.trans h3) (by decide), fun _ _ _ _ => ⟨rfl, rfl, rfl⟩⟩
theorem witness_LoadWord_skipped :
    (profileWord 31 [.rd 0x6080]).gate.ops =
        { kind := .profileRead, todo := .rd 0x607C :: [.rd 0x6080], got := List.replicate 31 0 } :: [] ∧
      (List.replicate 31 (0 : Word)).length = 31 ∧ ¬ (31 ≤ 25 ∨ (32 ≤ 31 ∧ 31 ≤ 47) ∨ (64 ≤ 31 ∧ 31 ≤ 133)) := by
  decide
theorem witness_LoadWord_captured :
    let s := profileWord 0 [.rd 0x6004]
    s.inReset = false ∧ s.gate.port = some .control ∧ s.layout.load = some (.profile lay) ∧
      evenParity (s.mem.word 0x6000) = true ∧ (s.profile.capture 0 (s.mem.word 0x6000)).isSome = true := by decide
/-- The last word, 133: four header characters, all "A". -/
def lastWord (q : List Job) : State :=
  { profileWord 133 [] with
    mem := [(0x6214, 65), (0x6215, 65), (0x6216, 65), (0x6217, 65)]
    jobs := { Jobs.reset with queue := q } }
theorem witness_LoadWord_last :
    (lastWord []).layout.reload = false ∧ (lastWord []).jobs.state = .idle ∧ (lastWord []).jobs.queue = [] ∧
      (lastWord []).mailbox.backlog = [] ∧ evenParity ((lastWord []).mem.word 0x6214) = true ∧
      ((lastWord []).profile.capture 133 ((lastWord []).mem.word 0x6214)).isSome = true ∧
      (lastWord [oneJob]).jobs.queue ≠ [] := by decide
theorem witness_LoadWord_guarded_bank :
    let s := { live with
      gate := { Gate.reset with
        guards := some { base := 0x6180, length := 128, reason := .toneBank, bank := 1 } :: List.replicate 11 none } }
    holdsValue 127 ∧ s.bankGuarded 127 :=
  ⟨Or.inr (Or.inr (by decide)), by decide, by decide, _, List.mem_cons_self, rfl, rfl⟩
theorem test_load_profile_word :
    after .loadProfileWord (profileWord 0 [.rd 0x6004]) (fun t => t.profile.drum.ff60 == 301) = true := by decide +kernel
theorem test_load_accepted :
    after .loadProfileWord (lastWord [])
      (fun t => t.layout.inForce == some lay && t.layout.lastResult == some .accepted
        && t.ring.slots.length == 8 && t.mailbox.slots.length == 4) = true := by decide +kernel

def written (w : Nat) (data : Word) (be : ByteEnables) : State :=
  { live with gate := { Gate.reset with toLayout := [.profile w data be] } }
theorem witness_Captures_partial :
    let s := written 25 0x8000012D 7
    s.inReset = false ∧ s.gate.toLayout = .profile 25 0x8000012D 7 :: [] ∧ (7 : ByteEnables) ≠ 15 ∧ 25 ≤ 25 := by
  decide
theorem witness_Captures_parity :
    ((List.range 32).filter fun i => (0x0000012D : Word).getLsbD i).length % 2 = 1 ∧ 136 ≤ 138 ∧ 138 ≤ 138 := by
  decide
theorem witness_Captures_range :
    ((List.range 32).filter fun i => (0x00000401 : Word).getLsbD i).length % 2 = 0 ∧
      live.profile.capture 0 0x00000401 = none ∧ 23 < (0x00180000 : Word).toNat / 65536 % 256 ∧
      (0 : Word).toNat % 2147483648 ≠ 1 := by decide
theorem witness_Captures_taken :
    (live.profile.capture 133 0x41414141).isSome = true ∧
      ((List.range 32).filter fun i => (0x41414141 : Word).getLsbD i).length % 2 = 0 := by decide
/-- Words that hold no value, and each command at another's word. -/
theorem witness_Captures_no_value :
    (∀ w ∈ [26, 31, 48, 63, 134, 135, 139, 255], ¬ holdsValue w ∧ w ∉ [136, 137, 138]) ∧
      (written 26 0 15).gate.toLayout = .profile 26 0 15 :: [] ∧ Instr.clockSet ≠ .profileCapture := by
  unfold holdsValue
  decide
/-- R177: the ends of ranges, and a code past the last policy. -/
theorem witness_Captured :
    valueAllowed 6 5000 ∧ ¬ valueAllowed 6 0 ∧ valueAllowed 12 0 ∧ ¬ valueAllowed 12 99 ∧ valueAllowed 17 4 ∧
      ¬ valueAllowed 17 5 ∧ valueAllowed 47 0 ∧ ¬ valueAllowed 31 0 ∧ ¬ valueAllowed 48 0 := by
  simp [valueAllowed]
theorem test_profile_capture :
    after .profileCapture (written 0 0x8000012D 15)
      (fun t => t.profile.drum.ff60 == 301 && t.gate.toLayout == []) = true ∧
    after .profileCapture (written 127 0x00FF0081 15)
      (fun t => t.profile.bank1.drop 62 == [129, 255] && t.profile.bank0 == live.profile.bank0) = true := by
  decide +kernel
theorem witness_ClockSet :
    23 = (0x00173B3B : Word).toNat / 65536 % 256 ∧ 59 = (0x00173B3B : Word).toNat / 256 % 256 ∧
      59 = (0x00173B3B : Word).toNat % 256 ∧
      ((List.range 32).filter fun i => (0x00173B3B : Word).getLsbD i).length % 2 = 0 := by decide
theorem witness_ActionWords :
    (0x80000001 : Word).toNat % 2147483648 = 1 ∧
      ((List.range 32).filter fun i => (0x80000001 : Word).getLsbD i).length % 2 = 0 ∧
      (withD (turning .latched 0)).drum.state = .latched ∧ (withD (turning .latched 0)).drum.spinRequest = none ∧
      { turning .latched 0 with spinRequest := some .rpm90 }.spinRequest = some .rpm90 := by decide
theorem test_profile_capture_parity :
    after .profileCapture (written 0 0x0000012D 15)
      (fun t => t.layout.parities == 1 && t.layout.lastRefusalKind == some .parity && t.profile.drum.ff60 == 300)
      = true := by decide
theorem test_clock_set :
    after .clockSet (written 136 0x00173B3B 15)
      (fun t => t.clock.time == { hours := 23, minutes := 59, seconds := 59, isSet := true }) = true := by decide
theorem test_drum_clear :
    after .drumClear { written 137 0x80000001 15 with drum := { turning .latched 0 with flagSlip := true } }
      (fun t => t.drum.state == .stopped && !t.drum.flagSlip) = true := by decide
/-- R19: the SPIN recorded in LATCHED is taken, and R127: a running job's next attempt begins. -/
theorem test_drum_clear_spins :
    after .drumClear { written 137 0x80000001 15 with drum := { turning .latched 0 with spinRequest := some .rpm90 } }
      (fun t => t.drum.state == .ramping && t.drum.target == some .rpm90 && t.drum.ref == 0) = true ∧
    after .drumClear { written 137 0x80000001 15 with drum := turning .latched 0, jobs := jobIn .attempting .untried }
      (fun t => t.drum.state == .stopped && t.jobs.startInFlight == some 0) = true := by decide
theorem test_counter_clear :
    after .counterClear
      { written 138 0x80000001 15 with drum := { Drum.reset with turnErrors := 9 }
                                       layout := { live.layout with parities := 3 } }
      (fun t => t.drum.turnErrors == 0 && t.layout.parities == 0) = true := by decide

/-! ## Reset and the invariants -/

theorem witness_Reset_port :
    let s := draining { addr := 0x500, data := 1, be := 15 }
    s.gate.port = some .hostWrite ∧ s.gate.buffer = { addr := 0x500, data := 1, be := 15 } :: [] ∧
      live.gate.port = none := by decide
theorem witness_Reset_control :
    let s := withOp live .results (.wr oneWord) []
    s.gate.port = some .control ∧ s.gate.ops = { kind := .results, todo := .wr oneWord :: [], got := [] } :: [] := by
  decide
theorem witness_Reset_scan_and_log :
    (scanPort 0 3 (.scanEntry oneWord true)).gate.port = some (.scanEntry oneWord true) ∧
      logging.gate.port = some .slipLog ∧ logging.slips.logList = { seq := 5, todo := oneWord :: [] } :: [] ∧
      (withOp live .memberRead (.rd 0x10000) []).gate.ops =
        { kind := .memberRead, todo := .rd 0x10000 :: [], got := [] } :: [] := by decide
theorem witness_Reset_read :
    let s := { live with gate := { Gate.reset with port := some .hostRead, read := some reading1 } }
    s.gate.read = some reading1 ∧ s.gate.port = some .hostRead ∧ live.gate.read = none := by decide
theorem test_reset_completes_the_word :
    after .reset (draining { addr := 0x500, data := 1, be := 15 })
      (fun t => t.mem.word 0x500 == 1 && t.gate.buffer == [] && t.inReset && t.layout.inForce == none
        -- R55: the count is 0 after reset.
        && t.line.carrier.since == t.crystal) = true := by decide
theorem witness_Release :
    State.reset.inReset = true ∧ State.reset.layout.inForce = none ∧ State.reset.gate.buffer = [] ∧
      (∀ g ∈ State.reset.gate.guards, g = none) := by decide
theorem test_reset_release :
    after .resetRelease State.reset
      (fun t => !t.inReset && t.layout.load == some .block && t.clock.nextTick == some 1000000) = true := by decide
theorem witness_Invariants :
    live.mem.wf = true ∧ (lineS .picture).relayLegal = true ∧ (lineS .picture).sendLampLegal = true ∧
      (freed .full 0 []).attnLegal = true ∧ fullBuffer.bufferLegal = true ∧ live.uptimeLegal = true ∧
      live.noEvents = true := by decide
theorem witness_Invariants_more :
    (withJobs { jobIn .mountWait .untried with mountLamp := true }).lampLegal = true ∧
      (List.replicate 16 oneJob).length ≤ 16 ∧ live.gate.marks.length = 64 ∧ live.noSignals = true ∧
      live.jobs.requestsDue = none ∧ leavesRequests (.stopKey false) = false ∧ leavesRequests (.stopKey true) = true := by
  decide
/-- Slot 2 is filling while slot 1 is sent. -/
def bothSlots : State :=
  { bothTurn with
    ring := { bothTurn.ring with slots := bothTurn.ring.slots.set 2 { state := .filling, frame := 0, line := 3 } } }
theorem witness_SlotsLegal : bothSlots.SlotsLegal := by
  have hb : ∀ (n : Nat) (e : RingSlot), bothSlots.ring.slots[n]? = some e → n < 8 := fun n e h =>
    (List.getElem?_eq_some_iff.mp h).1
  have hf : ∀ n < 8, (bothSlots.ring.slots[n]?.map (·.state)) = some .filling → n = 2 := by decide
  have hs : ∀ n < 8, (bothSlots.ring.slots[n]?.map (·.state)) = some .sending → n = 1 := by decide
  refine ⟨fun n e h hst => ⟨lineOf 3 0 0, rfl, ?_⟩, fun n e h hst => ?_, fun _ => rfl⟩
  · exact (hf n (hb n e h) (by rw [h]; simp [hst])).symm
  · rw [hs n (hb n e h) (by rw [h]; simp [hst])]; rfl
theorem witness_AttemptsLegal : (calling .answerWait).AttemptsLegal := by
  refine ⟨fun n => ?_, by decide, by decide, by decide, fun n => ?_⟩
  · cases n with
    | zero => exact ⟨fun _ => Or.inr (by decide), fun _ => ⟨_, rfl, rfl⟩⟩
    | succ n =>
      exact ⟨fun ⟨d, h, _⟩ => absurd h (by simp [calling, jobIn]), fun h => absurd h (by
        simp [calling, jobIn, lineS, withL, live, bare, State.reset, AttemptRecord.empty, Jobs.reset])⟩
  · cases n with
    | zero => exact ⟨fun h => absurd h (by decide), fun ⟨d, h, hp⟩ => by cases h; exact absurd hp (by decide)⟩
    | succ n =>
      exact ⟨fun h => absurd h (by simp [calling, jobIn, Jobs.reset]),
        fun ⟨d, h, _⟩ => absurd h (by simp [calling, jobIn])⟩
theorem witness_BacklogLegal :
    State.BacklogLegal
      { calling .answerWait with
        mailbox := { live.mailbox with backlog := List.replicate 8 (loneCompletion 0 .notFound none) } } where
  room := by decide
  queued := fun j h => absurd h (by simp [calling, jobIn, Jobs.reset])
  current := fun j h => by cases h; decide
  aborted := fun op h => absurd h (by simp [calling, lineS, withL, live, bare, State.reset, Gate.reset])
  fetching := fun t head members a h => absurd h (by decide +revert)
  takes := by decide
  results := by decide
  causes := fun h => absurd rfl h
theorem witness_ProfileLegal : live.profile.Legal := by
  constructor <;> decide +kernel
theorem witness_step_answers : ∃ t, step live = .next t := ⟨_, rfl⟩

end Sys2Proof.Tests
end

section
/-! PROOFS. The tone path (03_the_tone_path.md): the line level of a BYPASS_TONE frame. -/

namespace Sys2Proof.Machine

/-- In a BYPASS_TONE frame without TEST_WEDGE the line level depends on the level index alone (R48). -/
@[simp] theorem lineLevel_of_bypassTone {f : Frame} (hbypass : f.bypassTone = true) (hwedge : f.testWedge = false)
    (p : Profile) (pair : Nat × Nat) (j sample : Nat) :
    lineLevel p f pair j sample = straightLevel (levelIndex sample pair.1 pair.2) := by
  simp [lineLevel, hbypass, hwedge]

@[simp] theorem straightLevel_zero : straightLevel 0 = 0 := rfl

/-- At the top of the curve the quotient is 255.5, which the floor brings to full white. -/
@[simp] theorem straightLevel_63 : straightLevel 63 = 255 := rfl

@[simp] theorem straightLevel_49 : straightLevel 49 = 198 := rfl

@[simp] theorem straightLevel_32 : straightLevel 32 = 130 := rfl

/-- Settles O19: the level is the straight curve at the level index, and the four values R48 quotes are points of
that curve. -/
theorem bypassToneIsTheStraightCurve : Obligations.BypassToneIsTheStraightCurve := by
  intro p f pair j sample l hbypass hwedge hindex
  have hlevel : lineLevel p f pair j sample = straightLevel l := by
    rw [lineLevel_of_bypassTone hbypass hwedge, hindex]
  rw [hlevel]
  refine ⟨rfl, ?black, ?white, ?fortyNine, ?thirtyTwo⟩
  case black => rintro rfl; exact straightLevel_zero
  case white => rintro rfl; exact straightLevel_63
  case fortyNine => rintro rfl; exact straightLevel_49
  case thirtyTwo => rintro rfl; exact straightLevel_32

end Sys2Proof.Machine
end

section
/-! PROOFS. Destinations, attempts and retries (07_destinations_attempts_and_retries.md): the destination chosen. -/

namespace Sys2Proof.Machine

/-- A destination that is UNTRIED behind none that is one is the first in list order. -/
theorem Jobs.firstUntried_of_split {j : Jobs} {before after : List Dest} {d : Dest}
    (hlist : j.progress = before ++ d :: after) (hbefore : ∀ y ∈ before, y.progress ≠ .untried)
    (hd : d.progress = .untried) : j.firstUntried = some before.length := by
  have hnone : before.findIdx? (·.progress == .untried) = none := by
    simpa [List.findIdx?_eq_none_iff] using hbefore
  simp [Jobs.firstUntried, hlist, List.findIdx?_append, hnone, List.findIdx?_cons, hd]

theorem Jobs.firstUntried_eq_none_iff {j : Jobs} :
    j.firstUntried = none ↔ ∀ d ∈ j.progress, d.progress ≠ .untried := by
  simp [Jobs.firstUntried, List.findIdx?_eq_none_iff]

/-- The due uptime may be the present one. -/
theorem State.headDue_cons {s : State} {n due : Nat} {rest : List (Nat × Nat)}
    (hlist : s.jobs.retryList = (n, due) :: rest) : s.headDue = decide (due ≤ s.clock.uptime) := by
  simp [State.headDue, hlist]

/-- An UNTRIED destination comes before any retry, due or not. -/
theorem State.chosen_of_firstUntried {s : State} {n : Nat} (h : s.jobs.firstUntried = some n) :
    s.chosen = some n := by
  simp [State.chosen, h]

theorem State.chosen_of_retryList_cons {s : State} {n due : Nat} {rest : List (Nat × Nat)}
    (hnone : s.jobs.firstUntried = none) (hlist : s.jobs.retryList = (n, due) :: rest) :
    s.chosen = if due ≤ s.clock.uptime then some n else none := by
  simp [State.chosen, hnone, State.headDue_cons hlist, hlist]

theorem State.chosen_of_retryList_nil {s : State} (hnone : s.jobs.firstUntried = none)
    (hlist : s.jobs.retryList = []) : s.chosen = none := by
  simp [State.chosen, hnone, hlist]

/-- Settles O38: the choice is the first UNTRIED destination where there is one, and is else read off the head of
the Retry List (R128). -/
theorem theNextDestination : Obligations.TheNextDestination := by
  intro s
  refine ⟨fun before d after hlist hbefore hd => ?untried, fun hnone =>
    ⟨fun n due rest hlist => ?head, fun hlist => ?empty⟩⟩
  case untried => exact State.chosen_of_firstUntried (Jobs.firstUntried_of_split hlist hbefore hd)
  case head =>
    have hchosen := State.chosen_of_retryList_cons (Jobs.firstUntried_eq_none_iff.mpr hnone) hlist
    exact ⟨fun hdue => hchosen.trans (if_pos hdue), fun hlater => hchosen.trans (if_neg (Nat.not_le.mpr hlater))⟩
  case empty => exact State.chosen_of_retryList_nil (Jobs.firstUntried_eq_none_iff.mpr hnone) hlist

end Sys2Proof.Machine
end

section
/-! PROOFS. What every step keeps (09_the_memory_path.md; 95_what_each_step_holds.md): commands take no time, leave the
queue alone and keep memory canonical. -/

namespace Sys2Proof.Machine

/-! ## A change that takes no time -/

/-- `t` follows `s` at the same crystal count, with the same commands waiting, and memory stays canonical. -/
structure State.Timeless (s t : State) : Prop where
  pending : t.pending = s.pending
  crystal : t.crystal = s.crystal
  mem : s.mem.wf = true → t.mem.wf = true

theorem State.Timeless.refl (s : State) : s.Timeless s := ⟨rfl, rfl, id⟩

theorem State.Timeless.trans {s t u : State} (a : s.Timeless t) (b : t.Timeless u) : s.Timeless u :=
  ⟨b.pending.trans a.pending, b.crystal.trans a.crystal, b.mem ∘ a.mem⟩

/-- Most effects do not touch memory at all. -/
theorem State.Timeless.of_mem {s t : State} (hp : t.pending = s.pending) (hc : t.crystal = s.crystal)
    (hm : t.mem = s.mem) : s.Timeless t := ⟨hp, hc, fun h => hm ▸ h⟩

theorem finish_timeless (old new : State) : new.Timeless (finish old new) :=
  ⟨by simp, by simp, finish_wf old new⟩

/-- The outcome is a next state that follows `s` at the same count. -/
def State.Answers (s : State) (o : Host.Outcome State Fault Refusal) : Prop := ∃ t, o = .next t ∧ s.Timeless t

/-! ## The forms of a meaning -/

theorem live_timeless {f : State → State} {s : State} (h : s.Timeless (f s)) :
    s.Answers (live f s) := by
  refine ⟨_, rfl, ?_⟩
  split
  · exact .refl s
  · exact h.trans (finish_timeless s _)

theorem when_timeless {due : State → Bool} {f : State → State} {s : State} (h : s.Timeless (f s)) :
    s.Answers (when due f s) := by
  apply live_timeless
  split
  · exact h
  · exact .refl s

theorem State.deliver_timeless (s : State) : s.Timeless s.deliver := .of_mem (by simp) (by simp) (by simp)

theorem whenDeliver_timeless {due : State → Bool} {f : State → State} {s : State} (h : s.Timeless (f s)) :
    s.Answers (whenDeliver due f s) :=
  when_timeless (h.trans (f s).deliver_timeless)

theorem whenLevel_timeless {level : State → State} {due : State → Bool} {f : State → State} {s : State}
    (hl : s.Timeless (level s)) (h : s.Timeless (f s)) :
    s.Answers (whenLevel level due f s) := by
  unfold whenLevel
  split
  · exact ⟨_, rfl, hl⟩
  · exact whenDeliver_timeless h

/-! ## The operations that write memory -/

theorem Op.memDone_wf (mem : Memory) (op : Op) (h : mem.wf = true) : (op.memDone mem).wf = true := by
  unfold Op.memDone
  split
  · exact Memory.write_wf _ _ h
  · exact h

theorem State.controlStep_timeless (s : State) : s.Timeless s.controlStep := by
  refine ⟨by simp, by simp, fun h => ?_⟩
  unfold State.controlStep
  split
  · exact Op.memDone_wf _ _ h
  · exact h

/-- What follows the control requester's word in the same step writes no memory. -/
theorem State.timeless_of_controlStep (s : State) {t : State} (hp : t.pending = s.pending)
    (hc : t.crystal = s.crystal) (hm : t.mem = s.controlStep.mem) : s.Timeless t :=
  s.controlStep_timeless.trans (.of_mem (by simpa using hp) (by simpa using hc) hm)

theorem State.takeEntry_timeless (e : Nat) (s : State) : s.Timeless (s.takeEntry e) :=
  s.timeless_of_controlStep (by simp) (by simp) (by simp [State.takeEntry])

theorem State.drain_timeless (w : HostWrite) (rest : List HostWrite) (s : State) :
    s.Timeless (s.drain w rest) :=
  ⟨by simp, by simp, fun h => by
    rw [State.drain, (State.acceptWaiting_frame _).2.2.2.2.2.2.2.2.2.2.2.2.2.2.1]; exact Memory.write_wf _ _ h⟩

theorem State.scanWrote_timeless (x : Access) (s : State) : s.Timeless (s.scanWrote x) :=
  ⟨by simp, by simp, fun h => Memory.write_wf _ _ h⟩

theorem State.entryWritten_timeless (x : Access) (live : Bool) (s : State) :
    s.Timeless (s.entryWritten x live) := by
  refine (s.scanWrote_timeless x).trans (.of_mem ?_ ?_ ?_) <;> cases live <;> rfl

theorem State.headerWritten_timeless (x : Access) (live : Bool) (s : State) :
    s.Timeless (s.headerWritten x live) := by
  unfold State.headerWritten
  refine (s.scanWrote_timeless x).trans (.of_mem ?_ ?_ ?_) <;> dsimp only <;> (repeat' split) <;> simp

theorem State.tryAction_timeless (w : Nat) (data : Word) (be : ByteEnables) (act : Option (State → State)) (s : State)
    (h : ∀ f, act = some f → s.Timeless (f s)) : s.Timeless (s.tryAction w data be act) := by
  unfold State.tryAction
  split
  · exact .of_mem (by simp) (by simp) (by simp)
  · split
    · exact h _ rfl
    · exact .of_mem (by simp) (by simp) (by simp)

theorem State.popLayout_timeless (s : State) : s.Timeless s.popLayout := .of_mem rfl rfl rfl

theorem State.assertReset_timeless (s : State) : s.Timeless s.assertReset := by
  refine ⟨rfl, rfl, fun h => ?_⟩
  show s.memAtReset.wf = true
  unfold State.memAtReset
  split
  · exact Memory.write_wf _ _ h
  · exact h

/-! ## The commands that write memory or branch on what they find -/

theorem execResetRelease_answers (s : State) : s.Answers (execResetRelease s) := by
  refine ⟨_, rfl, ?_⟩
  split
  · exact .trans (.of_mem (by simp) (by simp) (by simp [State.startClocks])) (finish_timeless s _)
  · exact finish_timeless s s

theorem execScanWordWritten_answers (s : State) : s.Answers (execScanWordWritten s) := by
  apply live_timeless
  split
  · exact s.entryWritten_timeless _ _
  · exact (s.headerWritten_timeless _ _).trans (State.deliver_timeless _)
  · exact .refl s

theorem execHostRead_answers (addr : Addr) (s : State) : s.Answers (execHostRead addr s) := by
  unfold execHostRead
  split
  · refine ⟨_, rfl, .of_mem ?_ ?_ ?_⟩ <;> split <;> rfl
  · exact when_timeless (.of_mem (by simp) (by simp) (by simp))

theorem execHostWrite_answers (addr : Addr) (data : Word) (be : ByteEnables) (s : State) :
    s.Answers (execHostWrite addr data be s) := by
  unfold execHostWrite
  split
  · refine ⟨_, rfl, .of_mem ?_ ?_ ?_⟩ <;> split <;> rfl
  · exact when_timeless (.of_mem (by simp) (by simp) (by simp))

theorem execHostWriteDrain_answers (s : State) : s.Answers (execHostWriteDrain s) := by
  apply live_timeless
  split
  · exact s.drain_timeless _ _
  · exact .refl s

theorem execSlipLogWordWritten_answers (s : State) : s.Answers (execSlipLogWordWritten s) := by
  apply live_timeless
  split
  · exact ⟨rfl, rfl, Memory.write_wf _ _⟩
  · exact .refl s

theorem execAbortedResultsWritten_answers (s : State) : s.Answers (execAbortedResultsWritten s) := by
  apply live_timeless
  split
  · exact s.timeless_of_controlStep (by simp) (by simp) (by simp)
  · exact .refl s

theorem execHistoryReadDone_answers (s : State) : s.Answers (execHistoryReadDone s) := by
  apply live_timeless
  split
  · exact s.timeless_of_controlStep (by simp) (by simp) (by simp)
  · exact .refl s

theorem execReturnPostingDone_answers (s : State) : s.Answers (execReturnPostingDone s) := by
  apply live_timeless
  split
  · exact s.timeless_of_controlStep (by simp) (by simp) (by simp)
  · exact .refl s

theorem execLoadProfileWord_answers (s : State) : s.Answers (execLoadProfileWord s) := by
  apply live_timeless
  split
  · apply s.timeless_of_controlStep <;> dsimp only <;> split <;> simp
  · exact .refl s

theorem execDirectoryReadDone_answers (s : State) : s.Answers (execDirectoryReadDone s) := by
  apply live_timeless
  split
  · exact s.timeless_of_controlStep (by simp) (by simp) (by simp)
  · exact s.controlStep_timeless
  · exact .refl s

theorem execStartEntry_answers (s : State) : s.Answers (execStartEntry s) := by
  apply live_timeless
  split
  next e _ _ _ =>
    split
    · exact (s.takeEntry_timeless e).trans (.of_mem (by simp) (by simp) (by simp))
    · exact .refl s
  · exact .refl s

theorem execAbortEntry_answers (late : Bool) (ahead : Nat) (s : State) :
    s.Answers (execAbortEntry late ahead s) := by
  apply live_timeless
  split
  next e _ _ _ =>
    split
    · exact (s.takeEntry_timeless e).trans (.of_mem (by simp) (by simp) (by simp))
    · exact .refl s
  · exact .refl s

theorem execFreeEntry_answers (s : State) : s.Answers (execFreeEntry s) := by
  apply live_timeless
  split
  next e _ _ _ =>
    split
    · exact (s.takeEntry_timeless e).trans (.of_mem (by simp) (by simp) (by simp))
    · exact .refl s
  · exact .refl s

theorem execBadActionEntry_answers (s : State) : s.Answers (execBadActionEntry s) := by
  apply live_timeless
  split
  next e _ _ _ =>
    split
    · exact (s.takeEntry_timeless e).trans (.of_mem (by simp) (by simp) (by simp))
    · exact .refl s
  · exact .refl s

theorem execJobResultsWritten_answers (s : State) : s.Answers (execJobResultsWritten s) :=
  whenDeliver_timeless (s.timeless_of_controlStep (by simp) (by simp) (by simp))

theorem execTcbMemberRead_answers (s : State) : s.Answers (execTcbMemberRead s) :=
  when_timeless (s.timeless_of_controlStep (by simp) (by simp) (by simp))

theorem execLayoutBlockRead_answers (s : State) : s.Answers (execLayoutBlockRead s) :=
  when_timeless (s.timeless_of_controlStep (by simp) (by simp) (by simp))

/-! ## The other commands, by the form of their meaning

None of their effects touches memory, the queue or the count of the crystal; the frames of the operations say so. -/

/-- An effect that touches neither of the three, whatever case it takes. -/
theorem State.Timeless.of_frames {s t : State}
    (h : t.pending = s.pending ∧ t.crystal = s.crystal ∧ t.mem = s.mem) : s.Timeless t := .of_mem h.1 h.2.1 h.2.2

theorem execTachEvent_answers (cells : Cells) (scanFirst : Bool) (s : State) :
    s.Answers (execTachEvent cells scanFirst s) :=
  live_timeless (.of_mem (by simp) (by simp) (by simp))

theorem execIndexPulse_answers (s : State) : s.Answers (execIndexPulse s) :=
  live_timeless (.of_mem (by simp) (by simp) (by simp))

theorem execRegulationSample_answers (s : State) : s.Answers (execRegulationSample s) := by
  apply live_timeless; apply State.Timeless.of_frames; split <;> simp

theorem execSlotEvent_answers (cell : Sample) (s : State) : s.Answers (execSlotEvent cell s) := by
  apply live_timeless; apply State.Timeless.of_frames; (repeat' split) <;> simp

theorem execPrefetchWordArrived_answers (s : State) : s.Answers (execPrefetchWordArrived s) := by
  apply live_timeless; apply State.Timeless.of_frames; (repeat' split) <;> simp

theorem execToneRecognised_answers (s : State) : s.Answers (execToneRecognised s) := by
  apply live_timeless; apply State.Timeless.of_frames; split <;> simp

theorem execHostReadData_answers (s : State) : s.Answers (execHostReadData s) := by
  apply live_timeless; apply State.Timeless.of_frames; split <;> simp

theorem execSendActionWrite_answers (s : State) : s.Answers (execSendActionWrite s) := by
  apply live_timeless; apply State.Timeless.of_frames; split <;> simp [State.popMailbox]

theorem execReturnFreeWrite_answers (ahead : Nat) (s : State) : s.Answers (execReturnFreeWrite ahead s) := by
  apply live_timeless; apply State.Timeless.of_frames; split <;> simp [State.popMailbox]

theorem execLayoutGenerationWrite_answers (s : State) : s.Answers (execLayoutGenerationWrite s) := by
  apply live_timeless; apply State.Timeless.of_frames; split <;> simp [State.popLayout]

theorem execProfileCapture_answers (s : State) : s.Answers (execProfileCapture s) := by
  apply live_timeless; apply State.Timeless.of_frames; (repeat' split) <;> simp [State.popLayout]

theorem execSlipCharacterEnd_answers (busy : Bool) (s : State) : s.Answers (execSlipCharacterEnd busy s) := by
  unfold execSlipCharacterEnd
  split
  · exact ⟨_, rfl, .of_mem rfl rfl rfl⟩
  · exact live_timeless (.of_mem rfl rfl rfl)

theorem execControlWordDone_answers (s : State) : s.Answers (execControlWordDone s) :=
  when_timeless s.controlStep_timeless

theorem execClockSet_answers (s : State) : s.Answers (execClockSet s) := by
  apply live_timeless
  split
  · split
    · refine s.popLayout_timeless.trans (State.tryAction_timeless _ _ _ _ _ fun f hf => ?_)
      obtain ⟨time, -, rfl⟩ := Option.map_eq_some_iff.mp hf
      exact .of_mem rfl rfl rfl
    · exact .refl s
  · exact .refl s

theorem execDrumClear_answers (s : State) : s.Answers (execDrumClear s) := by
  apply live_timeless
  split
  · split
    · refine s.popLayout_timeless.trans (State.tryAction_timeless _ _ _ _ _ fun f hf => ?_)
      obtain ⟨-, hf⟩ := Option.ite_none_right_eq_some.mp hf
      cases hf
      exact .of_mem (by simp) (by simp) (by simp)
    · exact .refl s
  · exact .refl s

theorem execCounterClear_answers (s : State) : s.Answers (execCounterClear s) := by
  apply live_timeless
  split
  · split
    · refine s.popLayout_timeless.trans (State.tryAction_timeless _ _ _ _ _ fun f hf => ?_)
      obtain ⟨-, hf⟩ := Option.ite_none_right_eq_some.mp hf
      cases hf
      exact .of_mem rfl rfl rfl
    · exact .refl s
  · exact .refl s

theorem exec_answers (c : Instr) (s : State) : s.Answers (exec c s) := by
  cases c with
  | reset => exact ⟨_, rfl, s.assertReset_timeless⟩
  | resetRelease => exact execResetRelease_answers s
  | indexPulse => exact execIndexPulse_answers s
  | tachEvent cells scanFirst => exact execTachEvent_answers cells scanFirst s
  | slipDetected => exact show s.Answers (execSlipDetected s) from whenDeliver_timeless (.of_frames (by simp))
  | regulationSample => exact execRegulationSample_answers s
  | bandEntry => exact show s.Answers (execBandEntry s) from when_timeless (.of_frames (by simp))
  | bandLost => exact show s.Answers (execBandLost s) from whenDeliver_timeless (.of_frames (by simp))
  | parkRestExpiry => exact show s.Answers (execParkRestExpiry s) from when_timeless (.of_frames (by simp))
  | rampTick => exact show s.Answers (execRampTick s) from when_timeless (.of_frames (by simp))
  | spinupTimeout => exact show s.Answers (execSpinupTimeout s) from whenDeliver_timeless (.of_frames (by simp))
  | stallTimeout => exact show s.Answers (execStallTimeout s) from whenDeliver_timeless (.of_frames (by simp))
  | ilimTrip => exact show s.Answers (execIlimTrip s) from when_timeless (.of_frames (by simp))
  | overcurrentDetected => exact show s.Answers (execOvercurrentDetected s) from whenDeliver_timeless (.of_frames (by simp))
  | faultWaitExpiry => exact show s.Answers (execFaultWaitExpiry s) from when_timeless (.of_frames (by simp))
  | drumClear => exact execDrumClear_answers s
  | counterClear => exact execCounterClear_answers s
  | clockSet => exact execClockSet_answers s
  | homingStep => exact show s.Answers (execHomingStep s) from whenDeliver_timeless (.of_frames (by simp))
  | homingFault => exact show s.Answers (execHomingFault s) from whenDeliver_timeless (.of_frames (by simp))
  | positionStep => exact show s.Answers (execPositionStep s) from whenDeliver_timeless (.of_frames (by simp))
  | arrival => exact show s.Answers (execArrival s) from whenDeliver_timeless (.of_frames (by simp))
  | limitAsserted =>
    exact show s.Answers (execLimitAsserted s) from
      whenLevel_timeless (.of_mem rfl rfl rfl) (.of_frames (by simp))
  | homeAsserted =>
    exact show s.Answers (execHomeAsserted s) from
      whenLevel_timeless (.of_mem rfl rfl rfl) (.of_frames (by simp))
  | trackStep => exact show s.Answers (execTrackStep s) from whenDeliver_timeless (.of_frames (by simp))
  | warmUpExpiry => exact show s.Answers (execWarmUpExpiry s) from when_timeless (.of_frames (by simp))
  | referenceSample cell =>
    exact show s.Answers (execReferenceSample cell s) from when_timeless (.of_frames (by simp))
  | slotEvent cell => exact execSlotEvent_answers cell s
  | scanWordWritten => exact execScanWordWritten_answers s
  | prefetchWordArrived => exact execPrefetchWordArrived_answers s
  | carrierToggle => exact show s.Answers (execCarrierToggle s) from when_timeless (.of_frames (by simp))
  | seizeWaitExpiry => exact show s.Answers (execSeizeWaitExpiry s) from when_timeless (.of_frames (by simp))
  | dialBreakEnd => exact show s.Answers (execDialBreakEnd s) from when_timeless (.of_frames (by simp))
  | dialMakeEnd => exact show s.Answers (execDialMakeEnd s) from when_timeless (.of_frames (by simp))
  | loopChange present =>
    exact show s.Answers (execLoopChange present s) from
      whenLevel_timeless (.of_mem rfl rfl rfl) (.of_frames (by simp))
  | loopLoss => exact show s.Answers (execLoopLoss s) from whenDeliver_timeless (.of_frames (by simp))
  | toneWindowEnd crossings =>
    exact show s.Answers (execToneWindowEnd crossings s) from when_timeless (.of_frames (by simp))
  | toneRecognised => exact execToneRecognised_answers s
  | answerTimeout => exact show s.Answers (execAnswerTimeout s) from whenDeliver_timeless (.of_frames (by simp))
  | startToneExpiry => exact show s.Answers (execStartToneExpiry s) from when_timeless (.of_frames (by simp))
  | readyWaitExpiry => exact show s.Answers (execReadyWaitExpiry s) from whenDeliver_timeless (.of_frames (by simp))
  | phasingEnd => exact show s.Answers (execPhasingEnd s) from whenDeliver_timeless (.of_frames (by simp))
  | stopToneExpiry => exact show s.Answers (execStopToneExpiry s) from when_timeless (.of_frames (by simp))
  | releaseGuardExpiry => exact show s.Answers (execReleaseGuardExpiry s) from when_timeless (.of_frames (by simp))
  | startEntry => exact execStartEntry_answers s
  | abortEntry late ahead => exact execAbortEntry_answers late ahead s
  | freeEntry => exact execFreeEntry_answers s
  | badActionEntry => exact execBadActionEntry_answers s
  | tcbMemberRead => exact execTcbMemberRead_answers s
  | clampOpen bandLostFirst late =>
    exact show s.Answers (execClampOpen bandLostFirst late s) from
      whenLevel_timeless (.of_mem rfl rfl rfl) (.of_frames (by simp))
  | clampClose =>
    exact show s.Answers (execClampClose s) from
      whenLevel_timeless (.of_mem rfl rfl rfl) (.of_frames (by simp))
  | stopKey late => exact show s.Answers (execStopKey late s) from whenDeliver_timeless (.of_frames (by simp))
  | jobResultsWritten => exact execJobResultsWritten_answers s
  | abortedResultsWritten => exact execAbortedResultsWritten_answers s
  | parkDelayExpiry => exact show s.Answers (execParkDelayExpiry s) from whenDeliver_timeless (.of_frames (by simp))
  | directoryReadDone => exact execDirectoryReadDone_answers s
  | historyReadDone => exact execHistoryReadDone_answers s
  | clockTick => exact show s.Answers (execClockTick s) from when_timeless (.of_frames (by simp))
  | slipLogWordWritten => exact execSlipLogWordWritten_answers s
  | slipCharacterEnd busy => exact execSlipCharacterEnd_answers busy s
  | slipBusyRelease =>
    exact show s.Answers (execSlipBusyRelease s) from
      whenLevel_timeless (.of_mem rfl rfl rfl) (.of_frames (by simp))
  | paperOut =>
    exact show s.Answers (execPaperOut s) from
      whenLevel_timeless (.of_mem rfl rfl rfl) (.of_frames (by simp))
  | paperPresent =>
    exact show s.Answers (execPaperPresent s) from
      whenLevel_timeless (.of_mem rfl rfl rfl) (.of_frames (by simp))
  | paperReturnExpiry => exact show s.Answers (execPaperReturnExpiry s) from when_timeless (.of_frames (by simp))
  | hostRead addr => exact execHostRead_answers addr s
  | hostReadData => exact execHostReadData_answers s
  | hostWrite addr data be => exact execHostWrite_answers addr data be s
  | hostWriteDrain => exact execHostWriteDrain_answers s
  | controlWordDone => exact execControlWordDone_answers s
  | sendActionWrite => exact execSendActionWrite_answers s
  | takeStart => exact show s.Answers (execTakeStart s) from when_timeless (.of_frames (by simp))
  | returnFreeWrite ahead => exact execReturnFreeWrite_answers ahead s
  | returnPostingDone => exact execReturnPostingDone_answers s
  | layoutGenerationWrite => exact execLayoutGenerationWrite_answers s
  | layoutBlockRead => exact execLayoutBlockRead_answers s
  | loadProfileWord => exact execLoadProfileWord_answers s
  | profileCapture => exact execProfileCapture_answers s
  | pwmPeriodEnd => exact show s.Answers (execPwmPeriodEnd s) from when_timeless (.of_frames (by simp))

/-! ## A step -/

/-- A moment's end leaves the queue and the count alone, and memory canonical. -/
theorem State.endMoment_timeless (s : State) : s.Timeless s.endMoment := by
  unfold State.endMoment
  split
  · exact .trans (.of_mem (by simp) (by simp) (by simp)) (finish_timeless _ _)
  · exact .refl s

theorem State.crystalTick_pending (s : State) : s.crystalTick.pending = s.pending := by
  simpa [State.crystalTick] using s.endMoment_timeless.pending

theorem State.crystalTick_crystal (s : State) : s.crystalTick.crystal = s.crystal + 1 := by
  simpa [State.crystalTick] using s.endMoment_timeless.crystal

theorem State.crystalTick_wf (s : State) (h : s.mem.wf = true) : s.crystalTick.mem.wf = true :=
  finish_wf _ _ (s.endMoment_timeless.mem h)

theorem step_of_nil {s : State} (h : s.pending = []) : step s = .next s.crystalTick := by simp [step, h]

theorem step_of_cons {s : State} {c : Instr} {q : List Instr} (h : s.pending = c :: q) :
    step s = exec c { s with pending := q } := by simp [step, h, State.withPending]

/-- Settles O1: the queue's front is the command that a step runs. -/
theorem stepRunsTheFrontCommand : Obligations.StepRunsTheFrontCommand := fun _ _ _ h => step_of_cons h

/-- Settles O2: `exec_answers` for the commands; on an empty queue the crystal counts, and without requests on their
way the end of a moment is nothing. -/
theorem everyStepAnswers : Obligations.EveryStepAnswers := by
  refine ⟨fun c s => ?command, fun s hs => ⟨_, step_of_nil hs, ?queue, s.crystalTick_crystal, fun hr => ?ends⟩⟩
  case command =>
    obtain ⟨t, ht, hk⟩ := exec_answers c s
    exact ⟨t, ht, hk.pending, hk.crystal⟩
  case queue => rw [s.crystalTick_pending, hs]
  case ends =>
    have hquiet : s.endMoment = s := by simp [State.endMoment, hr]
    exact finish_ends_of (by rw [hquiet])

/-- Settles O57: every command keeps memory canonical (`exec_answers`), and so does a count of the crystal. -/
theorem everyStepKeepsMemoryCanonical : Obligations.EveryStepKeepsMemoryCanonical := by
  intro s t ht hwf
  cases hq : s.pending with
  | nil =>
    rw [step_of_nil hq] at ht
    cases ht
    exact s.crystalTick_wf hwf
  | cons c q =>
    rw [step_of_cons hq] at ht
    obtain ⟨u, hu, hk⟩ := exec_answers c { s with pending := q }
    rw [hu] at ht
    cases ht
    exact hk.mem hwf

/-! ## The reset state -/

theorem straightCurve_le : ∀ v ∈ straightCurve, v ≤ 255 := by decide

theorem Profile.default_banks :
    Profile.default.bank0.length = 64 ∧ Profile.default.bank1.length = 64 ∧
      ∀ v ∈ Profile.default.bank0 ++ Profile.default.bank1, v ≤ 255 :=
  ⟨rfl, rfl, fun v hv => straightCurve_le v ((List.mem_append.mp hv).elim id id)⟩

/-- Settles O60: the reset state meets each invariant. -/
theorem theInvariantsHoldAtReset : Obligations.TheInvariantsHoldAtReset := by
  refine ⟨rfl, rfl, rfl, rfl, by decide, rfl, rfl, rfl, rfl, ?profile, rfl, ?slots, ?attempts, ?backlog⟩
  case profile =>
    constructor
    case banks => exact Profile.default_banks
    all_goals decide
  case slots => constructor <;> simp [State.reset, Ring.reset]
  case attempts => constructor <;> simp [State.reset, Jobs.reset]
  case backlog => constructor <;> simp [State.reset, Jobs.reset, Mailbox.reset, Gate.reset]

/-! ## The take that a late end frees while its entry is still being read -/

/-- An ABORT has left its requests on their way, and its take waits for them; but the read of an entry is still among
the control requester's operations. -/
def lateEndWithReadLeft : State :=
  { State.reset with
    jobs := { Jobs.reset with state := .attempting, endCause := some .aborted, requestsDue := some { freeAhead := some 0 } }
    mailbox := { Mailbox.reset with take := some { entryAddr := 0, stale := false, phase := .aborting } }
    gate := { Gate.reset with ops := [{ kind := .sendRead 0, todo := [.rd 0], got := [] }] } }

theorem lateEndWithReadLeft_attempts : lateEndWithReadLeft.AttemptsLegal := by
  constructor <;> simp [lateEndWithReadLeft, State.reset, Jobs.reset]

theorem lateEndWithReadLeft_backlog : lateEndWithReadLeft.BacklogLegal := by
  constructor
  case fetching => rintro t head members a ⟨⟩ ⟨⟩
  all_goals simp [lateEndWithReadLeft, State.reset, Jobs.reset, Mailbox.reset, Gate.reset, OpKind.ofTake]

/-- The crystal's count ends the take and leaves the read. -/
theorem lateEndWithReadLeft_ticked :
    lateEndWithReadLeft.crystalTick.mailbox.take = none ∧
      (lateEndWithReadLeft.crystalTick.gate.ops.filter fun op => op.kind.ofTake).length = 1 := by
  simp only [State.crystalTick, finish_frame, finish_gate]
  decide

/-- Refutes O59: the Backlog's room is not kept from the state above, whose take the requests of the late end free
while an operation of the take stands. -/
theorem not_everyStepKeepsTheTables : ¬ Obligations.EveryStepKeepsTheTables := by
  intro h
  obtain ⟨-, htables⟩ := h lateEndWithReadLeft _ (step_of_nil rfl)
  obtain ⟨-, -, hbacklog⟩ := htables lateEndWithReadLeft_attempts
  obtain ⟨hlegal, -⟩ := hbacklog lateEndWithReadLeft_backlog
  obtain ⟨htake, hops⟩ := lateEndWithReadLeft_ticked
  have htakes := hlegal.takes
  rw [hops, htake] at htakes
  exact absurd htakes (by decide)

end Sys2Proof.Machine
end

section
/-! PROOFS. The turn measurement (01_the_drum.md, Turn measurement): what a tach event makes of it, and that it
reaches neither the mailboxes nor memory. -/

namespace Sys2Proof.Machine

/-! ## The take in progress across a tach event

Only the requests of an end cause that are on their way end a take (R114); without them the Mailbox Unit stays as it is,
whatever attempt or job ends. -/

/-- Without requests on their way in `s` there are none in `t`, and the Mailbox Unit is the same. -/
def State.TakeKept (s t : State) : Prop :=
  s.jobs.requestsDue = none → t.jobs.requestsDue = none ∧ t.mailbox = s.mailbox

theorem State.TakeKept.refl (s : State) : s.TakeKept s := fun h => ⟨h, rfl⟩

theorem State.TakeKept.trans {s t u : State} (a : s.TakeKept t) (b : t.TakeKept u) : s.TakeKept u := fun h => by
  obtain ⟨ht, hm⟩ := a h
  obtain ⟨hu, hn⟩ := b ht
  exact ⟨hu, hn.trans hm⟩

theorem State.TakeKept.of_eq {s t : State} (h : t.jobs.requestsDue = s.jobs.requestsDue ∧ t.mailbox = s.mailbox) :
    s.TakeKept t := fun hr => ⟨h.1.trans hr, h.2⟩

theorem State.scanStop_requests (s : State) : s.scanStop.jobs.requestsDue = s.jobs.requestsDue := by
  unfold State.scanStop
  split <;> rfl

theorem State.lampOff_requests (s : State) : s.lampOff.jobs.requestsDue = s.jobs.requestsDue :=
  s.scanStop_requests

theorem State.enterFinishing_requests (s : State) :
    s.enterFinishing.jobs.requestsDue = s.jobs.requestsDue := by
  unfold State.enterFinishing
  split
  · simp [State.issueAll_eq]
  · rfl

theorem State.look_requests (s : State) : s.look.jobs.requestsDue = s.jobs.requestsDue := by
  unfold State.look
  (repeat' split) <;> rfl

theorem State.settle_requests (s : State) : s.settle.jobs.requestsDue = s.jobs.requestsDue := by
  unfold State.settle
  dsimp only
  (repeat' split) <;> simp [State.lampOff_requests]

theorem State.finalizeJob_takeKept (cause : Cause) (s : State) : s.TakeKept (s.finalizeJob cause) :=
  .of_eq ⟨by simp [State.finalizeJob, State.enterFinishing_requests, State.lampOff_requests], by simp⟩

theorem State.afterRecord_takeKept (b : Nat) (o : AttemptOutcome) (s : State) : s.TakeKept (s.afterRecord b o) := by
  intro hr
  unfold State.afterRecord
  split
  · simp [hr]
  · split
    · exact State.finalizeJob_takeKept _ _ hr
    · split
      · exact ⟨s.enterFinishing_requests.trans hr, by simp⟩
      · exact ⟨(State.look_requests _).trans (s.settle_requests.trans hr), by simp⟩

theorem Jobs.decide_requests (n up : Nat) (o : AttemptOutcome) (j : Jobs) :
    (j.decide n up o).requestsDue = j.requestsDue := by rw [(Jobs.decide_decided n up o j).rest]

theorem State.takeRecord_takeKept (s : State) : s.TakeKept s.takeRecord := by
  unfold State.takeRecord
  split
  · refine .trans (.of_eq ⟨?_, ?_⟩) (State.afterRecord_takeKept _ _ _) <;>
      simp [State.issueHistory, State.issue_eq, State.scanStop_requests, Jobs.decide_requests, Jobs.mapDest]
  · exact .refl s

theorem State.composeSlip_takeKept (s : State) : s.TakeKept s.composeSlip := .of_eq ⟨rfl, rfl⟩

theorem State.endAttempt_takeKept (o : AttemptOutcome) (d : Detail) (tone : Bool) (s : State) :
    s.TakeKept (s.endAttempt o d tone) := by
  refine .trans ?_ (State.composeSlip_takeKept _)
  refine .trans ?_ (State.takeRecord_takeKept _)
  exact .of_eq ⟨rfl, rfl⟩

/-! ## The Line Unit and the Scan Unit at an INDEX -/

theorem State.sendTurn_takeKept (s : State) : s.TakeKept s.sendTurn := by
  unfold State.sendTurn
  split
  · split <;> exact .of_eq (by simp)
  · exact s.endAttempt_takeKept _ _ _

theorem State.whiteTurn_takeKept (b : Bool) (s : State) : s.TakeKept (s.whiteTurn b) := by
  unfold State.whiteTurn
  split
  · exact .of_eq (by simp)
  · exact s.endAttempt_takeKept _ _ _

theorem State.askFrames_takeKept (b : Bool) (n : Nat) (s : State) : s.TakeKept (State.askFrames b n s) := by
  induction n generalizing s with
  | zero => exact .refl _
  | succ n ih =>
    unfold State.askFrames
    split
    · dsimp only
      split
      · exact .trans (.of_eq (by simp)) (State.endAttempt_takeKept _ _ _ _)
      · exact .trans (.of_eq (by simp)) (ih _)
    · split
      · split
        · exact .trans (.of_eq (by simp)) (State.sendTurn_takeKept _)
        · exact s.endAttempt_takeKept _ _ _
      · exact s.whiteTurn_takeKept b
    · exact s.whiteTurn_takeKept b

theorem State.pictureTurn_takeKept (s : State) : s.TakeKept s.pictureTurn := by
  unfold State.pictureTurn
  split
  · dsimp only
    split
    · exact .trans (.of_eq (by simp)) (State.endAttempt_takeKept _ _ _ _)
    · exact .trans (.of_eq (by simp)) (State.askFrames_takeKept _ _ _)
  · exact s.sendTurn_takeKept

theorem State.nextPhasingTurn_takeKept (s : State) : s.TakeKept s.nextPhasingTurn := by
  unfold State.nextPhasingTurn
  dsimp only
  split
  · exact .of_eq (by simp)
  · split
    · exact .of_eq (by simp)
    · exact .trans (.of_eq (by simp)) (State.endAttempt_takeKept _ _ _ _)

theorem State.lineIndex_takeKept (s : State) : s.TakeKept s.lineIndex := by
  have hclosed : s.TakeKept s.closeTurn := .of_eq (by simp)
  unfold State.lineIndex
  dsimp only
  split
  · split <;> exact .of_eq (by simp)
  · exact hclosed.trans (State.nextPhasingTurn_takeKept _)
  · exact hclosed.trans (State.pictureTurn_takeKept _)
  · exact hclosed.trans (State.askFrames_takeKept _ _ _)
  · exact hclosed

theorem State.scanIndex_takeKept (s : State) : s.TakeKept s.scanIndex := .of_eq (by simp)

theorem State.index_takeKept (b : Bool) (s : State) : s.TakeKept (s.index b) := by
  unfold State.index
  split
  · exact s.scanIndex_takeKept.trans (State.lineIndex_takeKept _)
  · split
    · exact s.lineIndex_takeKept.trans (State.scanIndex_takeKept _)
    · exact s.lineIndex_takeKept

theorem State.tachEvent_takeKept (cells : Cells) (b : Bool) (s : State) : s.TakeKept (s.tachEvent cells b) := by
  unfold State.tachEvent
  dsimp only
  split
  · refine .trans (.of_eq ?_) (State.index_takeKept _ _)
    split <;> simp
  · refine .of_eq ?_
    split <;> simp

/-! ## The events that a tach event gives -/

theorem State.lossTaken_takeKept (s : State) : s.TakeKept s.lossTaken := .of_eq ⟨rfl, rfl⟩

theorem State.takeBandLost_takeKept (s : State) : s.TakeKept s.takeBandLost := by
  unfold State.takeBandLost
  split
  · split
    · exact (s.lossTaken_takeKept.trans (State.endAttempt_takeKept _ _ _ _)).trans (State.lossTaken_takeKept _)
    · exact s.lossTaken_takeKept
  · exact .refl _

theorem State.cut_takeKept (c : Cause) (s : State) : s.TakeKept (s.cut c) := by
  unfold State.cut
  split
  · exact s.endAttempt_takeKept _ _ _
  · split
    · exact s.endAttempt_takeKept _ _ _
    · exact .refl _

theorem State.endJob_takeKept (c : Cause) (b : Bool) (s : State) : s.TakeKept (s.endJob c b) := by
  have hcause : s.TakeKept (s.mapJobs fun j => { j with endCause := some c }) := .of_eq ⟨rfl, rfl⟩
  unfold State.endJob
  refine .trans (.trans hcause ?_) (State.finalizeJob_takeKept c _)
  split
  · split
    · exact (State.takeBandLost_takeKept _).trans (State.cut_takeKept _ _)
    · exact State.takeBandLost_takeKept _
  · split
    · exact State.cut_takeKept _ _
    · exact .refl _

theorem State.endJobAs_mailbox (late : Bool) (c : Cause) (s : State) (h : s.jobs.requestsDue = none) :
    (s.endJobAs late c).mailbox = s.mailbox := by
  unfold State.endJobAs
  split
  · rfl
  · exact (s.endJob_takeKept c false h).2

theorem State.takeCarriageFault_mailbox (s : State) (h : s.jobs.requestsDue = none) :
    s.takeCarriageFault.mailbox = s.mailbox := by
  unfold State.takeCarriageFault
  dsimp only
  split
  · split
    · exact State.endJobAs_mailbox _ _ (s.withCarriage { s.carriage with faultEvent := false }) h
    · rfl
  · rfl

theorem State.endFrame_requests (s : State) : s.endFrame.jobs.requestsDue = s.jobs.requestsDue := by
  simp [State.endFrame, Jobs.keepSig]

theorem State.takeTruncation_requests (s : State) : s.takeTruncation.jobs.requestsDue = s.jobs.requestsDue := by
  unfold State.takeTruncation State.truncateFrame
  (repeat' split) <;> simp [State.endFrame_requests]

theorem State.deliver_mailbox (s : State) (h : s.jobs.requestsDue = none) : s.deliver.mailbox = s.mailbox := by
  have harrived : s.takeTruncation.takeArrival.jobs.requestsDue = none := by
    simpa [State.takeTruncation_requests] using h
  obtain ⟨hlost, hmailbox⟩ := State.takeBandLost_takeKept _ harrived
  rw [State.deliver, State.takeCarriageFault_mailbox _ hlost, hmailbox]
  simp

/-! ## What a tach event makes of the turn -/

theorem execIndexPulse_ends (s : State) (h : s.inReset = false) :
    ∃ t, exec .indexPulse s = .next t ∧ State.Ends { s with drum := { s.drum with indexArmed := true } } t :=
  ⟨_, live_awake _ s h, finish_ends _ _⟩

theorem Drum.sampleTach_turn (t : Nat) (d : Drum) : d.SameTurn (d.sampleTach t) := by
  unfold Drum.sampleTach
  (repeat' split) <;> exact ⟨rfl, rfl, rfl, rfl, rfl, rfl, rfl⟩

theorem Drum.slipTach_turn (p : DrumProfile) (d : Drum) : d.SameTurn (d.slipTach p) := by
  unfold Drum.slipTach
  split <;> exact ⟨rfl, rfl, rfl, rfl, rfl, rfl, rfl⟩

/-- Of the parts of a tach event only `Drum.turnTach` changes the turn. -/
theorem Drum.tach_turn (p : DrumProfile) (t : Nat) (d : Drum) : (d.turnTach t).SameTurn (d.tach p t) := by
  have htimers : ∀ e : Drum, e.SameTurn (e.timersTach t) := fun e => ⟨rfl, rfl, rfl, rfl, rfl, rfl, rfl⟩
  exact ((Drum.sampleTach_turn t _).trans (htimers _)).trans (Drum.slipTach_turn p _)

/-! The interval that comes next, case by case (R1), and what the turn is then. -/

theorem Drum.nextInterval_of_armed {d : Drum} (h : d.indexArmed = true) :
    d.nextInterval = (some 0, d.synced && d.interval != some 255) := by simp [Drum.nextInterval, h]

theorem Drum.nextInterval_of_last {d : Drum} (h : d.indexArmed = false) (hs : d.synced = true)
    (hi : d.interval = some 255) : d.nextInterval = (some 0, true) := by simp [Drum.nextInterval, h, hs, hi]

theorem Drum.nextInterval_of_lt {d : Drum} {n : Nat} (h : d.indexArmed = false) (hs : d.synced = true)
    (hi : d.interval = some n) (hn : n < 255) : d.nextInterval = (some (n + 1), false) := by
  unfold Drum.nextInterval
  simp only [h, hs, hi, Bool.false_eq_true, if_false, if_true]
  split
  case h_1 hlast => exact absurd (Option.some.inj hlast) (Nat.ne_of_lt hn)
  · simp_all
  · simp_all

theorem Drum.nextInterval_of_unsynced {d : Drum} (h : d.indexArmed = false) (hs : d.synced = false) :
    d.nextInterval = (none, false) := by simp [Drum.nextInterval, h, hs]

theorem Drum.turnTach_of_zero (t : Nat) {d : Drum} {err : Bool} (h : d.nextInterval = (some 0, err)) :
    (d.turnTach t).interval = some 0 ∧ (d.turnTach t).indexArmed = false ∧ (d.turnTach t).synced = true ∧
      (d.turnTach t).turnErrors = if err = true then min (d.turnErrors + 1) 65535 else d.turnErrors := by
  cases hu : d.lastTach <;> simp_all [Drum.turnTach, Drum.endedLength, Drum.nextInterval, satInc, satAdd]

theorem Drum.turnTach_of_succ (t : Nat) {d : Drum} {n : Nat} (h : d.nextInterval = (some (n + 1), false)) :
    (d.turnTach t).interval = some (n + 1) ∧ (d.turnTach t).indexArmed = d.indexArmed ∧
      (d.turnTach t).synced = d.synced ∧ (d.turnTach t).turnErrors = d.turnErrors := by
  cases hu : d.lastTach <;> simp_all [Drum.turnTach, Drum.endedLength, Drum.nextInterval]

theorem Drum.turnTach_of_none (t : Nat) {d : Drum} (h : d.nextInterval = (none, false)) :
    (d.turnTach t).interval = d.interval ∧ (d.turnTach t).indexArmed = d.indexArmed ∧
      (d.turnTach t).synced = d.synced ∧ (d.turnTach t).turnErrors = d.turnErrors := by
  cases hu : d.lastTach <;> simp_all [Drum.turnTach, Drum.endedLength, Drum.nextInterval]

theorem Drum.turnTach_lengths (t : Nat) {d : Drum} {u : Nat} (h : d.lastTach = some u) :
    (d.turnTach t).lenLast = min 4000000 (t - u) ∧ (d.turnTach t).lenPrev = d.lenLast := by
  unfold Drum.turnTach
  simp only [Drum.endedLength, h, Option.map_some]
  split <;> exact ⟨rfl, rfl⟩

theorem exec_tachEvent (cells : Cells) (b : Bool) {s : State} (h : s.inReset = false) :
    exec (.tachEvent cells b) s = .next (finish s (s.tachEvent cells b).deliver) :=
  live_awake (fun s => (s.tachEvent cells b).deliver) s h

/-- The Regulator's turn at the end of a tach event's step. -/
theorem State.tachStep_turn (cells : Cells) (b : Bool) (s : State) :
    (s.drum.turnTach s.now).SameTurn (finish s (s.tachEvent cells b).deliver).drum := by
  rw [(finish_frame _ _).2.2.1]
  exact (Drum.tach_turn _ _ _).trans (s.tachEvent_turn cells b)

theorem State.tachStep_mailbox (cells : Cells) (b : Bool) (s : State) (h : s.jobs.requestsDue = none) :
    (finish s (s.tachEvent cells b).deliver).mailbox = s.mailbox := by
  obtain ⟨hquiet, hmailbox⟩ := s.tachEvent_takeKept cells b h
  rw [(finish_frame _ _).2.2.2.2.2.2.2.2.2.2.2.2.2.1, State.deliver_mailbox _ hquiet, hmailbox]

theorem State.tachStep_frame (cells : Cells) (b : Bool) (s : State) :
    (finish s (s.tachEvent cells b).deliver).clock = s.clock ∧
      (finish s (s.tachEvent cells b).deliver).profile = s.profile ∧
      (finish s (s.tachEvent cells b).deliver).layout = s.layout ∧
      (finish s (s.tachEvent cells b).deliver).pending = s.pending ∧
      ∀ a, s.statusByte a = false → (finish s (s.tachEvent cells b).deliver).mem.byte a = s.mem.byte a := by
  refine ⟨by simp, by simp, by simp, by simp, fun a ha => ?_⟩
  have hlayout : (s.tachEvent cells b).deliver.layout = s.layout := by simp
  have hmem : (s.tachEvent cells b).deliver.mem = s.mem := by simp
  rw [(finish_ends s _).mem a (by rw [State.statusByte, hlayout]; exact ha), hmem]

/-- Settles O3: by `Drum.tach_turn` and `State.tachEvent_turn` the turn after a tach event is that of `Drum.turnTach`,
whose cases are those of the interval that comes next. -/
theorem tachEventNumbersTheIntervals : Obligations.TachEventNumbersTheIntervals := by
  refine ⟨execIndexPulse_ends, fun cells scanFirst s hs => ⟨_, exec_tachEvent cells scanFirst hs, ?_⟩⟩
  have hturn := s.tachStep_turn cells scanFirst
  have hmailbox := s.tachStep_mailbox cells scanFirst
  obtain ⟨hclock, hprofile, hlayout, hpending, hmem⟩ := s.tachStep_frame cells scanFirst
  generalize finish s (s.tachEvent cells scanFirst).deliver = t at *
  rw [hturn.interval, hturn.armed, hturn.synced, hturn.turnErrors, hturn.lenLast, hturn.lenPrev]
  refine ⟨fun ha => ?armed, fun ha hy hi => ?last, fun n ha hy hi hn => ?next, fun ha hy => ?unsynced,
    fun u hu => Drum.turnTach_lengths _ hu, hclock, hprofile, hlayout, hmailbox, hpending, hmem⟩
  case armed => simpa using Drum.turnTach_of_zero s.now (Drum.nextInterval_of_armed ha)
  case last => simpa using Drum.turnTach_of_zero s.now (Drum.nextInterval_of_last ha hy hi)
  case next => simpa [ha, hy] using Drum.turnTach_of_succ s.now (Drum.nextInterval_of_lt ha hy hi hn)
  case unsynced => simpa [ha, hy] using Drum.turnTach_of_none s.now (Drum.nextInterval_of_unsynced ha hy)

end Sys2Proof.Machine
end

section
/-! PROOFS. A tach event of a synchronised turn, whole (01_the_drum.md, Turn measurement; R2, R22, R23, R44, R89). -/

namespace Sys2Proof.Machine

/-- The state in which a tach event's interval or turn begins: what was due has fallen, and the Regulator and the
reference moment have had the event. -/
def State.tached (cells : Cells) (n : Nat) (drum : Drum) (s : State) : State :=
  { s.closeInterval cells with
    drum := drum
    scan :=
      { (if n = 11 then (s.closeInterval cells).scan.paired else (s.closeInterval cells).scan) with refTaken := false }
    line := { (s.closeInterval cells).line with slotsFallen := 0 } }

theorem State.tached_quiet {cells : Cells} {n : Nat} {drum : Drum} {s : State} (h : s.noEvents = true)
    (hdrum : drum.bandLostSignal = s.drum.bandLostSignal) :
    (s.tached cells n drum).carriage.arrivalEvent = false ∧ (s.tached cells n drum).carriage.truncationEvent = false ∧
      (s.tached cells n drum).carriage.faultEvent = false ∧ (s.tached cells n drum).drum.bandLostSignal = false := by
  obtain ⟨ha, ht, hf, hb, -⟩ := s.noEvents_iff.1 h
  have hc : (s.tached cells n drum).carriage = s.carriage := by simp [State.tached]
  rw [hc]
  exact ⟨ha, ht, hf, hdrum.trans hb⟩

theorem State.tachEvent_eq (cells : Cells) (b : Bool) (s : State) {n : Nat} {isIndex : Bool} {drum : Drum}
    (hi : s.drum.interval = some n) (hnext : s.drum.indexNext = isIndex)
    (hdrum : s.drum.tach s.profile.drum s.now = drum) :
    s.tachEvent cells b =
      if isIndex = true then (s.tached cells n drum).index b else (s.tached cells n drum).phasingWhite := by
  have hd : (s.closeInterval cells).drum = s.drum := by simp
  have hp : (s.closeInterval cells).profile = s.profile := by simp
  have hn : (s.closeInterval cells).now = s.now := by simp [State.now]
  unfold State.tachEvent
  simp only [hd, hi, hnext, State.mapDrum_eq, hp, hn, hdrum, Option.some.injEq]
  have hw : ∀ x : State, x = s.tached cells n drum →
      (if isIndex = true then x.index b else x.phasingWhite) =
        if isIndex = true then (s.tached cells n drum).index b else (s.tached cells n drum).phasingWhite := by
    rintro x rfl; rfl
  apply hw
  unfold State.tached
  split
  · rw [← Scan.refMoment_paired]; rfl
  · rfl

/-- White begins at the interval 8 of a phasing turn (R89); elsewhere the interval begins without more. -/
theorem State.tached_white (cells : Cells) (s : State) {n : Nat} {drum : Drum} (hi : s.drum.interval = some n)
    (hdrum : drum.interval = some (n + 1)) :
    (s.tached cells n drum).phasingWhite =
      if n = 7 ∧ s.line.state = .phasing then (s.tached cells n drum).toned s.line.hWhite else s.tached cells n drum := by
  have hinterval : (s.tached cells n drum).drum.interval = some 8 ↔ n = 7 := by
    show drum.interval = some 8 ↔ _
    rw [hdrum, Option.some.injEq]
    omega
  unfold State.phasingWhite
  by_cases hn : n = 7
  · obtain ⟨hbefore, -, -⟩ := State.closeInterval_spec cells s n hi
    have hline : (s.tached cells n drum).line = { s.line with slotsFallen := 0 } := by
      simp [State.tached, hbefore (by omega)]
    have hstate : (s.tached cells n drum).line.state = s.line.state := by rw [hline]
    have hwhite : (s.tached cells n drum).line.hWhite = s.line.hWhite := by rw [hline]
    rw [hstate, hwhite, State.tone_eq]
    simp only [hinterval, and_comm]
  · simp [hinterval, hn]

/-- A new interval gives no event: only the step's end follows. -/
theorem State.tached_interval_ends (old : State) (cells : Cells) (s : State) {n : Nat} {drum : Drum}
    (h : s.noEvents = true) (hi : s.drum.interval = some n) (hdrum : drum.interval = some (n + 1))
    (hsignal : drum.bandLostSignal = s.drum.bandLostSignal) :
    State.Ends
      (if n = 7 ∧ s.line.state = .phasing then (s.tached cells n drum).toned s.line.hWhite else s.tached cells n drum)
      (finish old (s.tached cells n drum).phasingWhite.deliver) := by
  obtain ⟨ha, ht, hf, hb⟩ := State.tached_quiet (cells := cells) (n := n) h hsignal
  rw [← State.tached_white cells s hi hdrum]
  refine finish_ends_of (State.deliver_none _ ?_ ?_ ?_ ?_) <;> simpa

/-- A new turn gives at most a limit-truncation and the BAND_LOST of a drum that the attempt's end parks. -/
theorem State.tached_index_ends (old : State) (cells : Cells) (b : Bool) (s : State) {n : Nat} {drum : Drum}
    (h : s.noEvents = true) (hsignal : drum.bandLostSignal = s.drum.bandLostSignal) :
    ∃ x, State.Indexed b (s.tached cells n drum) x ∧
      (x.carriage.truncationEvent = false →
        State.Ends { x with drum := { x.drum with bandLostSignal := false } }
          (finish old ((s.tached cells n drum).index b).deliver)) ∧
      (x.carriage.truncationEvent = true →
        ∃ y, State.Truncated { x with carriage := { x.carriage with truncationEvent := false } } y ∧
          State.Delivered { y with drum := { y.drum with bandLostSignal := false } }
            (finish old ((s.tached cells n drum).index b).deliver)) := by
  obtain ⟨ha, ht, hf, hb⟩ := State.tached_quiet (cells := cells) (n := n) h hsignal
  generalize s.tached cells n drum = w at *
  obtain ⟨harrival, hfault, hlost⟩ := w.index_quiet b
  refine ⟨_, w.index_indexed b, fun hx => finish_ends_of (w.index_delivers b ha hf hb hx), fun hx => ?_⟩
  obtain ⟨y, hy, -, hdelivered⟩ := State.truncate_delivers old (w.index b) (harrival.trans ha) hx
    fun hs => (hlost hs).resolve_left (by simp [hb])
  exact ⟨y, hy, hdelivered⟩

/-- Settles O4: `State.tachEvent_eq` gives the state in which the interval or turn begins; the two lemmas above say
what follows it. -/
theorem tachEventsInFull : Obligations.TachEventsInFull := by
  intro cells scanFirst s n u len isIndex exceeds drum hawake hsynced hi hu hlen hindex hexceeds hdrum
  obtain ⟨hnext, htach⟩ :=
    Drum.tach_eq s.profile.drum s.now s.drum n u len isIndex exceeds hsynced hi hu hlen hindex hexceeds
  obtain ⟨hbefore, hnone, hslots⟩ := State.closeInterval_spec cells s n hi
  have hevent := State.tachEvent_eq cells scanFirst s hi hnext (htach.trans hdrum.symm)
  have hinterval : drum.interval = if isIndex = true then some 0 else some (n + 1) := by rw [hdrum]
  have hsignal : drum.bandLostSignal = s.drum.bandLostSignal := by rw [hdrum]
  have hquiet := State.awake_noEvents hawake
  refine ⟨_, s.tached cells n drum, _, exec_tachEvent cells scanFirst (State.awake_inReset hawake), hbefore, hnone,
    hslots, rfl, fun hn => ?interval, fun hn => ?turn⟩
  case interval =>
    have hno : ¬ isIndex = true := by simp [hn]
    rw [hevent, if_neg hno]
    exact State.tached_interval_ends s cells s hquiet hi (hinterval.trans (if_neg hno)) hsignal
  case turn =>
    rw [hevent, if_pos hn]
    exact State.tached_index_ends s cells scanFirst s hquiet hsignal

end Sys2Proof.Machine
end

section
/-! PROOFS. The Drum Regulator (01_the_drum.md): regulation samples, ramping, the motor drive and the faults. -/

namespace Sys2Proof.Machine

/-! ## A closed sample (R3, R8, R9, R11, R12) -/

theorem speedOf_of_pos {pm : Nat} (h : 0 < pm) : speedOf pm = (150000000 + pm) / (2 * pm) := by
  simp [speedOf, Nat.ne_of_gt h]

theorem Drum.targetRef_of_target {d : Drum} {v : Speed} (h : d.target = some v) : d.targetRef = v.ref := by
  simp [Drum.targetRef, h]

theorem inBandSample_eq (p : DrumProfile) (e : Int) : inBandSample p e = decide (|e| ≤ (p.band : Int)) := by
  exact decide_eq_decide.mpr (by rw [Int.abs_eq_natAbs, Nat.cast_le])

theorem exec_regulationSample {s : State} {pm : Nat} (h : s.inReset = false) (hc : s.drum.closedSample = some pm) :
    exec .regulationSample s = .next (finish s { s with drum := s.drum.takeSample s.profile.drum s.now pm }) := by
  show execRegulationSample s = _
  rw [execRegulationSample, live_awake _ s h]
  simp only [hc]
  rfl

/-- A sample of the closed loop (R11, R12): the loop's terms, and the band tracking of the state it is taken in. -/
theorem Drum.closedLoop_eq (p : DrumProfile) (t pm : Nat) (d : Drum) (v : Speed) (e i q : Int) (duty : Nat)
    (hv : d.target = some v) (he : e = pm - v.period) (hi : i = max (-65535) (min (d.integral + e) 65535))
    (hq : q = (p.kp * e + p.ki * i).tdiv 1024)
    (hduty : (duty : Int) = max 0 (min (feedForward p v.ref + q) p.dutyMax))
    (hs : d.state = .settling ∨ d.state = .inBand ∨ d.state = .bandWarning) :
    d.closedLoop p t pm =
      { d with
        integral := i, duty := duty
        stallTimer :=
          if duty = 0 then none
          else if d.duty = 0 then (if p.stallPolicy = .off then none else some t)
          else d.stallTimer
        state :=
          if d.state = .inBand ∧ (p.band : Int) < |e| then .bandWarning
          else if d.state = .bandWarning ∧ |e| ≤ (p.band : Int) then .inBand
          else d.state
        inBandCount :=
          if d.state = .settling then (if |e| ≤ (p.band : Int) then d.inBandCount + 1 else 0) else d.inBandCount
        outOfBandRun :=
          if d.state = .inBand ∧ (p.band : Int) < |e| then 1
          else if d.state = .bandWarning then (if |e| ≤ (p.band : Int) then 0 else d.outOfBandRun + 1)
          else d.outOfBandRun
        lossDue :=
          decide (d.state = .bandWarning ∧ (p.band : Int) < |e| ∧ p.lossLimit ≤ d.outOfBandRun + 1) } := by
  have hperiod : ((pm : Int) - ((d.target.map Speed.period).getD 0 : Nat)) = e := by simp [hv, he]
  have hd : (clampInt 0 p.dutyMax ((feedForward p d.targetRef : Int) + q)).toNat = duty := by
    rw [Drum.targetRef_of_target hv, clampInt, ← hduty, Int.toNat_natCast]
  unfold Drum.closedLoop
  simp only [hperiod, clampInt, ← hi, ← hq]
  rw [clampInt] at hd
  rw [hd, inBandSample_eq]
  by_cases hband : |e| ≤ (p.band : Int)
  · have hnot : ¬ (p.band : Int) < |e| := not_lt.mpr hband
    rcases hs with hs | hs | hs <;> simp [Drum.setDuty, Drum.trackBand, Drum.losesBand, hs, hband, hnot]
  · have hout : (p.band : Int) < |e| := not_le.mp hband
    rcases hs with hs | hs | hs <;> simp [Drum.setDuty, Drum.trackBand, Drum.losesBand, hs, hband, hout]

theorem stairPeriod_eq (step : Nat) : stairPeriod step = (150000000 + step) / (2 * step) := rfl

theorem Drum.takeSample_of_closedLoop {d : Drum} (p : DrumProfile) (t pm : Nat)
    (h : d.state = .settling ∨ d.state = .inBand ∨ d.state = .bandWarning) :
    d.takeSample p t pm = ({ d with closedSample := none, measured := speedOf pm } : Drum).closedLoop p t pm := by
  rcases h with h | h | h <;> simp [Drum.takeSample, h]

theorem Drum.takeSample_of_staircase {d : Drum} (p : DrumProfile) (t pm : Nat) (h : d.state = .ramping)
    (hm : d.rampMode = .staircase) :
    d.takeSample p t pm = ({ d with closedSample := none, measured := speedOf pm } : Drum).stairSample p t pm := by
  simp [Drum.takeSample, h, hm]

theorem Drum.takeSample_elsewhere {d : Drum} (p : DrumProfile) (t pm : Nat)
    (h : d.state ∈ [.stopped, .faultWait, .latched, .parking] ∨ (d.state = .ramping ∧ d.rampMode = .linear)) :
    d.takeSample p t pm = { d with closedSample := none, measured := speedOf pm } := by
  rcases h with h | ⟨h, hm⟩
  · simp only [List.mem_cons, List.not_mem_nil, or_false] at h
    rcases h with h | h | h | h <;> simp [Drum.takeSample, h]
  · simp [Drum.takeSample, h, hm]

/-- A sample that qualifies takes the next step, and one that does not holds the present one (R9). -/
theorem Drum.stairSample_step {d : Drum} {p : DrumProfile} {t pm next : Nat} {v : Speed} (hv : d.target = some v)
    (hq : 100 * ((pm : Int) - stairPeriod d.ref).natAbs ≤ p.hold * stairPeriod d.ref)
    (hn : StairStep p d.ref v.ref next) :
    d.stairSample p t pm =
      Drum.dutied p t (min (feedForward p next) p.dutyMax)
        { d with
          ref := next, state := if next = v.ref then .settling else d.state
          integral := if next = v.ref then 0 else d.integral
          inBandCount := if next = v.ref then 0 else d.inBandCount
          rampTick := if next = v.ref then none else d.rampTick } := by
  rw [Drum.stairSample, if_pos (by simpa [stairQualifies] using hq), Drum.takeStair_eq p t next v d hv hn]

theorem Drum.stairSample_hold {d : Drum} {p : DrumProfile} {t pm : Nat}
    (hq : p.hold * stairPeriod d.ref < 100 * ((pm : Int) - stairPeriod d.ref).natAbs) :
    d.stairSample p t pm = Drum.dutied p t (min (feedForward p d.ref) p.dutyMax) d := by
  rw [Drum.stairSample, if_neg (by simpa [stairQualifies] using hq)]
  rfl

/-- Settles O5: by the state that the sample is taken in, the closed loop, the stair step or nothing more. -/
theorem regulationSamples : Obligations.RegulationSamples := by
  refine ⟨?closed, ?stair, ?elsewhere⟩
  case closed =>
    intro s v pm h hv hc hpm hs e i q duty he hi hq hduty
    refine ⟨_, exec_regulationSample h hc, finish_ends_of ?_⟩
    have hloop := Drum.closedLoop_eq s.profile.drum s.now pm { s.drum with closedSample := none, measured := speedOf pm }
      v e i q duty hv he hi hq hduty hs
    rw [Drum.takeSample_of_closedLoop _ _ _ hs, hloop, speedOf_of_pos hpm]
  case stair =>
    intro s v pm next period h hs hm hv hc hpm hperiod
    rw [← stairPeriod_eq] at hperiod
    refine ⟨fun hq hn => ⟨_, exec_regulationSample h hc, finish_ends_of ?_⟩,
      fun hq => ⟨_, exec_regulationSample h hc, finish_ends_of ?_⟩⟩
    · have hstep := Drum.stairSample_step (d := { s.drum with closedSample := none, measured := speedOf pm })
        (t := s.now) hv (by rwa [hperiod] at hq) hn
      rw [Drum.takeSample_of_staircase _ _ _ hs hm, hstep, speedOf_of_pos hpm]
      simp only [hs]
    · have hhold := Drum.stairSample_hold (d := { s.drum with closedSample := none, measured := speedOf pm })
        (t := s.now) (by rwa [hperiod] at hq)
      rw [Drum.takeSample_of_staircase _ _ _ hs hm, hhold, speedOf_of_pos hpm]
  case elsewhere =>
    intro s pm h hc hpm hs
    refine ⟨_, exec_regulationSample h hc, finish_ends_of ?_⟩
    rw [Drum.takeSample_elsewhere _ _ _ hs, speedOf_of_pos hpm]

/-! ## The band (R12) -/

/-- Settles O6. -/
theorem bandEntryAndBandLost : Obligations.BandEntryAndBandLost := by
  intro s hawake
  have hreset := State.awake_inReset hawake
  obtain ⟨ha, ht, hf, hb, -⟩ := s.noEvents_iff.1 (State.awake_noEvents hawake)
  refine ⟨fun ⟨hs, hc⟩ => ?entry, fun ⟨hs, hl, hsend⟩ => ?lost⟩
  case entry =>
    exact ⟨_, when_due _ _ s hreset (by simp [State.bandEntryDue, hs, hc]), finish_ends _ _⟩
  case lost =>
    refine ⟨_, whenDeliver_due _ _ s hreset (by simp [State.bandLossDue, hs, hl]), finish_ends_of ?_⟩
    simp [State.deliver, State.takeTruncation, State.takeArrival, State.takeBandLost, State.takeCarriageFault,
      Drum.loseBand, freshSpinUp, ha, ht, hf, hb, hsend, State.withDrum]

/-! ## Ramping (R6 to R10, R18) -/

/-- The curve between two of its points stays above 0 (R7), so that the floor loses nothing. -/
theorem curve_nonneg {a b : Nat} {x : Int} (h0 : 0 ≤ x) (h1 : x ≤ 300) :
    0 ≤ (a : Int) + ((b : Int) - a) * x / 300 := by
  have hfall : -(a : Int) * 300 ≤ ((b : Int) - a) * x := by nlinarith [Int.natCast_nonneg a, Int.natCast_nonneg b]
  have := Int.ediv_le_ediv (by norm_num : (0 : Int) < 300) hfall
  rw [Int.mul_ediv_cancel _ (by norm_num)] at this
  linarith

theorem feedForward_low (p : DrumProfile) {ref : Nat} (h : ref ≤ 600) : feedForward p ref = p.ff60 * ref / 600 :=
  if_pos h

theorem feedForward_mid (p : DrumProfile) {ref : Nat} (h : 600 ≤ ref) (h' : ref ≤ 900) :
    (feedForward p ref : Int) = p.ff60 + ((p.ff90 : Int) - p.ff60) * ((ref : Int) - 600) / 300 := by
  rcases Nat.eq_or_lt_of_le h with rfl | hlt
  · simp [feedForward]
  · rw [feedForward, if_neg (by omega), if_pos h', Int.toNat_of_nonneg (curve_nonneg (by omega) (by omega))]

theorem feedForward_high (p : DrumProfile) {ref : Nat} (h : 900 ≤ ref) (h' : ref ≤ 1200) :
    (feedForward p ref : Int) = p.ff90 + ((p.ff120 : Int) - p.ff90) * ((ref : Int) - 900) / 300 := by
  rcases Nat.eq_or_lt_of_le h with rfl | hlt
  · rw [feedForward_mid p (by norm_num) (by norm_num)]
    norm_num
  · rw [feedForward, if_neg (by omega), if_neg (by omega), Int.toNat_of_nonneg (curve_nonneg (by omega) (by omega))]

/-- A ramp tick (R8): the duty follows the ref, and the stall timer the duty, also where the target is SETTLING. -/
theorem Drum.rampStep_eq (p : DrumProfile) (t due ref : Nat) (v : Speed) (d : Drum) (hs : d.state = .ramping)
    (hv : d.target = some v) (ht : d.rampTick = some due)
    (hr : ref = if d.ref < v.ref then min v.ref (d.ref + p.slew) else max v.ref (d.ref - p.slew)) :
    d.rampStep p t =
      Drum.dutied p t (min (feedForward p ref) p.dutyMax)
        { d with
          ref := ref, rampTick := if ref = v.ref then none else some (due + 100000)
          state := if ref = v.ref then .settling else .ramping
          integral := if ref = v.ref then 0 else d.integral
          inBandCount := if ref = v.ref then 0 else d.inBandCount } := by
  unfold Drum.rampStep
  simp only [Drum.targetRef_of_target hv, ← hr, ht, Option.map_some]
  by_cases hn : ref = v.ref
  · have htarget : ∀ d' : Drum, d'.target = some v → d'.targetRef = ref := fun d' h' => by
      rw [Drum.targetRef_of_target h', hn]
    simp only [if_pos hn, Drum.enterSettling]
    rw [htarget _ (by exact hv)]
    unfold Drum.setDuty Drum.dutied rampDuty
    by_cases h0 : min (feedForward p ref) p.dutyMax = 0 <;> simp [h0]
  · simp only [if_neg hn, hs, Drum.setDuty_dutied, rampDuty]

/-- Settles O7. -/
theorem rampTickRestAndFaultWait : Obligations.RampTickRestAndFaultWait := by
  refine ⟨fun p ref _ _ _ => ⟨feedForward_low p, feedForward_mid p, feedForward_high p⟩, fun s due hreset hdue => ?_⟩
  have hexpired : ∀ timer, timer = some due → expired timer s.now = true := by
    rintro _ rfl
    simpa [expired] using hdue
  refine ⟨fun v ref hs ht hv hr => ?tick, fun hs hrest => ?rest, fun v hs hw hv => ?wait⟩
  case tick =>
    refine ⟨_, s.drum.rampStep s.profile.drum s.now,
      show execRampTick s = _ from when_due _ _ s hreset (by simp [hs, hexpired _ ht]), finish_ends _ _, ?_⟩
    rw [Drum.rampStep_eq _ _ due ref v _ hs hv ht hr]
    refine ⟨rfl, fun h0 => if_pos h0, fun h0 hz hp => ?_, fun h0 h0' => ?_⟩
    · exact (if_neg (Nat.ne_of_gt h0)).trans ((if_pos hz).trans (if_neg hp))
    · exact (if_neg (Nat.ne_of_gt h0)).trans (if_neg (Nat.ne_of_gt h0'))
  case rest =>
    exact ⟨_, show execParkRestExpiry s = _ from when_due _ _ s hreset (by simp [hs, hexpired _ hrest]),
      finish_ends _ _⟩
  case wait =>
    exact ⟨_, ({ s.drum with ref := 0 } : Drum).enterRamping s.profile.drum s.now,
      show execFaultWaitExpiry s = _ from when_due _ _ s hreset (by simp [hs, hexpired _ hw]), finish_ends _ _,
      Drum.enterRamping_entered _ _ v _ hv⟩

/-! ## The motor drive (R13, R16) -/

/-- Settles O8. -/
theorem currentTripAndPwmPeriod : Obligations.CurrentTripAndPwmPeriod := by
  intro s hreset
  refine ⟨fun ⟨hb, ht, _, hon⟩ => ?trip, fun hoff => ?outside, fun hend => ?period⟩
  case trip =>
    refine ⟨_, show execIlimTrip s = _ from when_due _ _ s hreset (by simp [Drum.pwmOn, hb, ht, pwmPeriod, hon]),
      finish_ends _ _, fun c => ?_⟩
    simp [Drum.pwmOn]
  case outside =>
    refine ⟨_, show execIlimTrip s = _ from when_idle _ _ s hreset ?_, finish_ends _ _⟩
    rcases hoff with h | h | h
    · simp [Drum.pwmOn, h]
    · simp [Drum.pwmOn, h]
    · simp [Drum.pwmOn, pwmPeriod, Nat.not_lt.mpr h]
  case period =>
    exact ⟨_, show execPwmPeriodEnd s = _ from when_due _ _ s hreset (decide_eq_true hend),
      finish_ends_of (by simp [State.withDrum, Drum.endPwmPeriod, pwmPeriod, and_assoc])⟩

/-! ## Faults (R14 to R18, R88) -/

theorem Drum.applyPolicy_applied (p : DrumProfile) (t : Nat) (policy : Policy) (d : Drum) :
    Drum.PolicyApplied p t policy d (d.applyPolicy p t policy) where
  latched hr hp := by
    unfold Drum.applyPolicy
    rcases hp with rfl | rfl <;> simp [hr, Drum.latch, Drum.haltDrive, Drum.setDuty, Drum.stallOver, Drum.spinUpOver]
  waits hr hp hc := by
    subst hp
    simp [Drum.applyPolicy, hr, Drum.retry, hc, Drum.haltDrive, Drum.setDuty, Drum.stallOver, Drum.spinUpOver]
  spent hr hp hc := by
    subst hp
    simp [Drum.applyPolicy, hr, Drum.retry, Nat.not_lt.mpr hc, Drum.latch, Drum.haltDrive, Drum.setDuty,
      Drum.stallOver, Drum.spinUpOver]
  reported hp := by
    unfold Drum.applyPolicy
    rcases hp with rfl | rfl <;> exact ite_self _
  elsewhere hr := by simp [Drum.applyPolicy, hr]

/-- No policy signals a BAND_LOST: a fault's own event is what the Line Unit takes (R88). -/
theorem Drum.applyPolicy_signal (p : DrumProfile) (t : Nat) (policy : Policy) (d : Drum) :
    (d.applyPolicy p t policy).bandLostSignal = d.bandLostSignal := by
  unfold Drum.applyPolicy Drum.retry
  (repeat' split) <;> rfl

theorem Drum.countFault_signal (kind : DrumFault) (d : Drum) :
    (d.countFault kind).bandLostSignal = d.bandLostSignal := by
  cases kind <;> rfl

/-- A detection whose event ends no attempt: no turn is sent, or the policy is REPORT (R17, R88). -/
theorem State.drumFault_ends (s : State) (kind : DrumFault) (g d : Drum) (policy : Policy) (h : s.noEvents = true)
    (hg : g.bandLostSignal = s.drum.bandLostSignal) (hd : g.countFault kind = d)
    (hp : s.profile.drum.policy kind = policy) (hquiet : s.line.state.sending = false ∨ policy = .report) :
    State.Ends { s with drum := d.applyPolicy s.profile.drum s.now policy }
      (finish s (({ s with drum := g } : State).drumFault kind).deliver) := by
  obtain ⟨ha, ht, hf, hb, -⟩ := s.noEvents_iff.1 h
  have hfault : ({ s with drum := g } : State).drumFault kind =
      { s with drum := d.applyPolicy s.profile.drum s.now policy } := by
    have hno : ¬ (policy ≠ .report ∧ s.line.state.sending = true) := by
      rcases hquiet with hq | hq <;> simp [hq]
    subst hd hp
    exact if_neg hno
  have hsignal : (d.applyPolicy s.profile.drum s.now policy).bandLostSignal = false := by
    rw [Drum.applyPolicy_signal, ← hd, Drum.countFault_signal, hg, hb]
  rw [hfault]
  exact finish_ends_of (State.deliver_none _ ha ht hf hsignal)

/-- A detection whose event ends the attempt (R88). -/
theorem State.drumFault_ended (s : State) (kind : DrumFault) (g d : Drum) (policy : Policy) (h : s.noEvents = true)
    (hd : g.countFault kind = d) (hp : s.profile.drum.policy kind = policy)
    (hsending : s.line.state.sending = true) (hpolicy : policy ≠ .report) :
    State.AttemptEnded { s with drum := d.applyPolicy s.profile.drum s.now policy } .drumFault kind.detail true
      (finish s (({ s with drum := g } : State).drumFault kind).deliver) := by
  obtain ⟨ha, ht, hf, hb, -⟩ := s.noEvents_iff.1 h
  have hfault : ({ s with drum := g } : State).drumFault kind =
      ({ s with drum := d.applyPolicy s.profile.drum s.now policy } : State).endAttempt .drumFault kind.detail true := by
    subst hd hp
    exact if_pos ⟨hpolicy, hsending⟩
  rw [hfault]
  exact State.endAttempt_ended s _ _ _ _ ha ht hf

/-- A timer's detection is due: made already, or made now (R10, R14, R17). -/
theorem hasRun_of_exists {timer : Option Nat} {length t : Nat} (h : ∃ u, timer = some u ∧ u + length ≤ t) :
    hasRun timer length t = true := by
  obtain ⟨u, rfl, hu⟩ := h
  simpa [hasRun] using hu

theorem State.stallDue_of {s : State}
    (h : s.drum.stallDue = true ∨ ∃ u, s.drum.stallTimer = some u ∧ u + 1000 * s.profile.drum.stallMs ≤ s.now) :
    s.stallDue = true := by
  rcases h with h | h
  · simp [State.stallDue, h]
  · simp [State.stallDue, Drum.stallOver, hasRun_of_exists h]

theorem State.spinUpDue_of {s : State}
    (h : s.drum.spinUpDue = true ∨ ∃ u, s.drum.spinUp = some u ∧ u + 1000000 * s.profile.drum.spinupS ≤ s.now) :
    s.spinUpDue = true := by
  rcases h with h | h
  · simp [State.spinUpDue, h]
  · simp [State.spinUpDue, Drum.spinUpOver, hasRun_of_exists h]

theorem exec_slipDetected {s : State} (h : s.inReset = false) (hd : s.drum.slipDue = true) :
    exec .slipDetected s = .next (finish s
      (({ s with drum := { s.drum with slipRun := 0, slipDue := false } } : State).drumFault .slip).deliver) :=
  show execSlipDetected s = _ from whenDeliver_due _ _ s h hd

theorem exec_overcurrentDetected {s : State} (h : s.inReset = false) (hd : s.drum.overcurrentDue = true) :
    exec .overcurrentDetected s = .next (finish s
      (({ s with drum := { s.drum with ocRun := 0, overcurrentDue := false } } : State).drumFault
        .overcurrent).deliver) :=
  show execOvercurrentDetected s = _ from whenDeliver_due _ _ s h hd

theorem exec_stallTimeout {s : State} (h : s.inReset = false) (hd : s.stallDue = true) :
    exec .stallTimeout s = .next (finish s
      (({ s with drum := s.drum.takeStall s.profile.drum s.now } : State).drumFault .stall).deliver) :=
  show execStallTimeout s = _ from whenDeliver_due _ _ s h hd

theorem exec_spinupTimeout {s : State} (h : s.inReset = false) (hd : s.spinUpDue = true) :
    exec .spinupTimeout s = .next (finish s
      (({ s with drum := s.drum.takeSpinUp s.profile.drum s.now } : State).drumFault .stall).deliver) :=
  show execSpinupTimeout s = _ from whenDeliver_due _ _ s h hd

/-- Settles O9: each detection's event ends no attempt while no turn is sent. -/
theorem faultDetections : Obligations.FaultDetections := by
  intro s hawake hsend
  have hreset := State.awake_inReset hawake
  have hquiet := State.awake_noEvents hawake
  refine ⟨fun hd => ?slip, fun hd => ?overcurrent, fun hd => ?stall, fun hd => ?spinup⟩
  case slip =>
    exact ⟨_, _, exec_slipDetected hreset hd, State.drumFault_ends s .slip _ _ _ hquiet rfl rfl rfl (.inl hsend),
      Drum.applyPolicy_applied _ _ _ _⟩
  case overcurrent =>
    exact ⟨_, _, exec_overcurrentDetected hreset hd,
      State.drumFault_ends s .overcurrent _ _ _ hquiet rfl rfl rfl (.inl hsend), Drum.applyPolicy_applied _ _ _ _⟩
  case stall =>
    exact ⟨_, _, exec_stallTimeout hreset (State.stallDue_of hd),
      State.drumFault_ends s .stall _ _ _ hquiet rfl rfl rfl (.inl hsend), Drum.applyPolicy_applied _ _ _ _⟩
  case spinup =>
    exact ⟨_, _, exec_spinupTimeout hreset (State.spinUpDue_of hd),
      State.drumFault_ends s .stall _ _ _ hquiet rfl rfl rfl (.inl hsend), Drum.applyPolicy_applied _ _ _ _⟩

/-- A detection with any policy but REPORT ends the attempt while turns are sent, and with REPORT it does not. -/
theorem State.drumFault_sending {c : Instr} (s : State) (kind : DrumFault) (g d : Drum) (policy : Policy)
    (h : s.noEvents = true) (hsending : s.line.state.sending = true)
    (hstep : exec c s = .next (finish s (({ s with drum := g } : State).drumFault kind).deliver))
    (hg : g.bandLostSignal = s.drum.bandLostSignal) (hd : g.countFault kind = d)
    (hp : s.profile.drum.policy kind = policy) :
    (policy ≠ .report →
      ∃ t e, exec c s = .next t ∧ Drum.PolicyApplied s.profile.drum s.now policy d e ∧
        State.AttemptEnded { s with drum := e } .drumFault kind.detail true t) ∧
    (policy = .report → ∃ t, exec c s = .next t ∧ State.Ends { s with drum := d } t) := by
  refine ⟨fun hpolicy => ⟨_, _, hstep, Drum.applyPolicy_applied _ _ _ _,
    State.drumFault_ended s kind g d policy h hd hp hsending hpolicy⟩, fun hpolicy => ⟨_, hstep, ?_⟩⟩
  have hends := State.drumFault_ends s kind g d policy h hg hd hp (.inr hpolicy)
  rwa [(Drum.applyPolicy_applied _ _ policy d).reported (.inl hpolicy)] at hends

/-- Settles O10: the loss of the band, and each of the four detections. -/
theorem drumFaultsEndTheCall : Obligations.DrumFaultsEndTheCall := by
  intro s hawake hsend
  have hreset := State.awake_inReset hawake
  have hquiet := State.awake_noEvents hawake
  obtain ⟨ha, ht, hf, hb, -⟩ := s.noEvents_iff.1 hquiet
  refine ⟨fun ⟨hs, hl⟩ => ?lost, fun command policy detail d hcase => ?_⟩
  case lost =>
    refine ⟨_, show execBandLost s = _ from whenDeliver_due _ _ s hreset (by simp [State.bandLossDue, hs, hl]), ?_⟩
    exact State.bandLost_ended s _ _ rfl hb hsend ha ht hf
  rcases hcase with ⟨rfl, hd, hp, rfl, rfl⟩ | ⟨rfl, hd, hp, rfl, rfl⟩ | ⟨rfl, hp, rfl, hd, rfl⟩ | ⟨rfl, hp, rfl, hd, rfl⟩
  case inl =>
    exact State.drumFault_sending s .slip _ _ policy hquiet hsend (exec_slipDetected hreset hd) rfl rfl hp.symm
  case inr.inl =>
    exact State.drumFault_sending s .overcurrent _ _ policy hquiet hsend (exec_overcurrentDetected hreset hd) rfl rfl
      hp.symm
  case inr.inr.inl =>
    exact State.drumFault_sending s .stall _ _ policy hquiet hsend (exec_stallTimeout hreset (State.stallDue_of hd)) rfl
      (by rw [hp]; rfl) hp.symm
  case inr.inr.inr =>
    exact State.drumFault_sending s .stall _ _ policy hquiet hsend (exec_spinupTimeout hreset (State.spinUpDue_of hd)) rfl
      (by rw [hp]; rfl) hp.symm

end Sys2Proof.Machine
end

section
/-! PROOFS. The Carriage Drive (02_carriage_and_scanning.md): homing, positioning, tracking, the switches, and a
carriage fault that ends the job. -/

namespace Sys2Proof.Machine

/-! ## The commands of the Carriage Drive -/

theorem State.moveDue_of {s : State} {st : CarriageState} {due : Nat} (hs : s.carriage.state = st)
    (hn : s.carriage.nextStep = some due) (hdue : due ≤ s.now) : s.moveDue st = true := by
  simp [State.moveDue, hs, hn, expired, hdue]

theorem Carriage.due_of {c : Carriage} {due : Nat} (hn : c.nextStep = some due) : c.due = due := by
  simp [Carriage.due, hn]

theorem exec_homingStep {s : State} {due : Nat} (h : s.inReset = false) (hs : s.carriage.state = .homing)
    (hn : s.carriage.nextStep = some due) (hdue : due ≤ s.now) (hf : s.carriage.homingFailed = false) :
    exec .homingStep s = .next (finish s ({ s with carriage := s.carriage.homeStep due } : State).deliver) := by
  rw [← Carriage.due_of hn]
  exact show execHomingStep s = _ from whenDeliver_due _ _ s h (by simp [State.moveDue_of hs hn hdue, hf])

theorem exec_homingFault {s : State} {due : Nat} (h : s.inReset = false) (hs : s.carriage.state = .homing)
    (hn : s.carriage.nextStep = some due) (hdue : due ≤ s.now) (hf : s.carriage.homingFailed = true) :
    exec .homingFault s = .next (finish s ({ s with carriage := s.carriage.toFault } : State).deliver) :=
  show execHomingFault s = _ from whenDeliver_due _ _ s h (by simp [State.moveDue_of hs hn hdue, hf])

theorem exec_positionStep {s : State} {due p : Nat} (h : s.inReset = false) (hs : s.carriage.state = .positioning)
    (hn : s.carriage.nextStep = some due) (hdue : due ≤ s.now) (ht : s.carriage.target = some p)
    (hp : s.carriage.position ≠ p) :
    exec .positionStep s = .next (finish s ({ s with carriage := s.carriage.moveStep due } : State).deliver) := by
  rw [← Carriage.due_of hn]
  exact show execPositionStep s = _ from whenDeliver_due _ _ s h
    (by simp [State.moveDue_of hs hn hdue, Carriage.atTarget, ht, Ne.symm hp])

theorem exec_arrival {s : State} {due : Nat} (h : s.inReset = false) (hs : s.carriage.state = .positioning)
    (hn : s.carriage.nextStep = some due) (hdue : due ≤ s.now) (ht : s.carriage.target = some s.carriage.position) :
    exec .arrival s = .next (finish s ({ s with carriage := s.carriage.arrive } : State).deliver) :=
  show execArrival s = _ from whenDeliver_due _ _ s h (by simp [State.moveDue_of hs hn hdue, Carriage.atTarget, ht])

theorem exec_trackStep {s : State} {due : Nat} (h : s.inReset = false) (hs : s.carriage.state = .tracking)
    (hn : s.carriage.nextStep = some due) (hdue : due ≤ s.now) (hd : 0 < s.carriage.stepsDue) :
    exec .trackStep s = .next (finish s ({ s with carriage := s.carriage.followStep due } : State).deliver) := by
  rw [← Carriage.due_of hn]
  exact show execTrackStep s = _ from whenDeliver_due _ _ s h (by simp [State.moveDue_of hs hn hdue, hd])

theorem exec_limitAsserted {s : State} (h : s.inReset = false) (hl : s.carriage.limit = false) :
    exec .limitAsserted s = .next (finish s ({ s with carriage := s.carriage.limitOn } : State).deliver) :=
  show execLimitAsserted s = _ from whenLevel_due _ _ _ s h (by simp [hl])

theorem exec_homeAsserted {s : State} (h : s.inReset = false) (hh : s.carriage.home = false) :
    exec .homeAsserted s = .next (finish s ({ s with carriage := s.carriage.homeOn } : State).deliver) :=
  show execHomeAsserted s = _ from whenLevel_due _ _ _ s h (by simp [hh])

/-! ## What follows a step, by the event it gives -/

/-- A step that gives no event. -/
theorem State.moved_ends {s : State} {c : Carriage} (h : s.noEvents = true)
    (ha : c.arrivalEvent = s.carriage.arrivalEvent) (ht : c.truncationEvent = s.carriage.truncationEvent)
    (hf : c.faultEvent = s.carriage.faultEvent) :
    State.Ends { s with carriage := c } (finish s ({ s with carriage := c } : State).deliver) := by
  obtain ⟨ha', ht', hf', hb, -⟩ := s.noEvents_iff.1 h
  exact finish_ends_of (State.deliver_none _ (ha.trans ha') (ht.trans ht') (hf.trans hf') hb)

/-- An arrival, which a scanner in FRAME_DONE notes when the position is the next frame's start (R26, R39). -/
theorem State.arrived_ends {s : State} {c : Carriage} (h : s.noEvents = true)
    (ha : c.arrivalEvent = s.carriage.arrivalEvent) (ht : c.truncationEvent = s.carriage.truncationEvent)
    (hf : c.faultEvent = s.carriage.faultEvent) :
    State.Ends
      { s with
        carriage := { c with state := .atFrame, nextStep := none, stepsDue := 0 }
        scan :=
          { s.scan with
            arrivalNoted :=
              s.scan.arrivalNoted || (s.scan.state == .frameDone
                && (s.scan.frames[s.scan.current + 1]?.map fun f => f.start) == some c.position) } }
      (finish s ({ s with carriage := c.arrive } : State).deliver) := by
  obtain ⟨ha', ht', hf', hb, -⟩ := s.noEvents_iff.1 h
  refine finish_ends_of ?_
  simp [State.deliver, State.takeTruncation, State.takeArrival, State.takeBandLost, State.takeCarriageFault,
    Carriage.arrive, Carriage.toRest, ht, ht', hf, hf', hb, ha, ha']

/-- A truncation (R29, R38). -/
theorem State.truncated_delivered {s : State} {c : Carriage} (h : s.noEvents = true)
    (ha : c.arrivalEvent = s.carriage.arrivalEvent) (ht : c.truncationEvent = s.carriage.truncationEvent) :
    ∃ v, State.Truncated
        { s with carriage := { c with state := .atFrame, nextStep := none, stepsDue := 0 } } v ∧
      State.Delivered v (finish s ({ s with carriage := c.truncate } : State).deliver) := by
  obtain ⟨ha', ht', hf', hb, -⟩ := s.noEvents_iff.1 h
  obtain ⟨v, hv, hdrum, hdelivered⟩ := State.truncate_delivers s { s with carriage := c.truncate } (ha.trans ha') rfl
    (fun hs => absurd hs (by simp [hb]))
  have hsignal : v.drum.bandLostSignal = false := by rw [hdrum, hb]
  have hsame : ({ v with drum := { v.drum with bandLostSignal := false } } : State) = v := by rw [← hsignal]
  have hflag : ({ c.truncate with truncationEvent := false } : Carriage) =
      { c with state := .atFrame, nextStep := none, stepsDue := 0 } := by
    simp [Carriage.truncate, Carriage.toRest, ht, ht']
  refine ⟨v, ?_, by rwa [hsame] at hdelivered⟩
  simp only [hflag] at hv
  exact hv

/-- A carriage fault's event is the only one that the step gives. -/
theorem State.faulted_delivered {s : State} {c : Carriage} (h : s.noEvents = true)
    (ha : c.arrivalEvent = s.carriage.arrivalEvent) (ht : c.truncationEvent = s.carriage.truncationEvent) :
    ({ s with carriage := c.toFault } : State).deliver = ({ s with carriage := c.toFault } : State).takeCarriageFault := by
  obtain ⟨ha', ht', hf', hb, -⟩ := s.noEvents_iff.1 h
  simp [State.deliver, State.takeTruncation, State.takeArrival, State.takeBandLost, Carriage.toFault, ha, ha', ht, ht', hb]

/-- The carriage in FAULT, the event taken. -/
def Carriage.faulted (c : Carriage) : Carriage := { c with state := .fault, nextStep := none, stepsDue := 0 }

theorem Carriage.toFault_taken {s : State} {c : Carriage} (h : s.noEvents = true)
    (hf : c.faultEvent = s.carriage.faultEvent) : { c.toFault with faultEvent := false } = c.faulted := by
  obtain ⟨-, -, hf', -, -⟩ := s.noEvents_iff.1 h
  simp [Carriage.toFault, Carriage.faulted, hf, hf']

/-- A carriage fault while no job runs is noted nowhere (R113). -/
theorem State.faulted_ends {s : State} {c : Carriage} (h : s.noEvents = true)
    (ha : c.arrivalEvent = s.carriage.arrivalEvent) (ht : c.truncationEvent = s.carriage.truncationEvent)
    (hf : c.faultEvent = s.carriage.faultEvent) (hr : s.jobs.state.running = false) :
    State.Ends { s with carriage := c.faulted } (finish s ({ s with carriage := c.toFault } : State).deliver) := by
  rw [State.faulted_delivered h ha ht, ← Carriage.toFault_taken h hf]
  exact (State.takeCarriageFault_delivered s { s with carriage := c.toFault }).ignored rfl (.inl hr)

/-! ## The switches in a move (R27, R29) -/

theorem Carriage.moveStep_blocked {c : Carriage} {due p : Nat} (ht : c.target = some p)
    (h : (c.home = true ∧ 0 < c.position) ∨ (c.limit = true ∧ c.position < p)) : c.moveStep due = c.toFault := by
  unfold Carriage.moveStep
  rcases h with ⟨hh, hp⟩ | ⟨hl, hp⟩
  · simp [hh, hp]
  · simp [Carriage.aimAway, ht, hl, hp]

theorem Carriage.limitOn_away {c : Carriage} (hs : c.state = .positioning) (hd : c.dirAway = true) :
    c.limitOn = { c with limit := true }.toFault := by simp [Carriage.limitOn, hs, hd]

theorem Carriage.limitOn_tracking {c : Carriage} (hs : c.state = .tracking) :
    c.limitOn = { c with limit := true }.truncate := by simp [Carriage.limitOn, hs]

theorem Carriage.limitOn_other {c : Carriage} (hs : c.state ≠ .tracking)
    (hd : c.state = .positioning → c.dirAway = false) : c.limitOn = { c with limit := true } := by
  unfold Carriage.limitOn
  cases h : c.state <;> simp_all

theorem Carriage.homeOn_early {c : Carriage} (hs : c.state = .positioning) (hp : 0 < c.position) :
    c.homeOn = { c with home := true }.toFault := by simp [Carriage.homeOn, hs, hp]

theorem Carriage.homeOn_other {c : Carriage} (h : c.state = .positioning → c.position = 0) :
    c.homeOn = { c with home := true } := by
  unfold Carriage.homeOn
  cases hs : c.state <;> simp_all

/-! ## Homing (R25 to R27) -/

theorem Carriage.homingFailed_of_home {c : Carriage} (h : c.home = true) : c.homingFailed = false := by
  simp [Carriage.homingFailed, h]

/-- Settles O11: by HOME and by where the target lies. -/
theorem homingStepsAndHomingFault : Obligations.HomingStepsAndHomingFault := by
  intro s due hawake hs hn hdue
  have hreset := State.awake_inReset hawake
  have hquiet := State.awake_noEvents hawake
  refine ⟨fun hh hc => ?step, fun p hh hl ht hp => ?away, fun p hh hl ht hp hr => ?blocked, fun hh ht hd => ?there,
    fun hh hc hr => ?failed⟩
  case step =>
    refine ⟨_, exec_homingStep hreset hs hn hdue (by simp [Carriage.homingFailed, homingLimit, Nat.not_le.mpr hc]), ?_⟩
    rw [Carriage.homeStep, if_neg (by simp [hh])]
    exact State.moved_ends hquiet rfl rfl rfl
  case away =>
    refine ⟨_, exec_homingStep hreset hs hn hdue (Carriage.homingFailed_of_home hh), ?_⟩
    have hstep : s.carriage.homeStep due =
        { s.carriage with
          state := .positioning, homed := true, position := 1, dirAway := true, home := false
          stepsDue := 0, nextStep := some (due + 2500) } := by
      simp [Carriage.homeStep, Carriage.endHoming, Carriage.enterPositioning, Carriage.atTarget, Carriage.moveStep,
        Carriage.aimAway, Carriage.step, moveSpacing, hh, hl, ht, hp, Nat.ne_of_gt hp]
    rw [hstep]
    exact State.moved_ends hquiet rfl rfl rfl
  case blocked =>
    refine ⟨_, exec_homingStep hreset hs hn hdue (Carriage.homingFailed_of_home hh), ?_⟩
    have hstep : s.carriage.homeStep due =
        Carriage.toFault
          { s.carriage with
            state := .positioning, homed := true, position := 0, dirAway := true, stepsDue := 0, nextStep := none } := by
      simp [Carriage.homeStep, Carriage.endHoming, Carriage.enterPositioning, Carriage.atTarget, Carriage.moveStep,
        Carriage.aimAway, hh, hl, ht, hp, Nat.ne_of_gt hp]
    rw [hstep]
    exact State.faulted_ends (c :=
      { s.carriage with
        state := .positioning, homed := true, position := 0, dirAway := true, stepsDue := 0, nextStep := none })
      hquiet rfl rfl rfl hr
  case there =>
    refine ⟨_, exec_homingStep hreset hs hn hdue (Carriage.homingFailed_of_home hh), ?_⟩
    have hstep : s.carriage.homeStep due =
        Carriage.arrive
          { s.carriage with state := .positioning, homed := true, position := 0, stepsDue := 0, nextStep := none } := by
      simp [Carriage.homeStep, Carriage.endHoming, Carriage.enterPositioning, Carriage.atTarget, hh, ht]
    have hends := State.arrived_ends (s := s) (c :=
      { s.carriage with state := .positioning, homed := true, position := 0, stepsDue := 0, nextStep := none })
      hquiet rfl rfl rfl
    have hother : (s.scan.state == .frameDone) = false := by simpa using hd
    simp only [hother, Bool.false_and, Bool.or_false] at hends
    rw [hstep]
    exact hends
  case failed =>
    exact ⟨_, exec_homingFault hreset hs hn hdue (by simp [Carriage.homingFailed, homingLimit, hc, hh]),
      State.faulted_ends hquiet rfl rfl rfl hr⟩

/-! ## Positioning and tracking (R26 to R29) -/

/-- Settles O12: by the direction of the step, the switch found and the target. -/
theorem positionAndTrackSteps : Obligations.PositionAndTrackSteps := by
  refine ⟨fun s due p hawake hs hn hdue ht => ?position, fun s due n hawake hs hn hdue hd => ?track⟩
  case position =>
    have hreset := State.awake_inReset hawake
    have hquiet := State.awake_noEvents hawake
    refine ⟨fun hp hl hh => ?away, fun hp hh => ?toward, fun hp hr hswitch => ?blocked, fun hp => ?there⟩
    case away =>
      refine ⟨_, exec_positionStep hreset hs hn hdue ht (Nat.ne_of_lt hp), ?_⟩
      have hstep : s.carriage.moveStep due =
          { s.carriage with
            position := s.carriage.position + 1, dirAway := true, home := false, nextStep := some (due + 2500) } := by
        have hstart : (s.carriage.home && decide (0 < s.carriage.position)) = false := by
          cases hhome : s.carriage.home
          · rfl
          · simp [hh hhome]
        simp [Carriage.moveStep, Carriage.aimAway, ht, hp, hl, hstart, Carriage.step, moveSpacing]
      rw [hstep]
      exact State.moved_ends hquiet rfl rfl rfl
    case toward =>
      refine ⟨_, exec_positionStep hreset hs hn hdue ht (Nat.ne_of_gt hp), ?_⟩
      have hstep : s.carriage.moveStep due =
          { s.carriage with
            position := s.carriage.position - 1, dirAway := false, limit := false, nextStep := some (due + 2500) } := by
        simp [Carriage.moveStep, Carriage.aimAway, ht, Nat.not_lt.mpr (Nat.le_of_lt hp), hh, Carriage.step, moveSpacing]
      rw [hstep]
      exact State.moved_ends hquiet rfl rfl rfl
    case blocked =>
      refine ⟨_, exec_positionStep hreset hs hn hdue ht hp, ?_⟩
      rw [Carriage.moveStep_blocked ht hswitch]
      exact State.faulted_ends hquiet rfl rfl rfl hr
    case there =>
      subst hp
      exact ⟨_, exec_arrival hreset hs hn hdue ht, State.arrived_ends (c := s.carriage) hquiet rfl rfl rfl⟩
  case track =>
    have hreset := State.awake_inReset hawake
    have hquiet := State.awake_noEvents hawake
    have hstep := exec_trackStep hreset hs hn hdue (by omega)
    refine ⟨fun hl => ⟨_, hstep, ?_⟩, fun hl => ?_⟩
    · have hmoved : s.carriage.followStep due =
          { s.carriage with
            position := s.carriage.position + 1, dirAway := true, home := false, stepsDue := n
            nextStep := if n = 0 then none else some (due + 2000) } := by
        simp [Carriage.followStep, hl, hd, Carriage.step, trackSpacing]
      rw [hmoved]
      exact State.moved_ends hquiet rfl rfl rfl
    · rw [Carriage.followStep, if_pos hl] at hstep
      obtain ⟨v, hv, ht⟩ := State.truncated_delivered (c := s.carriage) hquiet rfl rfl
      exact ⟨_, v, hstep, hv, ht⟩

/-! ## The switches (R27, R29) -/

/-- Settles O13: by the state of the carriage in which the switch closes. -/
theorem limitAndHomeAsserted : Obligations.LimitAndHomeAsserted := by
  intro s hawake
  have hreset := State.awake_inReset hawake
  have hquiet := State.awake_noEvents hawake
  refine ⟨fun hl hs hd hr => ⟨_, exec_limitAsserted hreset hl, ?limitFault⟩, fun hl hs => ?limitTracking,
    fun hl hs hd => ⟨_, exec_limitAsserted hreset hl, ?limitOther⟩,
    fun hh hs hp hr => ⟨_, exec_homeAsserted hreset hh, ?homeFault⟩,
    fun hh hp => ⟨_, exec_homeAsserted hreset hh, ?homeOther⟩⟩
  case limitFault =>
    rw [Carriage.limitOn_away hs hd]
    exact State.faulted_ends (c := { s.carriage with limit := true }) hquiet rfl rfl rfl hr
  case limitTracking =>
    have hstep := exec_limitAsserted hreset hl
    rw [Carriage.limitOn_tracking hs] at hstep
    obtain ⟨v, hv, ht⟩ := State.truncated_delivered (c := { s.carriage with limit := true }) hquiet rfl rfl
    exact ⟨_, v, hstep, hv, ht⟩
  case limitOther =>
    rw [Carriage.limitOn_other hs hd]
    exact State.moved_ends hquiet rfl rfl rfl
  case homeFault =>
    rw [Carriage.homeOn_early hs hp]
    exact State.faulted_ends (c := { s.carriage with home := true }) hquiet rfl rfl rfl hr
  case homeOther =>
    rw [Carriage.homeOn_other hp]
    exact State.moved_ends hquiet rfl rfl rfl

/-! ## The fault of a running job (R113) -/

/-- A carriage fault while a job runs: the job ends, or its end cause is set and its requests go on their way. -/
theorem State.faulted_job {s : State} {c : Carriage} (h : s.noEvents = true)
    (ha : c.arrivalEvent = s.carriage.arrivalEvent) (ht : c.truncationEvent = s.carriage.truncationEvent)
    (hf : c.faultEvent = s.carriage.faultEvent) (hr : s.jobs.state.running = true) :
    (s.jobs.attemptInProgress = false ∨ Config.faultRequestsLate s.crystal = false →
      State.JobEnded { s with carriage := c.faulted } .carriageFault
          (finish s ({ s with carriage := c.toFault } : State).deliver) ∧
        (finish s ({ s with carriage := c.toFault } : State).deliver).carriage = c.faulted) ∧
    (s.jobs.attemptInProgress = true → Config.faultRequestsLate s.crystal = true →
      State.Ends
        { s with
          carriage := c.faulted
          jobs := { s.jobs with endCause := some .carriageFault, requestsDue := some { freeAhead := none } } }
        (finish s ({ s with carriage := c.toFault } : State).deliver)) := by
  have hnone : s.jobs.requestsDue = none := State.noEvents_requests h
  have hdelivered := State.takeCarriageFault_delivered s { s with carriage := c.toFault }
  rw [State.faulted_delivered h ha ht]
  refine ⟨fun hnow => ⟨?_, ?_⟩, fun hp hlate => ?_⟩
  · have hend := hdelivered.ends rfl hr hnone (Or.comm.mp hnow)
    simp only [Carriage.toFault_taken h hf] at hend
    exact hend
  · have hlate : ¬ (s.jobs.attemptInProgress && Config.faultRequestsLate s.crystal) = true := by
      rcases hnow with h | h <;> simp [h]
    have htaken : ({ s with carriage := c.toFault } : State).takeCarriageFault =
        ({ s with carriage := c.faulted } : State).endJob .carriageFault false := by
      rw [← Carriage.toFault_taken h hf]
      have hendable : s.jobs.endable = true := by simp [Jobs.endable, hr, hnone]
      exact (if_pos rfl).trans ((if_pos hendable).trans (if_neg hlate))
    rw [(finish_frame _ _).2.2.2.1, htaken]
    exact State.endJob_carriage { s with carriage := c.faulted } .carriageFault hnone (by simp [Carriage.faulted])
  · have hend := hdelivered.goesOut rfl hr hnone hlate hp
    simp only [Carriage.toFault_taken h hf] at hend
    exact hend

/-- Settles O14: each of the four commands gives the carriage-fault of `State.faulted_job`. -/
theorem carriageFaultEndsTheJob : Obligations.CarriageFaultEndsTheJob := by
  intro s due command c hawake hr hcase
  have hreset := State.awake_inReset hawake
  have hquiet := State.awake_noEvents hawake
  have hkey : exec command s = .next (finish s ({ s with carriage := c.toFault } : State).deliver) ∧
      c.arrivalEvent = s.carriage.arrivalEvent ∧ c.truncationEvent = s.carriage.truncationEvent ∧
      c.faultEvent = s.carriage.faultEvent := by
    rcases hcase with ⟨rfl, hs, hn, hdue, hh, hc, rfl⟩ | ⟨p, rfl, hs, hn, hdue, ht, hp, hswitch, rfl⟩ |
      ⟨rfl, hl, hs, hd, rfl⟩ | ⟨rfl, hh, hs, hp, rfl⟩
    case inl =>
      exact ⟨exec_homingFault hreset hs hn hdue (by simp [Carriage.homingFailed, homingLimit, hc, hh]), rfl, rfl, rfl⟩
    case inr.inl =>
      refine ⟨?_, rfl, rfl, rfl⟩
      rw [exec_positionStep hreset hs hn hdue ht hp, Carriage.moveStep_blocked ht hswitch]
    case inr.inr.inl =>
      refine ⟨?_, rfl, rfl, rfl⟩
      rw [exec_limitAsserted hreset hl, Carriage.limitOn_away hs hd]
    case inr.inr.inr =>
      refine ⟨?_, rfl, rfl, rfl⟩
      rw [exec_homeAsserted hreset hh, Carriage.homeOn_early hs hp]
  obtain ⟨hstep, ha, ht, hf⟩ := hkey
  obtain ⟨hnow, hlate⟩ := State.faulted_job hquiet ha ht hf hr
  exact ⟨_, _, hstep, rfl, hnow, hlate⟩

end Sys2Proof.Machine
end

section
/-! PROOFS. The Scan Unit (02_carriage_and_scanning.md; 04_the_line_ring.md, Send prefetch): reference samples, slot
events, and the words that the scan writer brings to memory. -/

namespace Sys2Proof.Machine

/-! ## References and slot events (R22, R23, R31, R35, R67) -/

theorem State.sampling_of {s : State} {l : LineInProgress} (hs : s.scan.state = .scanning) (hl : s.scan.line = some l)
    (hn : l.sampled = false) : s.scan.sampling = true := by
  simp [Scan.sampling, hs, hl, hn]

theorem exec_referenceSample {s : State} {n u : Nat} {cell : Sample} (h : s.inReset = false)
    (hs : s.scan.sampling = true) (hi : s.drum.interval = some n) (hn : refInterval n = true)
    (hr : s.scan.refTaken = false) (hu : s.drum.lastTach = some u) (hdue : u + s.drum.lenLast / 2 ≤ s.now) :
    exec (.referenceSample cell) s = .next (finish s { s with scan := s.scan.takeRef n cell }) := by
  have hdue : (s.scan.sampling && s.refDue) = true := by simp [State.refDue, hs, hi, hu, hn, hr, hdue]
  have hgiven : s.drum.interval.getD 0 = n := by simp [hi]
  rw [← hgiven]
  exact show execReferenceSample cell s = _ from when_due _ _ s h hdue

/-- Settles O15: the sample joins the references of the patch that the interval is of. -/
theorem warmUpAndReferenceSamples : Obligations.WarmUpAndReferenceSamples := by
  intro s hreset
  refine ⟨fun due hs hw hdue => ?warm, fun cell l n u hs hl hsampled hi hr hu hdue => ⟨fun hn => ?black, fun hn => ?white⟩⟩
  case warm =>
    exact ⟨_, show execWarmUpExpiry s = _ from when_due _ _ s hreset (by simp [hs, hw, expired, hdue]),
      finish_ends _ _⟩
  case black =>
    have hint : refInterval n = true := by simp [refInterval, hn]
    have hsampling := State.sampling_of hs hl hsampled
    refine ⟨_, exec_referenceSample hreset hsampling hi hint hr hu hdue, finish_ends_of ?_⟩
    simp [Scan.takeRef, hsampling, hint, hr, hn]
  case white =>
    have hint : refInterval n = true := by simp [refInterval, hn]
    have hsampling := State.sampling_of hs hl hsampled
    have hlate : ¬ n ≤ 5 := by omega
    refine ⟨_, exec_referenceSample hreset hsampling hi hint hr hu hdue, finish_ends_of ?_⟩
    simp [Scan.takeRef, hsampling, hint, hr, hlate]

/-- The slot event that falls next, and the condition of its moment (R22). -/
theorem State.nextSlot_eq_some {s : State} {n k i : Nat} :
    s.nextSlot = some (n, k, i) ↔
      s.drum.interval = some n ∧ s.slotsPerInterval = some k ∧ 16 ≤ n ∧ s.line.slotsFallen = i ∧ i < k := by
  unfold State.nextSlot
  rw [State.slotK_eq]
  cases s.drum.interval with
  | none => simp
  | some m =>
    cases s.slotsPerInterval with
    | none => simp
    | some q =>
      by_cases hc : 16 ≤ m ∧ s.line.slotsFallen < q
      · simp only [if_pos hc, Option.some.injEq, Prod.mk.injEq]
        constructor
        · rintro ⟨rfl, rfl, rfl⟩; exact ⟨rfl, rfl, hc.1, rfl, hc.2⟩
        · rintro ⟨rfl, rfl, -, rfl, -⟩; exact ⟨rfl, rfl, rfl⟩
      · simp only [if_neg hc, Option.some.injEq, reduceCtorEq, false_iff]
        rintro ⟨rfl, rfl, hm, rfl, hk⟩
        exact hc ⟨hm, hk⟩

theorem execSlotEvent_due {s : State} {n k i : Nat} {cell : Sample} (h : s.inReset = false)
    (hn : s.nextSlot = some (n, k, i)) (hd : s.slotDue k i = true) :
    execSlotEvent cell s = .next (finish s (s.fallSlot n k i cell)) := by
  rw [execSlotEvent, live_awake _ s h]
  simp [hn, hd]

theorem execSlotEvent_idle {s : State} {cell : Sample} (h : s.inReset = false)
    (hd : ∀ n k i, s.nextSlot = some (n, k, i) → s.slotDue k i = false) :
    execSlotEvent cell s = .next (finish s s) := by
  rw [execSlotEvent, live_awake _ s h]
  split
  next n k i hn => simp [hd n k i hn]
  next => rfl

theorem execPrefetchWordArrived_of {s : State} {a word : Nat} {wanted : Bool} (h : s.inReset = false)
    (hp : s.gate.port = some (.prefetch a word wanted)) :
    execPrefetchWordArrived s = .next (finish s
      (if wanted = true then
        { s with gate := { s.gate with port := none }, ring := s.ring.prefetched word (s.mem.word a) }
      else { s with gate := { s.gate with port := none } })) := by
  rw [execPrefetchWordArrived, live_awake _ s h]
  simp only [hp]
  rfl

/-- Settles O16. -/
theorem slotEvents : Obligations.SlotEvents := by
  refine ⟨fun cell s n u k i j hreset hi hn hk hf hik hu hdue hj => ?due, fun cell s hreset hnot => ?idle,
    fun s a word hreset => ⟨fun hp => ?wanted, fun hp => ?left⟩⟩
  case due =>
    obtain ⟨m, x, hm, hx, hfall⟩ := s.fallSlot_spec n k i cell
    subst hj
    refine ⟨_, m, x, show execSlotEvent cell s = _ from
      execSlotEvent_due hreset (State.nextSlot_eq_some.mpr ⟨hi, hk, hn, hf, hik⟩) ?_, hm, hx, finish_ends_of hfall⟩
    simp [State.slotDue, hu, hdue]
  case idle =>
    refine ⟨_, show execSlotEvent cell s = _ from execSlotEvent_idle hreset fun n k i hnext => ?_, finish_ends _ _⟩
    obtain ⟨hi, hk, hn, rfl, hik⟩ := State.nextSlot_eq_some.mp hnext
    unfold State.slotDue
    cases hu : s.drum.lastTach with
    | none => rfl
    | some u => exact decide_eq_false (Nat.not_le.mpr (hnot n u k hi hn hk hik hu))
  case wanted =>
    exact ⟨_, show execPrefetchWordArrived s = _ from execPrefetchWordArrived_of hreset hp, finish_ends _ _⟩
  case left =>
    exact ⟨_, show execPrefetchWordArrived s = _ from execPrefetchWordArrived_of hreset hp, finish_ends _ _⟩

/-! ## The scan writer's request (R36, R37) -/

/-- No field of a header word is written outside its bits (R192). -/
theorem Header.word_toNat (h : Header) (i : Nat) :
    (h.word i).toNat =
      match i with
      | 0 => min h.frame 255 + 65536 * min h.line 65535
      | 1 => min h.black 65535 + 65536 * min h.white 65535
      | 2 => (if h.heldRefs = true then 1 else 0) + (if h.overrun = true then 2 else 0)
      | _ => min h.size 65535 := by
  unfold Header.word
  split
  · simp only [fromBytesHalf, BitVec.toNat_ofNat]; omega
  · simp only [fromHalves, BitVec.toNat_ofNat]; omega
  · cases h.heldRefs <;> cases h.overrun <;> rfl
  · simp only [fromHalves, BitVec.toNat_ofNat]; omega

theorem State.slotAddr_inForce {s : State} {ly : Layout} (h : s.layout.inForce = some ly) (n : Nat) :
    s.slotAddr n = ly.ringBase + 1456 * n := by
  simp [State.slotAddr, h, Layout.slotAddr, slotBytes]

/-- The first entry of the FIFO is asked for once it is closed. -/
theorem State.scanRequest_cons {s : State} {e : FifoEntry} {rest : List FifoEntry} (h : s.scan.fifo = e :: rest) :
    s.scanRequest = if e.closed = true then some (.scanEntry e.access true) else none := by
  simp [State.scanRequest, Scan.nextWord, h]

theorem State.scanRequest_header {s : State} {l : LineInProgress} (h : s.scan.fifo = []) (hl : s.scan.line = some l)
    (hs : l.sampled = true) (hn : l.headerWritten < 4) :
    s.scanRequest =
      some (.scanHeader (wholeWord (s.slotAddr l.slot + 4 * l.headerWritten) (s.scan.header.word l.headerWritten)) true) := by
  simp [State.scanRequest, Scan.nextWord, h, hl, hs, hn]

theorem State.scanRequest_none {s : State} (h : s.scan.fifo = [])
    (hl : ∀ l, s.scan.line = some l → l.sampled = false ∨ 4 ≤ l.headerWritten) : s.scanRequest = none := by
  unfold State.scanRequest Scan.nextWord
  rw [h]
  cases hline : s.scan.line with
  | none => rfl
  | some l =>
    rcases hl l hline with hs | hn
    · simp [hs]
    · simp [Nat.not_lt.mpr hn]

/-! ## The scan writer's words (R32, R36, R37) -/

theorem execScanWordWritten_entry {s : State} {x : Access} {wanted : Bool} (h : s.inReset = false)
    (hp : s.gate.port = some (.scanEntry x wanted)) :
    execScanWordWritten s = .next (finish s (s.entryWritten x wanted)) := by
  rw [execScanWordWritten, live_awake _ s h]
  simp only [hp]

theorem execScanWordWritten_header {s : State} {x : Access} {wanted : Bool} (h : s.inReset = false)
    (hp : s.gate.port = some (.scanHeader x wanted)) :
    execScanWordWritten s = .next (finish s (s.headerWritten x wanted).deliver) := by
  rw [execScanWordWritten, live_awake _ s h]
  simp only [hp]

/-- Outside the Status Page and the bytes that the word's byte enables name, memory is as it was. -/
theorem State.Ends.written_byte {s u t : State} {x : Access} (h : u.Ends t) (hl : u.layout = s.layout)
    (hm : u.mem = s.mem.write x) :
    ∀ a, s.statusByte a = false → x.touches a = false → t.mem.byte a = s.mem.byte a := by
  intro a ha hx
  rw [h.mem a (by rw [State.statusByte, hl]; exact ha), hm, Memory.byte_write_untouched _ _ _ hx]

/-- The state in which a header word of the line `l` has reached memory. -/
def State.headerAt (s : State) (x : Access) (l : LineInProgress) : State :=
  { s with
    mem := s.mem.write x, gate := { s.gate with port := none }
    scan := { s.scan with line := some { l with headerWritten := l.headerWritten + 1 } } }

theorem State.headerWritten_more {s : State} {x : Access} {l : LineInProgress} (hl : s.scan.line = some l)
    (hn : l.headerWritten < 3) : s.headerWritten x true = s.headerAt x l := by
  have hmore : ¬ 4 ≤ l.headerWritten + 1 := by omega
  simp [State.headerWritten, State.scanWrote, Scan.headerStep, Scan.headerDone, hl, hmore, State.withScan, State.headerAt]

/-- The line is complete: its slot is FILLED, if no attempt's end has freed it. -/
def State.lineFilled (s : State) (x : Access) (l : LineInProgress) : State :=
  { s with
    mem := s.mem.write x, gate := { s.gate with port := none }
    ring := if (s.ring.slot l.slot).state = .filling then s.ring.setState l.slot .filled else s.ring
    scan := { s.scan with line := none, linesDone := s.scan.linesDone + 1 } }

theorem State.headerWritten_last {s : State} {x : Access} {l : LineInProgress} {f : Frame} (hl : s.scan.line = some l)
    (hn : l.headerWritten = 3) (hf : s.scan.frames[s.scan.current]? = some f) :
    s.headerWritten x true =
      if s.scan.truncating = true ∨ l.line + 1 = f.count then (s.lineFilled x l).endFrame else s.lineFilled x l := by
  simp [State.headerWritten, State.scanWrote, Scan.headerStep, Scan.headerDone, hl, hn, State.withScan,
    State.lineComplete, Scan.frame, hf, Ring.lineComplete, State.lineFilled]

/-- Settles O17. -/
theorem scanWordsReachMemory : Obligations.ScanWordsReachMemory := by
  refine ⟨fun s ly hly => ⟨fun e rest hq hc => ?closed, fun e rest hq hc => ?opened, fun l hq hl hs hn => ?header,
    fun hq hl => State.scanRequest_none hq hl⟩, fun s x hawake => ?written⟩
  case closed => rw [State.scanRequest_cons hq, if_pos hc]
  case opened => rw [State.scanRequest_cons hq, if_neg (Bool.not_eq_true _ ▸ hc)]
  case header =>
    refine ⟨s.scan.header.word l.headerWritten, ?_, Header.word_toNat _ _⟩
    rw [State.scanRequest_header hq hl hs hn, State.slotAddr_inForce hly]
    rfl
  case written =>
    have hreset := State.awake_inReset hawake
    obtain ⟨ha, ht, hf, hb, -⟩ := s.noEvents_iff.1 (State.awake_noEvents hawake)
    refine ⟨fun e rest hp hq => ?entry, fun l hp hl hn => ?more, fun l f hp hl hn hf' hcount htrunc => ?last,
      fun hp => ?dropped⟩
    case entry =>
      have hends : State.Ends
          { s with
            mem := s.mem.write x, gate := { s.gate with port := none }
            scan := { s.scan with fifo := rest } } (finish s (s.entryWritten x true)) :=
        finish_ends_of (by simp [State.entryWritten, State.scanWrote, hq, State.withScan])
      exact ⟨_, show execScanWordWritten s = _ from execScanWordWritten_entry hreset hp, hends,
        hends.written_byte rfl rfl⟩
    case more =>
      have hends : (s.headerAt x l).Ends (finish s (s.headerWritten x true).deliver) :=
        finish_ends_of (by rw [State.headerWritten_more hl hn]; exact State.deliver_none _ ha ht hf hb)
      exact ⟨_, show execScanWordWritten s = _ from execScanWordWritten_header hreset hp, hends,
        hends.written_byte rfl rfl⟩
    case last =>
      have hends : (s.lineFilled x l).Ends (finish s (s.headerWritten x true).deliver) :=
        finish_ends_of (by
          rw [State.headerWritten_last hl hn hf', if_neg (by simp [hcount, htrunc])]
          exact State.deliver_none _ ha ht hf hb)
      exact ⟨_, show execScanWordWritten s = _ from execScanWordWritten_header hreset hp, hends,
        hends.written_byte rfl rfl⟩
    case dropped =>
      rcases hp with hp | hp
      · have hends : State.Ends { s with mem := s.mem.write x, gate := { s.gate with port := none } }
            (finish s (s.entryWritten x false)) := finish_ends _ _
        exact ⟨_, show execScanWordWritten s = _ from execScanWordWritten_entry hreset hp, hends,
          hends.written_byte rfl rfl⟩
      · have hends : State.Ends { s with mem := s.mem.write x, gate := { s.gate with port := none } }
            (finish s (s.headerWritten x false).deliver) := finish_ends_of (State.deliver_none _ ha ht hf hb)
        exact ⟨_, show execScanWordWritten s = _ from execScanWordWritten_header hreset hp, hends,
          hends.written_byte rfl rfl⟩

/-! ## The end of a frame (R38 to R40) -/

theorem Carriage.enterPositioning_truncation (t : Nat) (c : Carriage) :
    (c.enterPositioning t).truncationEvent = c.truncationEvent := by
  unfold Carriage.enterPositioning Carriage.moveStep Carriage.step
  dsimp only
  (repeat' split) <;> rfl

theorem Carriage.requestPosition_truncation (t p : Nat) (c : Carriage) :
    (c.requestPosition t p).truncationEvent = c.truncationEvent := by
  unfold Carriage.requestPosition Carriage.enterHoming Carriage.homeStep Carriage.endHoming
  dsimp only
  (repeat' split) <;> simp [Carriage.enterPositioning_truncation]

theorem State.endFrame_truncation (u : State) :
    u.endFrame.carriage.truncationEvent = u.carriage.truncationEvent := by
  have htrack : u.carriage.trackEnd.truncationEvent = u.carriage.truncationEvent := (Carriage.trackEnd_events _).2.1
  unfold State.endFrame State.orderNextFrame
  dsimp only
  (repeat' split) <;> simp [Carriage.requestPosition_truncation, htrack]

/-- The events that the end of a frame gives are taken: an arrival, or a carriage fault. -/
theorem State.endFrame_delivers (old u : State) (ha : u.carriage.arrivalEvent = false)
    (ht : u.carriage.truncationEvent = false) (hb : u.drum.bandLostSignal = false) :
    ∃ v, u.FrameEnds v ∧ State.Delivered v (finish old u.endFrame.deliver) := by
  refine ⟨_, u.endFrame_ends ha, ?_⟩
  have hdeliver : u.endFrame.deliver = u.endFrame.takeArrival.takeCarriageFault := by
    have htrunc : u.endFrame.takeTruncation = u.endFrame := by
      simp [State.takeTruncation, State.endFrame_truncation, ht]
    have hlost : u.endFrame.takeArrival.takeBandLost = u.endFrame.takeArrival := by
      simp [State.takeBandLost, hb]
    rw [State.deliver, htrunc, hlost]
  rw [hdeliver]
  exact State.takeCarriageFault_delivered old _

/-- Settles O18: the fourth header word completes the line, and the line the frame. -/
theorem theLastLineEndsTheFrame : Obligations.TheLastLineEndsTheFrame := by
  intro s x l f hawake hp hl hn hf hlast
  have hreset := State.awake_inReset hawake
  obtain ⟨ha, ht, -, hb, -⟩ := s.noEvents_iff.1 (State.awake_noEvents hawake)
  obtain ⟨v, hv, hdelivered⟩ := State.endFrame_delivers s (s.lineFilled x l) ha ht hb
  refine ⟨_, v, show execScanWordWritten s = _ from execScanWordWritten_header hreset hp, hv, ?_⟩
  rwa [State.headerWritten_last hl hn hf, if_pos (Or.comm.mp hlast)]

end Sys2Proof.Machine
end

section
/-! PROOFS. The tone path (03_the_tone_path.md): level indices, the wedge, half-periods, the carrier and the frame
signature. -/

namespace Sys2Proof.Machine

/-! ## Level index and wedge (R46, R49) -/

/-- The level index of a distance above black, on a scale of `span` (R46). -/
theorem roundedIndex_mono {span d e : Nat} (h : d ≤ e) :
    (2 * 63 * d + span) / (2 * span) ≤ (2 * 63 * e + span) / (2 * span) :=
  Nat.div_le_div_right (by omega)

theorem roundedIndex_zero {span : Nat} (h : 0 < span) : (2 * 63 * 0 + span) / (2 * span) = 0 :=
  Nat.div_eq_of_lt (by omega)

theorem roundedIndex_span {span : Nat} (h : 0 < span) : (2 * 63 * span + span) / (2 * span) = 63 := by
  rw [Nat.div_eq_of_lt_le] <;> omega

theorem wedgeLevel_lt {j size : Nat} (h : j < size) : wedgeLevel j size < 256 :=
  (Nat.div_lt_iff_lt_mul (by omega)).mpr (by omega)

/-- The last position is at white: a line has at least 256 positions. -/
theorem wedgeLevel_last {j size : Nat} (h : j + 1 = size) (hs : 256 ≤ size) : wedgeLevel j size = 255 := by
  unfold wedgeLevel
  rw [Nat.div_eq_of_lt_le] <;> omega

/-! ## Half-periods (R51, R52) -/

/-- A quotient rounded half up falls as its divisor rises. -/
theorem roundDiv_anti {a d e : Nat} (hd : 0 < d) (h : d ≤ e) : (a + e) / (2 * e) ≤ (a + d) / (2 * d) := by
  rw [Nat.le_div_iff_mul_le (by omega)]
  have hq := Nat.div_mul_le_self (a + e) (2 * e)
  generalize (a + e) / (2 * e) = q at hq ⊢
  cases q with
  | zero => omega
  | succ q => nlinarith [Nat.mul_le_mul_left (2 * q + 1) h]

theorem fixedHalf_anti {f g : Nat} (hf : 0 < f) (h : f ≤ g) : fixedHalf g ≤ fixedHalf f := roundDiv_anti hf h

/-- A frequency of D/255 Hz with D = 255·F is the frequency F. -/
theorem roundDiv_255 (f : Nat) : (1020000000 + 255 * f) / (2 * (255 * f)) = fixedHalf f := by
  rw [show 1020000000 + 255 * f = 255 * (4000000 + f) by ring, show 2 * (255 * f) = 255 * (2 * f) by ring,
    Nat.mul_div_mul_left _ _ (by norm_num), fixedHalf]

theorem pictureHalf_zero (fb fw : Nat) : pictureHalf fb fw 0 = fixedHalf fb := by
  simpa [pictureHalf] using roundDiv_255 fb

theorem pictureHalf_255 {fb fw : Nat} (h : fb ≤ fw) : pictureHalf fb fw 255 = fixedHalf fw := by
  have hdn : 255 * fb + (fw - fb) * 255 = 255 * fw := by omega
  simpa [pictureHalf, hdn] using roundDiv_255 fw

theorem pictureHalf_anti {fb fw y z : Nat} (hb : 0 < fb) (h : y ≤ z) : pictureHalf fb fw z ≤ pictureHalf fb fw y :=
  roundDiv_anti (by omega) (Nat.add_le_add_left (Nat.mul_le_mul_left _ h) _)

/-- Settles O20: each scale is a quotient rounded half up, and monotone. -/
theorem levelsWedgeAndHalfPeriods : Obligations.LevelsWedgeAndHalfPeriods := by
  refine ⟨fun b w s hspan => ?index, fun p f pair j sample hw hk _ hj => ?wedge, fun _ => rfl,
    fun fb fw y dn _ hdn => by rw [hdn]; rfl, fun fb fw y hb hpair hw hy => ?half⟩
  case index =>
    have hpos : 0 < w - b := by omega
    refine ⟨rfl, ?_, fun hs => ?_, fun hs => ?_, fun s' hs => roundedIndex_mono (by omega)⟩
    · exact (roundedIndex_mono (Nat.min_le_right _ _)).trans_eq (roundedIndex_span hpos)
    · rw [levelIndex, show s - b = 0 by omega, Nat.zero_min]
      exact roundedIndex_zero hpos
    · rw [levelIndex, Nat.min_eq_right (by omega)]
      exact roundedIndex_span hpos
  case wedge =>
    have hlevel : lineLevel p f pair j sample = wedgeLevel j (240 * f.k) := if_pos hw
    rw [hlevel]
    exact ⟨rfl, Nat.le_of_lt_succ (wedgeLevel_lt hj), fun hlast => wedgeLevel_last hlast (by omega)⟩
  case half =>
    have hwhite : fixedHalf fw ≤ pictureHalf fb fw y :=
      (pictureHalf_255 (by omega)).symm.trans_le (pictureHalf_anti (by omega) hy)
    have hblack : pictureHalf fb fw y ≤ fixedHalf fb :=
      (pictureHalf_anti (by omega) (Nat.zero_le y)).trans_eq (pictureHalf_zero fb fw)
    have hlow : 667 ≤ fixedHalf fw := fixedHalf_anti (f := fw) (g := 3000) (by omega) hw
    have hhigh : fixedHalf fb ≤ 5000 := fixedHalf_anti (f := 400) (g := fb) (by omega) hb
    exact ⟨hwhite, hblack, pictureHalf_zero fb fw, pictureHalf_255 (by omega), hlow.trans hwhite, hblack.trans hhigh,
      fun z hz _ => pictureHalf_anti (by omega) hz⟩

/-! ## The signature register (R56)

The register is linear over exclusive or: two registers that differ keep the difference that the register fed from their
difference with zeros holds, and that is never lost. -/

theorem sigBit_eq (r : Sig) (b : Bool) : sigBit r b = (r <<< 1) ^^^ (if (r.msb ^^ b) = true then 0x1021#16 else 0) := by
  unfold sigBit
  cases r.msb <;> cases b <;> simp

theorem sigBit_xor (r s : Sig) (a b : Bool) : sigBit (r ^^^ s) (a ^^ b) = sigBit r a ^^^ sigBit s b := by
  have hpoly : ∀ c d : Bool, (if (c ^^ d) = true then 0x1021#16 else 0) =
      (if c = true then 0x1021#16 else 0) ^^^ (if d = true then 0x1021#16 else 0) := by decide
  have hmsb : ((r ^^^ s).msb ^^ (a ^^ b)) = ((r.msb ^^ a) ^^ (s.msb ^^ b)) := by
    rw [BitVec.msb_xor]
    cases r.msb <;> cases s.msb <;> cases a <;> cases b <;> rfl
  rw [sigBit_eq, sigBit_eq, sigBit_eq, hmsb, hpoly, BitVec.shiftLeft_xor_distrib]
  ac_rfl

/-- A difference is not shifted out: where the top bit falls off, the polynomial comes in at the bottom. -/
theorem sigBit_eq_zero {r : Sig} (h : sigBit r false = 0) : r = 0 := by
  rw [sigBit_eq, Bool.xor_false] at h
  cases hm : r.msb with
  | true =>
    rw [hm] at h
    have hbit := congrArg (BitVec.getLsbD · 0) h
    simp at hbit
  | false =>
    rw [hm] at h
    have hlow : r.toNat < 2 ^ 15 := by simpa [BitVec.msb_eq_decide] using hm
    have hzero : (r <<< 1).toNat = 0 := by simpa using congrArg BitVec.toNat h
    rw [BitVec.toNat_shiftLeft, Nat.shiftLeft_eq] at hzero
    exact BitVec.eq_of_toNat_eq (show r.toNat = 0 by omega)

theorem sigFeed_foldl (l : List Nat) (r s : Sig) (x y : Nat) :
    l.foldl (fun r i => sigBit r ((x ^^^ y).testBit i)) (r ^^^ s) =
      l.foldl (fun r i => sigBit r (x.testBit i)) r ^^^ l.foldl (fun r i => sigBit r (y.testBit i)) s := by
  induction l generalizing r s with
  | nil => rfl
  | cons i l ih => rw [List.foldl_cons, List.foldl_cons, List.foldl_cons, Nat.testBit_xor, sigBit_xor, ih]

theorem sigFeed_xor (r s : Sig) (x y : Nat) : sigFeed (r ^^^ s) (x ^^^ y) = sigFeed r x ^^^ sigFeed s y :=
  sigFeed_foldl _ r s x y

theorem sigFeed_zero_eq_zero {r : Sig} (h : sigFeed r 0 = 0) : r = 0 := by
  have hbits : ∀ (l : List Nat) (r : Sig), l.foldl (fun r i => sigBit r (Nat.testBit 0 i)) r = 0 → r = 0 := by
    intro l
    induction l with
    | nil => exact fun _ h => h
    | cons i l ih =>
      intro r h
      exact sigBit_eq_zero (by simpa using ih _ h)
  exact hbits _ r h

/-- Eight bits that are not all 0 leave a register that is not 0. -/
theorem sigBit_eight_eq_zero : ∀ b₇ b₆ b₅ b₄ b₃ b₂ b₁ b₀ : Bool,
    [b₇, b₆, b₅, b₄, b₃, b₂, b₁, b₀].foldl sigBit 0 = 0 → [b₇, b₆, b₅, b₄, b₃, b₂, b₁, b₀].all (· == false) = true := by
  decide

theorem sigFeed_of_zero_eq_zero {x : Nat} (hx : x < 256) (h : sigFeed 0 x = 0) : x = 0 := by
  have hbits := sigBit_eight_eq_zero _ _ _ _ _ _ _ _ h
  simp only [List.all_cons, List.all_nil, Bool.and_true, Bool.and_eq_true, beq_iff_eq] at hbits
  obtain ⟨h7, h6, h5, h4, h3, h2, h1, h0⟩ := hbits
  refine Nat.eq_of_testBit_eq fun i => ?_
  rw [Nat.zero_testBit]
  by_cases hi : i < 8
  · interval_cases i <;> assumption
  · have hpow : 2 ^ 8 ≤ 2 ^ i := Nat.pow_le_pow_right (by norm_num) (Nat.le_of_not_lt hi)
    exact Nat.testBit_lt_two_pow (hx.trans_le hpow)

theorem sigFeed_level_injective {r : Sig} {x y : Nat} (hx : x < 256) (hy : y < 256) (h : sigFeed r x = sigFeed r y) :
    x = y := by
  have hdiff : sigFeed (r ^^^ r) (x ^^^ y) = 0 := by
    rw [sigFeed_xor, h, BitVec.xor_self]
    rfl
  rw [BitVec.xor_self] at hdiff
  have hlt : x ^^^ y < 2 ^ 8 := Nat.xor_lt_two_pow hx hy
  exact Nat.xor_eq_zero_iff.mp (sigFeed_of_zero_eq_zero hlt hdiff)

theorem sigFeed_register_injective {r s : Sig} {x : Nat} (h : sigFeed r x = sigFeed s x) : r = s := by
  have hdiff : sigFeed (r ^^^ s) (x ^^^ x) = 0 := by
    rw [sigFeed_xor, h, BitVec.xor_self]
    rfl
  rw [Nat.xor_self] at hdiff
  exact BitVec.xor_eq_zero_iff.mp (sigFeed_zero_eq_zero hdiff)

theorem foldl_sigFeed_injective (levels : List Nat) {r s : Sig} (h : levels.foldl sigFeed r = levels.foldl sigFeed s) :
    r = s := by
  induction levels generalizing r s with
  | nil => exact h
  | cons x levels ih => exact sigFeed_register_injective (ih h)

/-- Settles O21: the levels after the wrong one keep the difference that it makes. -/
theorem oneWrongLevelChangesTheSignature : Obligations.OneWrongLevelChangesTheSignature := by
  intro r before after x y hx hy hne h
  rw [List.foldl_append, List.foldl_append, List.foldl_cons, List.foldl_cons] at h
  exact hne (sigFeed_level_injective hx hy (foldl_sigFeed_injective after h))

/-! ## The carrier (R54) -/

/-- Settles O22. -/
theorem carrierToggles : Obligations.CarrierToggles := by
  intro s hreset hrelay hmode hdue
  have htoggle : (s.line.relay && s.line.carrier.toggleDue s.crystal) = true := by
    simp [Carrier.toggleDue, hrelay, hmode, hdue]
  exact ⟨_, show execCarrierToggle s = _ from when_due _ _ s hreset htoggle, finish_ends _ _⟩

end Sys2Proof.Machine
end

section
/-! PROOFS. The Line Unit's dialing, loop watch and tone monitor (05_calls.md). -/

namespace Sys2Proof.Machine

/-! ## Dialing (R80, R81, R82) -/

theorem Line.beginSymbol_symbolBegun {l : Line} {p : LineProfile} {call : CallInfo} (hp : l.snapshot = some p)
    (hc : l.call = some call) (t : Nat) : l.beginSymbol t = l.symbolBegun p t call.dial[l.dialCursor]? := by
  have hsnap : l.snap = p := by simp [Line.snap, hp]
  have hdial : l.dial = call.dial := by simp [Line.dial, hc]
  unfold Line.beginSymbol Line.symbolBegun
  rw [hdial]
  cases call.dial[l.dialCursor]? with
  | none => simp [hsnap]
  | some symbol =>
    cases symbol with
    | digit d => simp [Line.beginBreak, digitBreaks, hsnap]
    | pause => simp [Line.beginMake]

theorem Line.enterDialing_symbolBegun {l : Line} {p : LineProfile} {call : CallInfo} (hp : l.snapshot = some p)
    (hc : l.call = some call) (t : Nat) :
    l.enterDialing t =
      { l with
        state := .dialing, seizeTimer := none, dialCursor := 0
        carrier := l.carrier.pulseRequest }.symbolBegun p t call.dial[0]? :=
  Line.beginSymbol_symbolBegun
    (l := { l with state := .dialing, seizeTimer := none, dialCursor := 0, carrier := l.carrier.pulseRequest }) hp hc t

theorem Line.endMake_symbolBegun {l : Line} {p : LineProfile} {call : CallInfo} (hp : l.snapshot = some p)
    (hc : l.call = some call) (hn : l.breaksLeft = 0) (t : Nat) :
    l.endMake t = { l with dialCursor := l.dialCursor + 1 }.symbolBegun p t call.dial[l.dialCursor + 1]? := by
  rw [Line.endMake, if_neg (by omega)]
  exact Line.beginSymbol_symbolBegun (l := { l with dialCursor := l.dialCursor + 1 }) hp hc t

theorem State.dialDue_of {s : State} {phase : DialPhase} {due : Nat} (hst : s.line.state = .dialing)
    (ht : s.line.dialTimer = some due) (hph : s.line.dialPhase = some phase) (hdue : due ≤ s.now) :
    s.dialDue phase = true := by
  simp [State.dialDue, hst, hph, ht, expired, hdue]

/-- Settles O23. -/
theorem dialingBreakByBreak : Obligations.DialingBreakByBreak := by
  intro s due p call hreset hdue hp hc
  have hsnap : s.line.snap = p := by simp [Line.snap, hp]
  refine ⟨fun hst ht => ?seized, fun n hst ht hph hn => ?breakEnds, fun n hst ht hph hn => ?nextBreak,
    fun hst ht hph hn => ?nextSymbol⟩
  case seized =>
    exact ⟨_, show execSeizeWaitExpiry s = _ from when_due _ _ s hreset (by simp [hst, ht, expired, hdue]),
      finish_ends_of (congrArg s.withLine (Line.enterDialing_symbolBegun hp hc _))⟩
  case breakEnds =>
    refine ⟨_, show execDialBreakEnd s = _ from when_due _ _ s hreset (State.dialDue_of hst ht hph hdue),
      finish_ends_of ?_⟩
    cases n with
    | zero => simp [State.withLine, Line.endBreak, Line.beginMake, Line.dialEnd, ht, hn]
    | succ n => simp [State.withLine, Line.endBreak, Line.beginMake, Line.dialEnd, ht, hn, Line.snap, hp]
  case nextBreak =>
    refine ⟨_, show execDialMakeEnd s = _ from when_due _ _ s hreset (State.dialDue_of hst ht hph hdue),
      finish_ends_of ?_⟩
    simp [State.withLine, Line.endMake, Line.beginBreak, Line.dialEnd, ht, hn, hsnap]
  case nextSymbol =>
    refine ⟨_, show execDialMakeEnd s = _ from when_due _ _ s hreset (State.dialDue_of hst ht hph hdue),
      finish_ends_of ?_⟩
    have hend : s.line.dialEnd = due := by simp [Line.dialEnd, ht]
    rw [State.mapLine_eq, hend]
    exact congrArg s.withLine (Line.endMake_symbolBegun hp hc hn due)

/-! ## The loop watch (R82, R98) -/

theorem LineState.attempting_of_mem {x : LineState}
    (h : x ∈ [LineState.seizeWait, .dialing, .answerWait, .startTone, .readyWait, .phasing, .picture, .separator]) :
    x.attempting = true ∧ x ≠ .stopTone := by
  cases x <;> simp at h <;> exact ⟨rfl, by simp⟩

/-- No event comes from a change of the line. -/
theorem State.mapLine_deliver {s : State} (f : Line → Line) (h : s.noEvents = true) :
    (s.mapLine f).deliver = s.mapLine f := by
  obtain ⟨h1, h2, h3, h4, -⟩ := s.noEvents_iff.1 h
  exact State.deliver_none _ h1 h2 h3 h4

/-- Settles O24. -/
theorem loopWatch : Obligations.LoopWatch := by
  intro s present hawake
  have hreset := State.awake_inReset hawake
  have hev := State.awake_noEvents hawake
  obtain ⟨h1, h2, h3, h4, -⟩ := s.noEvents_iff.1 hev
  refine ⟨fun hne => ?change, fun u hrelay ht hu => ⟨fun hst => ?stopTone, fun hst => ?attempt⟩⟩
  case change =>
    refine ⟨_, show execLoopChange present s = _ from whenLevel_due _ _ _ s hreset (by simp [hne]), finish_ends_of ?_⟩
    rw [State.mapLine_deliver _ hev]
    simp [State.withLine, Line.loopChange]
  all_goals
    have hlost : s.line.loopLost s.now = true := by
      simp [Line.loopLost, hrelay, ht, hasRun, hu]
  case stopTone =>
    refine ⟨_, show execLoopLoss s = _ from whenDeliver_due _ _ s hreset hlost, finish_ends_of ?_⟩
    rw [State.loseLine, if_pos hst, State.mapLine_deliver _ hev]
    rfl
  case attempt =>
    obtain ⟨hat, hns⟩ := LineState.attempting_of_mem hst
    refine ⟨_, show execLoopLoss s = _ from whenDeliver_due _ _ s hreset hlost, ?_⟩
    rw [State.loseLine, if_neg hns, if_pos hat]
    exact State.endAttempt_ended _ _ _ _ _ h1 h2 h3

/-! ## The tone monitor (R83, R84) -/

/-- A window's end makes the run longer, or starts a new one. -/
theorem Monitor.windowDone_eq {m : Monitor} {due crossings : Nat} (hm : m.windowEnd = some due) :
    m.windowDone crossings =
      { windowEnd := some (due + 40000), band := bandOf crossings
        count := if bandOf crossings = none then 0 else if bandOf crossings = m.band then m.count + 1 else 1
        recognised := decide (bandOf crossings ≠ none ∧ bandOf crossings = m.band) && m.recognised } := by
  unfold Monitor.windowDone
  rw [hm]
  cases hb : bandOf crossings with
  | none => simp
  | some tone =>
    by_cases hsame : some tone = m.band
    · simp [← hsame]
    · simp [hsame]

/-- Settles O25. -/
theorem toneWindows : Obligations.ToneWindows := by
  intro s crossings due count used band hreset hrelay hw hdue hband hcount hused
  refine ⟨_, show execToneWindowEnd crossings s = _ from when_due _ _ s hreset (by simp [hrelay, hw, expired, hdue]),
    finish_ends_of ?_⟩
  have hbo : bandOf crossings = band := hband.symm
  have hm := Monitor.windowDone_eq (crossings := crossings) hw
  rw [hbo, ← hcount, ← hused] at hm
  refine congrArg s.withLine ?_
  simp only [Line.windowDone, hm, Monitor.recognises]
  cases used with
  | true => simp
  | false => cases band with
    | none => simp
    | some tone => by_cases hlong : s.line.snap.windows ≤ count <;> simp [hlong]

end Sys2Proof.Machine
end

section
/-! PROOFS. The call: recognised tones, repeats, timers and the end of phasing (05_calls.md; 04_the_line_ring.md,
Repeats). -/

namespace Sys2Proof.Machine

/-! ## The Line Unit takes a recognition (R84 to R86, R91) -/

theorem execToneRecognised_due {s : State} {tone : Tone} (h : s.inReset = false) (ht : s.line.toneDue = some tone) :
    execToneRecognised s = .next (finish s ((s.mapLine (·.noteTone tone)).actOnTone tone).deliver) := by
  rw [execToneRecognised, live_awake _ s h]
  simp only [ht]

theorem State.actOnTone_ends {s : State} {tone : Tone}
    (h : (s.line.state = .answerWait ∧ tone = .notReady) ∨
      ((s.line.state = .phasing ∨ s.line.state = .picture ∨ s.line.state = .separator) ∧ tone = .halt)) :
    s.actOnTone tone = s.endAttempt (if tone = .halt then .halted else .notReady) .none false := by
  obtain ⟨hst, rfl⟩ | ⟨hst | hst | hst, rfl⟩ := h <;> simp [State.actOnTone, hst]

theorem State.actOnTone_shown {s : State} {tone : Tone}
    (h : s.line.state ∈ [.onHook, .seizeWait, .dialing, .startTone, .readyWait, .stopTone, .releaseGuard] ∨
      (s.line.state = .answerWait ∧ tone ≠ .ready ∧ tone ≠ .notReady) ∨
      ((s.line.state = .phasing ∨ s.line.state = .separator) ∧ tone ≠ .halt) ∨
      (s.line.state = .picture ∧ tone ≠ .halt ∧ tone ≠ .repeatLines)) :
    s.actOnTone tone = s := by
  unfold State.actOnTone
  split <;> simp_all

/-- Settles O26, by the pairs of line state and tone that are acted on. -/
theorem toneRecognitions : Obligations.ToneRecognitions := by
  intro s tone hawake ht
  have hreset := State.awake_inReset hawake
  have hev := State.awake_noEvents hawake
  obtain ⟨h1, h2, h3, h4, -⟩ := s.noEvents_iff.1 hev
  have hexec : exec .toneRecognised s = _ := show execToneRecognised s = _ from execToneRecognised_due hreset ht
  refine ⟨fun hst hr => ?ready, fun h => ?ends, fun h => ?shown⟩
  case ready =>
    subst hr
    have hact : (s.mapLine (·.noteTone .ready)).actOnTone .ready = (s.mapLine (·.noteTone .ready)).answer := by
      unfold State.actOnTone
      rw [show (s.mapLine (·.noteTone .ready)).line.state = .answerWait from hst]
    refine ⟨_, hexec, finish_ends_of ?_⟩
    rw [hact]
    exact State.deliver_none _ h1 h2 h3 h4
  case ends =>
    refine ⟨_, hexec, ?_⟩
    rw [State.actOnTone_ends (s := s.mapLine (·.noteTone tone)) h]
    exact State.endAttempt_ended _ _ _ _ _ h1 h2 h3
  case shown =>
    refine ⟨_, hexec, finish_ends_of ?_⟩
    rw [State.actOnTone_shown (s := s.mapLine (·.noteTone tone)) h, State.mapLine_deliver _ hev]
    rfl

/-! ## Repeats (R68, R69) -/

theorem allSome_eq_some {α : Type} {l : List (Option α)} {x : List α} : allSome l = some x ↔ l = x.map some := by
  induction l generalizing x with
  | nil => cases x <;> simp [allSome]
  | cons a l ih =>
    cases a with
    | none => cases x <;> simp [allSome]
    | some a =>
      cases x with
      | nil => simp [allSome]
      | cons b x => simp [allSome, ih, and_comm]

theorem allSome_eq_none {α : Type} {l : List (Option α)} : allSome l = none ↔ none ∈ l := by
  induction l with
  | nil => simp [allSome]
  | cons a l ih => cases a <;> simp [allSome, ih]

/-- The slots of a range, position by position. -/
theorem Ring.repeatRange_eq_some {r : Ring} {top n : Nat} {slots : List Nat} (h : r.repeatRange top n = some slots) :
    slots.length = n ∧ ∀ i (hi : i < slots.length), r.repeatSlot (top - n + i) = some slots[i] := by
  have heq := allSome_eq_some.mp h
  have hlen : slots.length = n := by simpa using (congrArg List.length heq).symm
  refine ⟨hlen, fun i hi => ?_⟩
  have hget := congrArg (·[i]?) heq
  simpa [hi, hlen ▸ hi] using hget

theorem Ring.repeatRange_eq_none {r : Ring} {top n : Nat} :
    r.repeatRange top n = none ↔ ∃ i, i < n ∧ r.repeatSlot (top - n + i) = none := by
  simp [Ring.repeatRange, allSome_eq_none]

/-- A slot holds one line, so that two lines of a range are in two slots. -/
theorem Ring.repeatSlot_line {r : Ring} {line n : Nat} (h : r.repeatSlot line = some n) : (r.slot n).line = line := by
  obtain ⟨hn, hf, -⟩ := List.findIdx?_eq_some_iff_getElem.mp h
  simp only [Bool.and_eq_true, beq_iff_eq] at hf
  rw [Ring.slot_get r n r.slots[n] (List.getElem?_eq_getElem hn)]
  exact hf.2

theorem Ring.repeatRange_nodup {r : Ring} {top n : Nat} {slots : List Nat} (h : r.repeatRange top n = some slots) :
    slots.Nodup := by
  obtain ⟨-, hslots⟩ := Ring.repeatRange_eq_some h
  rw [List.nodup_iff_injective_getElem]
  intro ⟨i, hi⟩ ⟨j, hj⟩ hij
  have hli := Ring.repeatSlot_line (hslots i hi)
  have hlj := Ring.repeatSlot_line (hslots j hj)
  simp only at hij
  rw [hij, hlj] at hli
  exact Fin.ext (by simp; omega)

/-- What a granted slot's holding leaves of another slot. -/
theorem Ring.holdSlot_slot_of_ne {r : Ring} {n m : Nat} (h : m ≠ n) : (r.holdSlot n).slot m = r.slot m := by
  unfold Ring.holdSlot
  split
  · simp [Ring.slot, Ring.setState, List.getD_eq_getElem?_getD, updateAt_other _ _ h]
  · rfl

theorem Ring.holdSlot_eq (r : Ring) (n : Nat) :
    r.holdSlot n =
      { r with
        slots := r.slots.mapIdx fun m e => if m = n ∧ e.state = .sent then { e with state := .held } else e
        marked := r.marked || (r.slot n).state != .sent } := by
  have hslots (hs : (r.slot n).state ≠ .sent) :
      (r.slots.mapIdx fun m e => if m = n ∧ e.state = .sent then { e with state := .held } else e) = r.slots := by
    refine List.ext_getElem? fun m => ?_
    rw [List.getElem?_mapIdx]
    cases hm : r.slots[m]? with
    | none => rfl
    | some e =>
      have hno : ¬ (m = n ∧ e.state = .sent) := by
        rintro ⟨rfl, he⟩
        exact hs (by rw [Ring.slot_get r m e hm]; exact he)
      simp [hno]
  unfold Ring.holdSlot
  split
  next hs =>
    simp only [Ring.setState, hs, bne_self_eq_false, Bool.or_false]
    congr 1
    refine List.ext_getElem? fun m => ?_
    rw [List.getElem?_mapIdx, updateAt_eq, List.getElem?_modify]
    cases hm : r.slots[m]? with
    | none => rfl
    | some e =>
      by_cases hmn : n = m
      · subst hmn
        have he : e.state = .sent := by rw [← Ring.slot_get r n e hm]; exact hs
        simp [he]
      · simp [hmn, Ne.symm hmn]
  next hs => simp [hslots hs, hs]

/-- The granted slots, each once, are held or marked at one go. -/
theorem Ring.foldl_holdSlot (slots : List Nat) (h : slots.Nodup) (r : Ring) :
    slots.foldl Ring.holdSlot r =
      { r with
        slots := r.slots.mapIdx fun m e => if m ∈ slots ∧ e.state = .sent then { e with state := .held } else e
        marked := r.marked || slots.any fun m => (r.slot m).state != .sent } := by
  induction slots generalizing r with
  | nil =>
    have hid : r.slots.mapIdx (fun _ e => e) = r.slots := List.ext_getElem? fun m => by simp
    simp [hid]
  | cons n slots ih =>
    obtain ⟨hn, hnd⟩ := List.nodup_cons.mp h
    have hany : (slots.any fun m => ((r.holdSlot n).slot m).state != .sent) =
        slots.any fun m => (r.slot m).state != .sent := by
      rw [Bool.eq_iff_iff, List.any_eq_true, List.any_eq_true]
      exact exists_congr fun m => and_congr_right fun hm => by
        rw [Ring.holdSlot_slot_of_ne (ne_of_mem_of_not_mem hm hn)]
    rw [List.foldl_cons, ih hnd, hany, Ring.holdSlot_eq]
    simp only [List.mapIdx_mapIdx, List.any_cons, Bool.or_assoc]
    congr 1
    refine congrArg (fun f => List.mapIdx f r.slots) (funext fun m => funext fun e => ?_)
    by_cases hm : m = n
    · subst hm; by_cases he : e.state = .sent <;> simp [he, hn]
    · simp [hm]

/-- The decision refuses for the first condition that fails, and else gives the range. -/
theorem Ring.decideRepeat_cases {r : Ring} {sent window used limit first n : Nat} {why : Option RepeatRefusal}
    {d : Decidable (∃ i, i < n ∧ r.repeatSlot (first - n + i) = none)}
    (hfirst : first = sent + (if r.picked.isSome = true ∧ r.firstSend = true then 1 else 0))
    (hn : n = min window first)
    (hwhy : why =
      (if r.repeatQueue ≠ [] then some RepeatRefusal.queueBusy
        else if limit ≤ used then some RepeatRefusal.limitReached
        else if n = 0 then some RepeatRefusal.emptyRange
        else if ∃ i, i < n ∧ r.repeatSlot (first - n + i) = none then some RepeatRefusal.linesGone
        else none)) :
    (∃ x, why = some x ∧ r.decideRepeat sent window used limit = .inl x) ∨
      (why = none ∧ ∃ slots, r.repeatRange first n = some slots ∧
        r.decideRepeat sent window used limit = .inr slots) := by
  have hbegun : r.sendsBegun sent = first := by
    rw [hfirst, Ring.sendsBegun]
    cases r.picked.isSome <;> cases r.firstSend <;> rfl
  simp only [Ring.decideRepeat, hbegun, ← hn]
  rw [hwhy]
  by_cases hq : r.repeatQueue ≠ []
  · exact .inl ⟨_, if_pos hq, if_pos hq⟩
  rw [if_neg hq, if_neg hq]
  by_cases hl : limit ≤ used
  · exact .inl ⟨_, if_pos hl, if_pos hl⟩
  rw [if_neg hl, if_neg hl]
  by_cases hz : n = 0
  · exact .inl ⟨_, if_pos hz, if_pos hz⟩
  rw [if_neg hz, if_neg hz]
  cases hr : r.repeatRange first n with
  | none => exact .inl ⟨_, if_pos (Ring.repeatRange_eq_none.mp hr), rfl⟩
  | some slots =>
    have hno : ¬ ∃ i, i < n ∧ r.repeatSlot (first - n + i) = none := fun h => by
      rw [Ring.repeatRange_eq_none.mpr h] at hr; cases hr
    exact .inr ⟨if_neg hno, slots, rfl, rfl⟩

theorem State.actOnTone_repeat {s : State} (hst : s.line.state = .picture) :
    s.actOnTone .repeatLines = s.repeatAsked := by
  unfold State.actOnTone
  rw [hst]

theorem State.repeatAsked_refused {s : State} {call : CallInfo} {why : RepeatRefusal} (hc : s.line.call = some call)
    (h : s.ring.decideRepeat ((s.record.frames[s.ring.sendFrame]?.map fun e => e.firstSent).getD 0) call.window
      s.line.grantsUsed s.line.snap.repeatLimit = .inl why) :
    s.repeatAsked =
      { s with
        ring := { s.ring with refusals := min (s.ring.refusals + 1) 65535, lastRefusal := some why }
        record := { s.record with repeatsRefused := min (s.record.repeatsRefused + 1) 65535 } } := by
  unfold State.repeatAsked
  simp only [hc, Option.map_some, Option.getD_some, h]
  rfl

theorem State.repeatAsked_granted {s : State} {call : CallInfo} {slots : List Nat} (hc : s.line.call = some call)
    (hnd : slots.Nodup)
    (h : s.ring.decideRepeat ((s.record.frames[s.ring.sendFrame]?.map fun e => e.firstSent).getD 0) call.window
      s.line.grantsUsed s.line.snap.repeatLimit = .inr slots) :
    s.repeatAsked =
      { s with
        ring :=
          { s.ring with
            slots :=
              s.ring.slots.mapIdx fun m e => if m ∈ slots ∧ e.state = .sent then { e with state := .held } else e
            marked := s.ring.marked || slots.any fun m => (s.ring.slot m).state != .sent
            repeatQueue := slots, grants := min (s.ring.grants + 1) 65535 }
        record := { s.record with repeatsServed := min (s.record.repeatsServed + 1) 65535 }
        line := { s.line with grantsUsed := s.line.grantsUsed + 1 } } := by
  unfold State.repeatAsked
  simp only [hc, Option.map_some, Option.getD_some, h, Ring.grant, Ring.foldl_holdSlot slots hnd]
  rfl

theorem State.repeatAsked_deliver {s : State} (h : s.noEvents = true) : s.repeatAsked.deliver = s.repeatAsked := by
  obtain ⟨h1, h2, h3, h4, -⟩ := s.noEvents_iff.1 h
  unfold State.repeatAsked
  dsimp only
  split <;> exact State.deliver_none _ h1 h2 h3 h4

/-- Settles O27. -/
theorem repeatDecisions : Obligations.RepeatDecisions := by
  intro s call first n hawake ht hst hc hfirst hn why hwhy
  have hreset := State.awake_inReset hawake
  have hexec : exec .toneRecognised s = .next (finish s (s.mapLine (·.noteTone .repeatLines)).repeatAsked) := by
    rw [← State.repeatAsked_deliver (s := s.mapLine (·.noteTone .repeatLines)) (State.awake_noEvents hawake),
      ← State.actOnTone_repeat (s := s.mapLine (·.noteTone .repeatLines)) hst]
    exact show execToneRecognised s = _ from execToneRecognised_due hreset ht
  have hshown : s.line.noteTone .repeatLines =
      { s.line with toneDue := none, lastTone := some (.repeatLines, .picture) } :=
    congrArg (fun st => { s.line with toneDue := none, lastTone := some (.repeatLines, st) }) hst
  rcases Ring.decideRepeat_cases hfirst hn hwhy with ⟨x, hx, hdec⟩ | ⟨hx, slots, hr, hdec⟩
  · refine ⟨fun _ => ⟨_, hexec, finish_ends_of ?_⟩, fun h => absurd (h.symm.trans hx) (by simp)⟩
    rw [State.repeatAsked_refused (s := s.mapLine (·.noteTone .repeatLines)) hc hdec, hx, ← hshown]
    rfl
  · obtain ⟨hlen, hslots⟩ := Ring.repeatRange_eq_some hr
    refine ⟨fun h => absurd hx h, fun _ => ⟨_, slots, hexec, hlen, fun i slot hi hs => ?_, finish_ends_of ?_⟩⟩
    · rw [List.getElem?_eq_getElem (hlen ▸ hi), ← hs]
      exact (hslots i (hlen ▸ hi)).symm
    · rw [State.repeatAsked_granted (s := s.mapLine (·.noteTone .repeatLines)) hc (Ring.repeatRange_nodup hr) hdec]
      simp [State.withLine, hshown]

/-! ## The timers of the call (R85 to R87, R95, R96, R127) -/

theorem State.carriageReady_iff (s : State) :
    s.carriageReady = true ↔
      s.carriage.state = .atFrame ∧ ∃ f rest, s.line.frames = f :: rest ∧ s.carriage.position = f.start := by
  unfold State.carriageReady Line.frameStart
  cases s.line.frames <;> simp

/-- The outcome names the first condition of readiness that fails (R87). -/
theorem State.notReadyOutcome_drum {s : State} (h : s.drum.state ≠ .inBand ∧ s.drum.state ≠ .bandWarning) :
    s.notReadyOutcome = (.drumFault, .drumNotReady) := by
  unfold State.notReadyOutcome
  cases hs : s.drum.state <;> simp_all [DrumState.ready]

theorem State.notReadyOutcome_of_ready {s : State} (h : s.drum.state = .inBand ∨ s.drum.state = .bandWarning) :
    s.notReadyOutcome =
      if ¬ s.carriageReady = true then (.carriageFault, .carriageNotReady)
      else if s.scan.state ≠ .ready then (.carriageFault, .scannerNotReady)
      else (.drumFault, .noIndex) := by
  unfold State.notReadyOutcome
  rcases h with h | h <;> simp [h, DrumState.ready]

/-- An attempt whose ready wait has run out. -/
theorem readyWaitExpiry_ends {s : State} {due : Nat} {o : AttemptOutcome} {d : Detail} (hawake : s.awake = true)
    (hst : s.line.state = .readyWait) (ht : s.line.readyTimer = some due) (hdue : due ≤ s.now)
    (ho : s.notReadyOutcome = (o, d)) :
    ∃ t, exec .readyWaitExpiry s = .next t ∧ State.AttemptEnded s o d true t := by
  obtain ⟨h1, h2, h3, -, -⟩ := s.noEvents_iff.1 (State.awake_noEvents hawake)
  refine ⟨_, show execReadyWaitExpiry s = _ from
    whenDeliver_due _ _ s (State.awake_inReset hawake) (by simp [hst, ht, expired, hdue]), ?_⟩
  rw [ho]
  exact State.endAttempt_ended _ _ _ _ _ h1 h2 h3

/-- Settles O28. -/
theorem timersOfTheCall : Obligations.TimersOfTheCall := by
  refine ⟨fun s due hawake hdue => ⟨fun hst ht => ?answer, fun hst ht => ⟨fun hd => ?drum, fun hd => ⟨fun hc => ?carriage,
    fun f rest hf hat hpos => ⟨fun hscan => ?scanner, fun hscan => ?index⟩⟩⟩⟩,
    fun s due hreset hdue => ⟨fun hst ht => ?startTone, fun hst ht => ?stopTone, fun hst ht => ?guard⟩⟩
  case answer =>
    obtain ⟨h1, h2, h3, -, -⟩ := s.noEvents_iff.1 (State.awake_noEvents hawake)
    exact ⟨_, show execAnswerTimeout s = _ from
      whenDeliver_due _ _ s (State.awake_inReset hawake) (by simp [hst, ht, expired, hdue]),
      State.endAttempt_ended _ _ _ _ _ h1 h2 h3⟩
  case drum => exact readyWaitExpiry_ends hawake hst ht hdue (State.notReadyOutcome_drum hd)
  case carriage =>
    refine readyWaitExpiry_ends hawake hst ht hdue ?_
    rw [State.notReadyOutcome_of_ready hd, if_pos]
    rw [State.carriageReady_iff]
    rintro ⟨hat, f, rest, hf, hpos⟩
    exact hc.elim (fun h => h hat) fun h => h f rest hf hpos
  case scanner =>
    refine readyWaitExpiry_ends hawake hst ht hdue ?_
    rw [State.notReadyOutcome_of_ready hd, if_neg (not_not.mpr (s.carriageReady_iff.mpr ⟨hat, f, rest, hf, hpos⟩)),
      if_pos hscan]
  case index =>
    refine readyWaitExpiry_ends hawake hst ht hdue ?_
    rw [State.notReadyOutcome_of_ready hd, if_neg (not_not.mpr (s.carriageReady_iff.mpr ⟨hat, f, rest, hf, hpos⟩)),
      if_neg (not_not.mpr hscan)]
  case startTone =>
    exact ⟨_, show execStartToneExpiry s = _ from when_due _ _ s hreset (by simp [hst, ht, expired, hdue]),
      finish_ends _ _⟩
  case stopTone =>
    exact ⟨_, show execStopToneExpiry s = _ from when_due _ _ s hreset (by simp [hst, ht, expired, hdue]),
      finish_ends _ _⟩
  case guard =>
    exact ⟨_, _, show execReleaseGuardExpiry s = _ from when_due _ _ s hreset (by simp [hst, ht, expired, hdue]),
      State.look_looked _, finish_ends _ _⟩

/-! ## The end of phasing (R88, R89) -/

theorem State.sendTurn_truncation (u : State) : u.sendTurn.carriage.truncationEvent = u.carriage.truncationEvent := by
  unfold State.sendTurn
  split
  · split <;> rfl
  · exact (State.endAttempt_events _ _ _ _).2.1

theorem State.whiteTurn_truncation (b : Bool) (u : State) :
    (u.whiteTurn b).carriage.truncationEvent = u.carriage.truncationEvent := by
  unfold State.whiteTurn
  split
  · rfl
  · exact (State.endAttempt_events _ _ _ _).2.1

theorem State.askFrames_truncation (b : Bool) (n : Nat) (u : State) :
    (State.askFrames b n u).carriage.truncationEvent = u.carriage.truncationEvent := by
  induction n generalizing u with
  | zero => rfl
  | succ n ih =>
    unfold State.askFrames
    split
    · dsimp only
      split
      · exact (State.endAttempt_events _ _ _ _).2.1
      · exact ih _
    · split
      · split
        · exact State.sendTurn_truncation _
        · exact (State.endAttempt_events _ _ _ _).2.1
      · exact State.whiteTurn_truncation _ _
    · exact State.whiteTurn_truncation _ _

theorem State.pictureTurn_truncation (u : State) :
    u.pictureTurn.carriage.truncationEvent = u.carriage.truncationEvent := by
  unfold State.pictureTurn
  split
  · dsimp only
    split
    · exact (State.endAttempt_events _ _ _ _).2.1
    · exact State.askFrames_truncation _ _ _
  · exact State.sendTurn_truncation _

/-- With no event waiting, a picture turn gives none but the BAND_LOST of a parked drum, which no turn is there to
lose. -/
theorem State.pictureTurn_delivers {u : State} (h : u.noEvents = true) :
    u.pictureTurn.deliver = u.pictureTurn.lossTaken := by
  obtain ⟨h1, h2, h3, h4, -⟩ := u.noEvents_iff.1 h
  obtain ⟨a, c, hsig⟩ := u.pictureTurn_quiet
  have b := u.pictureTurn_truncation
  rw [h1] at a
  rw [h2] at b
  rw [h3] at c
  generalize u.pictureTurn = t at *
  cases hb : t.drum.bandLostSignal with
  | false =>
    rw [State.deliver_none _ a b c hb]
    simp [State.lossTaken, State.withDrum, ← hb]
  | true =>
    have hs : t.line.state.sending = false := (hsig hb).resolve_left (by simp [h4])
    simp [State.deliver, State.takeTruncation, State.takeArrival, State.takeBandLost, State.takeCarriageFault, a, b, c,
      hb, hs, State.lossTaken, State.withDrum]

theorem Line.phasingOver_of {l : Line} {call : CallInfo} (hst : l.state = .phasing) (hc : l.call = some call)
    (hp : call.phasing ≤ l.turnCount) : l.phasingOver = true := by
  simp [Line.phasingOver, Line.phasingTurns, hst, hc, hp]

/-- Settles O29. -/
theorem phasingEndBeginsThePicture : Obligations.PhasingEndBeginsThePicture := by
  intro s call hawake hst hc hp
  have hreset := State.awake_inReset hawake
  have hev := State.awake_noEvents hawake
  have hexec : exec .phasingEnd s = _ := show execPhasingEnd s = _ from
    whenDeliver_due _ _ s hreset (Line.phasingOver_of hst hc hp)
  refine ⟨fun hd => ?ready, fun hd => ?notReady⟩
  case ready =>
    have hend : s.endPhasing = (s.mapLine Line.enterPicture).pictureTurn :=
      if_pos ((DrumState.ready_iff _).mpr hd)
    refine ⟨_, _, hexec, State.pictureTurn_pictured _, finish_ends_of ?_⟩
    rw [hend]
    exact State.pictureTurn_delivers (u := s.mapLine Line.enterPicture) hev
  case notReady =>
    obtain ⟨h1, h2, h3, -, -⟩ := s.noEvents_iff.1 hev
    have hend : s.endPhasing = s.endAttempt .drumFault .drumNotReady true :=
      if_neg (mt (DrumState.ready_iff _).mp hd)
    refine ⟨_, hexec, ?_⟩
    rw [hend]
    exact State.endAttempt_ended _ _ _ _ _ h1 h2 h3

end Sys2Proof.Machine
end

section
/-! PROOFS. The Mailbox Unit's takes, and the fetch and the checks of a chain (11_mailboxes.md, The Send Mailbox;
06_transmission_control_blocks_and_the_job_queue.md, Taking a chain). -/

namespace Sys2Proof.Machine

/-! ## Words of the control requester and completions -/

theorem State.controlStep_lastRead {s : State} {k : OpKind} {x : Nat} {got : List Word} {rest : List Op}
    (h : s.gate.ops = { kind := k, todo := [.rd x], got := got } :: rest) :
    s.controlStep = { s with gate := { s.gate with port := none, ops := rest } } := by
  simp only [State.controlStep, h]
  rfl

theorem State.controlStep_lastWrite {s : State} {k : OpKind} {x : Access} {got : List Word} {rest : List Op}
    (h : s.gate.ops = { kind := k, todo := [.wr x], got := got } :: rest) :
    s.controlStep = { s with mem := s.mem.write x, gate := { s.gate with port := none, ops := rest } } := by
  simp only [State.controlStep, h]
  rfl

theorem State.wordsRead_lastRead {s : State} {k : OpKind} {x : Nat} {got : List Word} {rest : List Op}
    (h : s.gate.ops = { kind := k, todo := [.rd x], got := got } :: rest) :
    s.wordsRead = got ++ [s.mem.word x] := by
  simp only [State.wordsRead, h]
  rfl

theorem Gate.controlOp_head {g : Gate} {op : Op} {rest : List Op} (hp : g.port = some .control)
    (h : g.ops = op :: rest) : g.controlOp = some op := by
  simp only [Gate.controlOp, hp, h]

theorem reads_eq (a n : Nat) : reads a n = (List.range n).map fun i => .rd (a + 4 * i) := by
  simp [reads, addrsFrom]

/-- What handing a completion on does, said once (R185). -/
theorem State.handOn_handed (u : State) (c : Completion) : u.Handed c (u.handOn c) where
  posted hb hf := by
    have hfree : u.mailbox.postFree = true := by simpa [Mailbox.postFree] using hf
    rw [State.handOn, if_pos ⟨hb, hfree⟩]
    simp [State.post, Mailbox.setSlot, Mailbox.driveAttn, State.issue, Gate.issue, State.withGate, State.withMailbox,
      ringNext, State.returnAddr]
  waits h := by
    have hno : ¬ (u.mailbox.backlog = [] ∧ u.mailbox.postFree = true) := by
      rintro ⟨hb, hf⟩
      exact h.elim (fun h => h hb) fun h => h (by simpa [Mailbox.postFree] using hf)
    rw [State.handOn, if_neg hno]
    rfl

@[simp] theorem State.handOn_take (u : State) (c : Completion) : (u.handOn c).mailbox.take = u.mailbox.take := by
  unfold State.handOn
  split <;> rfl

/-- A completion handed on, after which the take ends. -/
theorem State.handOn_ends {u : State} {take : Take} (old : State) (c : Completion) (h : u.mailbox.take = some take) :
    ∃ v, u.Handed c v ∧ State.Ends (v.entryFreed take) (finish old (u.handOn c).endTake) :=
  ⟨_, u.handOn_handed c, finish_ends_of (State.endTake_freed _ take (by rw [State.handOn_take, h]))⟩

theorem State.refuseChain_refused {u : State} {take : Take} (old : State) (addr : Nat) (why : RefusalReason)
    (h : u.mailbox.take = some take) : u.ChainRefused take addr why (finish old (u.refuseChain addr why)) :=
  State.handOn_ends (u := u.mapJobs fun j => { j with refusals := satInc j.refusals, lastRefusal := some why }) old _ h

/-! ## A Send entry that has been read (R182 to R184) -/

/-- Forgetting the writes to an entry. -/
theorem Gate.forgetSends_eq (e : Nat) (g : Gate) :
    g.forgetSends e = { g with toMailbox := g.toMailbox.filter (· != .send e) } := by
  unfold Gate.forgetSends
  congr 1
  refine List.filter_congr fun w _ => ?_
  cases w with
  | ret m action => simp
  | send m => by_cases hm : m = e <;> simp [hm, bne]

theorem State.takeEntry_taken {s : State} {e x : Nat} {got : List Word} {rest : List Op} {take : Take}
    (h : s.gate.ops = { kind := .sendRead e, todo := [.rd x], got := got } :: rest) (ht : s.mailbox.take = some take) :
    s.takeEntry e = s.entryTaken e rest take.stale := by
  rw [State.takeEntry, State.controlStep_lastRead h, State.entryRead, State.entryTaken]
  cases hs : take.stale with
  | true =>
    have hstale : (s.mailbox.take.map (·.stale)).getD true = true := by simp [ht, hs]
    exact (if_pos hstale).trans (by simp)
  | false => simp [ht, hs, Gate.forgetSends_eq, Mailbox.unnote]

theorem State.sendEntry_eq {s : State} {e x : Nat} {w : Word} {rest : List Op} (hp : s.gate.port = some .control)
    (h : s.gate.ops = { kind := .sendRead e, todo := [.rd x], got := [w] } :: rest) :
    s.sendEntry = some (e, w.toNat, (s.mem.word x).toNat % 256) := by
  simp [State.sendEntry, Gate.controlOp_head hp h, Op.atLast, State.wordsRead_lastRead h, wordAt, field]

section Entry

variable {s : State} {e x : Nat} {w : Word} {rest : List Op} {take : Take} (hreset : s.inReset = false)
  (hp : s.gate.port = some .control)
  (hops : s.gate.ops = { kind := .sendRead e, todo := [.rd x], got := [w] } :: rest)
  (ht : s.mailbox.take = some take)

include hreset hp hops ht

theorem execFreeEntry_of (ha : (s.mem.word x).toNat % 256 = 0) :
    execFreeEntry s = .next (finish s (s.entryTaken e rest take.stale).endTake) := by
  rw [execFreeEntry, live_awake _ s hreset]
  simp only [State.sendEntry_eq hp hops, State.takeEntry_taken hops ht]
  rw [if_pos (show _ = actionFree from ha)]

theorem execStartEntry_of (ha : (s.mem.word x).toNat % 256 = 1) :
    execStartEntry s = .next (finish s ((s.entryTaken e rest take.stale).fetchMember none [] w.toNat)) := by
  rw [execStartEntry, live_awake _ s hreset]
  simp only [State.sendEntry_eq hp hops, State.takeEntry_taken hops ht]
  rw [if_pos (show _ = actionStart from ha)]

theorem execBadActionEntry_of (ha : 2 < (s.mem.word x).toNat % 256) :
    execBadActionEntry s = .next (finish s
      ((s.entryTaken e rest take.stale).handOn (loneCompletion w.toNat .refused (some .badAction))).endTake) := by
  rw [execBadActionEntry, live_awake _ s hreset]
  simp only [State.sendEntry_eq hp hops, State.takeEntry_taken hops ht]
  rw [if_pos (show actionAbort < _ from ha)]

theorem execAbortEntry_of (ha : (s.mem.word x).toNat % 256 = 2) (late : Bool) (ahead : Nat) :
    execAbortEntry late ahead s =
      .next (finish s ((s.entryTaken e rest take.stale).abort late ahead w.toNat).deliver) := by
  rw [execAbortEntry, live_awake _ s hreset]
  simp only [State.sendEntry_eq hp hops, State.takeEntry_taken hops ht]
  rw [if_pos (show _ = actionAbort from ha)]

end Entry

/-! ## The fetch of a member (R100) -/

theorem memberAddressOk_iff {top : Nat} {earlier : List Member} {a : Nat} :
    memberAddressOk top earlier a = true ↔ addressPasses top earlier a := by
  have hone (y : Member) : (y.addr == a || !tcbOverlap y.addr a) = true ↔
      y.addr = a ∨ a + 128 ≤ y.addr ∨ y.addr + 128 ≤ a := by
    simp only [tcbOverlap, Bool.or_eq_true, beq_iff_eq, Bool.not_eq_true', Bool.and_eq_false_iff,
      decide_eq_false_iff_not]
    unfold tcbBytes
    omega
  simp only [memberAddressOk, Bool.and_eq_true, beq_iff_eq, decide_eq_true_eq, List.all_eq_true, hone, and_assoc]
  rfl

/-- The member's words are read. -/
theorem State.fetchMember_reads {u : State} {take : Take} {l : Layout} {head : Option ChainHead}
    {members : List Member} {a : Nat} (ht : u.mailbox.take = some take) (hl : u.layout.inForce = some l)
    (ha : addressPasses l.memoryTop members a) :
    u.fetchMember head members a =
      { u with
        mailbox := { u.mailbox with take := some { take with phase := .fetching head members a } }
        gate :=
          { u.gate with
            ops := u.gate.ops ++
              [{ kind := .memberRead, todo := (List.range 32).map fun i => .rd (a + 4 * i), got := [] }] } } := by
  have hok : memberAddressOk u.memoryTop members a = true := by
    rw [memberAddressOk_iff, State.memoryTop, hl]; exact ha
  rw [State.fetchMember, if_pos hok, State.issue_eq, reads_eq]
  simp [State.withMailbox, Mailbox.setPhase, ht]

theorem State.fetchMember_refuses {u : State} {l : Layout} {head : Option ChainHead} {members : List Member} {a : Nat}
    (hl : u.layout.inForce = some l) (ha : ¬ addressPasses l.memoryTop members a) :
    u.fetchMember head members a = u.refuseChain (chainAddr members a) .badAddress := by
  have hno : ¬ memberAddressOk u.memoryTop members a = true := by
    rw [memberAddressOk_iff, State.memoryTop, hl]; exact ha
  rw [State.fetchMember, if_neg hno]

/-- Settles O30, action by action. -/
theorem sendEntriesAreTaken : Obligations.SendEntriesAreTaken := by
  intro s u e x action w rest take l hreset hp hops ht hl haction hu
  subst haction hu
  refine ⟨fun ha => ?free, fun ha h16 htop => ?start, fun ha hbad => ?badAddress, fun ha => ?badAction⟩
  case free =>
    exact ⟨_, show execFreeEntry s = _ from execFreeEntry_of hreset hp hops ht ha,
      finish_ends_of (State.endTake_freed _ take ht)⟩
  case start =>
    refine ⟨_, show execStartEntry s = _ from execStartEntry_of hreset hp hops ht ha, finish_ends_of ?_⟩
    exact State.fetchMember_reads (u := s.entryTaken e rest take.stale) (head := none) ht hl ⟨h16, htop, by simp⟩
  case badAddress =>
    have hno : ¬ addressPasses l.memoryTop [] w.toNat := fun ⟨h16, htop, _⟩ =>
      hbad.elim (fun h => h h16) fun h => absurd htop (Nat.not_le.mpr h)
    refine ⟨_, show execStartEntry s = _ from execStartEntry_of hreset hp hops ht ha, ?_⟩
    rw [State.fetchMember_refuses (u := s.entryTaken e rest take.stale) hl hno]
    exact State.refuseChain_refused _ _ _ ht
  case badAction =>
    obtain ⟨v, hv, hends⟩ := State.handOn_ends (u := s.entryTaken e rest take.stale) s
      (loneCompletion w.toNat .refused (some .badAction)) ht
    exact ⟨_, v, show execBadActionEntry s = _ from execBadActionEntry_of hreset hp hops ht ha, hv, hends⟩

/-! ## The checks of a member (R101, R102) -/

theorem speedOfCode_eq_none (n : Nat) : speedOfCode n = none ↔ n ≠ 60 ∧ n ≠ 90 ∧ n ≠ 120 := by
  unfold speedOfCode
  split_ifs <;> simp_all

theorem Tcb.headCheck_eq (m : Tcb) (count : Nat) :
    m.headCheck count =
      if m.destCount < 1 ∨ 8 < m.destCount ∨ ∃ d ∈ m.destList.take m.destCount, count ≤ d then some .badDestination
      else none := by
  have hiff : (1 ≤ m.destCount ∧ m.destCount ≤ 8 ∧ m.destinations.all (fun d => decide (d < count)) = true) ↔
      ¬ (m.destCount < 1 ∨ 8 < m.destCount ∨ ∃ d ∈ m.destList.take m.destCount, count ≤ d) := by
    simp only [Tcb.destinations, List.all_eq_true, decide_eq_true_eq, not_or, not_lt, not_exists, not_and, not_le]
  unfold Tcb.headCheck
  rw [if_congr hiff rfl rfl, ite_not]

theorem Tcb.matchCheck_eq (m : Tcb) (h : ChainHead) :
    m.matchCheck h =
      if speedOfCode m.speedCode ≠ some h.speed ∨ m.k ≠ h.k ∨ m.destCount ≠ h.destinations.length ∨
          m.destList.take m.destCount ≠ h.destinations then some .chainMismatch
      else none := by
  unfold Tcb.matchCheck Tcb.destinations
  rw [← ite_not]
  exact if_congr (by simp only [not_and_or, ne_eq]) rfl rfl

/-- The checks of a member are those of `memberRefusal`, the field checks first. -/
theorem memberRefusal_eq (count : Nat) (head : Option ChainHead) (m : Tcb) :
    memberRefusal count head m =
      (m.fieldCheck).or (head.elim (m.headCheck count) m.matchCheck) := by
  unfold memberRefusal Tcb.fieldCheck
  rw [if_congr (speedOfCode_eq_none m.speedCode) rfl rfl,
    if_congr (show ¬ (2 ≤ m.k ∧ m.k ≤ 6) ↔ m.k < 2 ∨ 6 < m.k by omega) rfl rfl,
    if_congr (show ¬ (1 ≤ m.pitch ∧ m.pitch ≤ 8) ↔ m.pitch < 1 ∨ 8 < m.pitch by omega) rfl rfl,
    if_congr (show ¬ (1 ≤ m.count ∧ m.count ≤ 2048 ∧ m.start ≤ 4095 ∧ m.start + m.count * m.pitch ≤ 4096) ↔
      m.count < 1 ∨ 2048 < m.count ∨ 4095 < m.start ∨ 4096 < m.start + m.count * m.pitch by omega) rfl rfl,
    if_congr (show ¬ (m.black ≤ 1023 ∧ m.white ≤ 1023 ∧ m.black + 64 ≤ m.white) ↔
      1023 < m.black ∨ 1023 < m.white ∨ m.white < m.black + 64 by omega) rfl rfl]
  cases head with
  | none =>
    simp only [Option.elim_none, ← Tcb.headCheck_eq]
    split_ifs <;> rfl
  | some h =>
    simp only [Option.elim_some, ← Tcb.matchCheck_eq]
    split_ifs <;> rfl

theorem Tcb.fieldCheck_speed {m : Tcb} (h : m.fieldCheck = none) : ∃ v, speedOfCode m.speedCode = some v := by
  unfold Tcb.fieldCheck at h
  split at h
  · cases h
  next hs => exact Option.ne_none_iff_exists'.mp hs

theorem Tcb.check_refuses {m : Tcb} {head : Option ChainHead} {count : Nat} {why : RefusalReason}
    (h : memberRefusal count head m = some why) : m.check head count = .inl why := by
  rw [memberRefusal_eq] at h
  unfold Tcb.check
  cases hf : m.fieldCheck with
  | some r => rw [hf] at h; cases h; rfl
  | none =>
    obtain ⟨v, hv⟩ := Tcb.fieldCheck_speed hf
    rw [hf] at h
    cases head <;> simp_all

theorem Tcb.check_passes {m : Tcb} {head : Option ChainHead} {count : Nat} {h : ChainHead}
    (hpass : memberRefusal count head m = none) (hlater : ∀ c, head = some c → h = c)
    (hhead : ∀ v, head = none → speedOfCode m.speedCode = some v → h = m.clamped v) :
    m.check head count = .inr h := by
  rw [memberRefusal_eq] at hpass
  unfold Tcb.check
  obtain ⟨hf, hchecks⟩ := Option.or_eq_none_iff.mp hpass
  obtain ⟨v, hv⟩ := Tcb.fieldCheck_speed hf
  cases head with
  | none =>
    rw [Option.elim_none] at hchecks
    simp only [hf, hv, hchecks]
    rw [hhead v rfl hv]
    rfl
  | some c =>
    rw [Option.elim_some] at hchecks
    simp only [hf, hv, hchecks]
    rw [hlater c rfl]

/-! ## Chains (R100 to R107) -/

theorem State.memberDue_of {s : State} {x : Nat} {got : List Word} {rest : List Op} (hp : s.gate.port = some .control)
    (h : s.gate.ops = { kind := .memberRead, todo := [.rd x], got := got } :: rest) : s.memberDue = true := by
  simp [State.memberDue, Gate.controlOp_head hp h, Op.atLast]

theorem execTcbMemberRead_of {s : State} {x : Nat} {got : List Word} {rest : List Op} (hreset : s.inReset = false)
    (hp : s.gate.port = some .control)
    (h : s.gate.ops = { kind := .memberRead, todo := [.rd x], got := got } :: rest) :
    execTcbMemberRead s = .next (finish s
      (State.memberArrived (got ++ [s.mem.word x]) { s with gate := { s.gate with port := none, ops := rest } })) := by
  have hexec := when_due State.memberDue (fun s => s.controlStep.memberArrived s.wordsRead) s hreset
    (State.memberDue_of hp h)
  rw [State.controlStep_lastRead h, State.wordsRead_lastRead h] at hexec
  exact hexec

section Member

variable {u : State} {take : Take} {l : Layout} {head : Option ChainHead} {members : List Member} {a : Nat}
  {words : List Word} {m : Tcb} (ht : u.mailbox.take = some take) (hph : take.phase = .fetching head members a)
  (hl : u.layout.inForce = some l) (hm : m = readTcb words)

include ht hph hl hm

theorem State.memberArrived_refuses {why : RefusalReason} (hwhy : memberRefusal l.directoryCount head m = some why) :
    u.memberArrived words = u.refuseChain (chainAddr members a) why := by
  have hcheck := Tcb.check_refuses hwhy
  unfold State.memberArrived
  simp only [Mailbox.phase, ht, Option.map_some, hph, ← hm, State.directoryCount, hl, Option.getD_some, hcheck]

/-- A member that passes joins the chain. -/
theorem State.memberArrived_passes {h : ChainHead} (hpass : memberRefusal l.directoryCount head m = none)
    (hlater : ∀ c, head = some c → h = c)
    (hhead : ∀ v, head = none → speedOfCode m.speedCode = some v → h = m.clamped v) :
    u.memberArrived words =
      if m.link = 0 then u.endChain h (members ++ [m.kept a])
      else if 8 ≤ (members ++ [m.kept a]).length then
        u.refuseChain (chainAddr (members ++ [m.kept a]) a) .chainTooLong
      else u.fetchMember (some h) (members ++ [m.kept a]) m.link := by
  have hcheck := Tcb.check_passes hpass hlater hhead
  unfold State.memberArrived
  simp only [Mailbox.phase, ht, Option.map_some, hph, ← hm, State.directoryCount, hl, Option.getD_some, hcheck]
  rfl

end Member

/-- Settles O31. -/
theorem membersAreCheckedInOrder : Obligations.MembersAreCheckedInOrder := by
  intro s x a got rest take l head members why hreset hp hops ht hph hl hwhy
  refine ⟨_, show execTcbMemberRead s = _ from execTcbMemberRead_of hreset hp hops, ?_⟩
  rw [State.memberArrived_refuses (u := { s with gate := { s.gate with port := none, ops := rest } }) ht hph hl rfl hwhy]
  exact State.refuseChain_refused _ _ _ ht

/-- The address of a chain that has a member is its first member's. -/
theorem chainAddr_append (members : List Member) (y : Member) (a : Nat) :
    chainAddr (members ++ [y]) a = chainAddr members y.addr := by
  cases members <;> rfl

theorem Job.has_iff (j : Job) (a : Nat) : j.has a = true ↔ ∃ z ∈ j.members, z.addr = a := by
  simp [Job.has]

theorem Jobs.hasAddr_iff (c : Jobs) (a : Nat) :
    c.hasAddr a = true ↔ ∃ j ∈ c.queue ++ c.current.toList, ∃ z ∈ j.members, z.addr = a := by
  simp only [Jobs.hasAddr, Bool.or_eq_true, List.any_eq_true, Option.any_eq_true, Job.has_iff, List.mem_append,
    Option.mem_toList, or_and_right, exists_or]

/-- The chain-level checks, with the job record named (R104). -/
theorem State.chainCheck_eq {u : State} {l : Layout} {h : ChainHead} {all : List Member} {c : Jobs}
    {why : Option RefusalReason}
    {d : Decidable (∃ y ∈ all, ∃ j ∈ c.queue ++ c.current.toList, ∃ z ∈ j.members, z.addr = y.addr)}
    (hl : u.layout.inForce = some l) (hc : u.jobs = c)
    (hwhy : why =
      (if l.ringCount < h.delay + h.window + 2 then some RefusalReason.ringTooSmall
        else if ∃ y ∈ all, ∃ j ∈ c.queue ++ c.current.toList, ∃ z ∈ j.members, z.addr = y.addr then some .duplicate
        else if 16 ≤ c.queue.length then some .busy
        else none)) :
    u.chainCheck h all = why := by
  have hdup : (all.any fun m => c.hasAddr m.addr) = true ↔
      ∃ y ∈ all, ∃ j ∈ c.queue ++ c.current.toList, ∃ z ∈ j.members, z.addr = y.addr := by
    simp only [List.any_eq_true, Jobs.hasAddr_iff]
  unfold State.chainCheck
  simp only [hl, hc, Option.map_some, Option.getD_some]
  rw [hwhy, if_congr hdup rfl rfl]

theorem urgentCount_append {urgent others : List Job} (hu : ∀ j ∈ urgent, j.urgent = true)
    (ho : ∀ j ∈ others, j.urgent = false) : urgentCount (urgent ++ others) = urgent.length := by
  have hno : others.filter (·.urgent) = [] := List.filter_eq_nil_iff.mpr fun j hj => by simp [ho j hj]
  rw [urgentCount, List.filter_append, List.filter_eq_self.mpr hu, hno, List.append_nil]

/-- An urgent job joins behind the last urgent one. -/
theorem queueJob_append {urgent others : List Job} (hu : ∀ j ∈ urgent, j.urgent = true)
    (ho : ∀ j ∈ others, j.urgent = false) (job : Job) :
    queueJob job (urgent ++ others) =
      if job.urgent = true then urgent ++ job :: others else urgent ++ others ++ [job] := by
  rw [queueJob, urgentCount_append hu ho, List.take_left, List.drop_left]

theorem Job.guards_eq (base : Nat) (j : Job) : j.guards base = j.guardList base := rfl

theorem Job.freshTable_eq (j : Job) : j.freshTable = j.tableOf .untried none none := rfl

theorem State.nextCurrent_busy {u : State} (h : u.jobs.state ≠ .idle) : u.nextCurrent = u := by
  unfold State.nextCurrent
  split
  next hs _ => exact absurd hs h
  next => rfl

theorem State.nextCurrent_begins {u : State} {j : Job} {q : List Job} (h : u.jobs.state = .idle)
    (hq : u.jobs.queue = j :: q) : u.nextCurrent = u.jobBegun j q := by
  unfold State.nextCurrent
  rw [h, hq]
  rfl

/-- What the queueing of a chain does, said once (R106, R107). -/
theorem State.queueChain_queued (job : Job) (u : State) : u.JobQueued job (u.queueChain job) where
  waits hs urgent others hq hu ho := by
    have hbusy := State.nextCurrent_busy (u := u.mapJobs fun c => { c with queue := queueJob job c.queue }) hs
    rw [State.queueChain, hbusy, ← queueJob_append hu ho, ← hq]
    rfl
  begins hs hq := by
    have hone : queueJob job u.jobs.queue = [job] := by
      rw [hq]
      simpa using queueJob_append (urgent := []) (others := []) (by simp) (by simp) job
    exact State.nextCurrent_begins (u := u.mapJobs fun c => { c with queue := queueJob job c.queue }) hs hone

@[simp] theorem State.queueChain_take (job : Job) (u : State) : (u.queueChain job).mailbox = u.mailbox := by
  simp [State.queueChain]

/-- Settles O32, by the member's link. -/
theorem chainsAreFetchedAndQueued : Obligations.ChainsAreFetchedAndQueued := by
  intro s u x a first got rest take l m head members all h job hreset hp hops ht hph hl hm hpass hlater hhead hall hfirst
    hjob hu
  have htu : u.mailbox.take = some take := by rw [hu]; exact ht
  have hlu : u.layout.inForce = some l := by rw [hu]; exact hl
  have haddr (b : Nat) : chainAddr all b = first := by rw [hall, hfirst, chainAddr_append]; rfl
  have harrived := State.memberArrived_passes htu hph hlu hm hpass hlater hhead
  rw [← hall] at harrived
  have hexec : exec .tcbMemberRead s = .next (finish s (u.memberArrived (got ++ [s.mem.word x]))) := by
    rw [hu]
    exact show execTcbMemberRead s = _ from execTcbMemberRead_of hreset hp hops
  rw [harrived] at hexec
  refine ⟨fun hlink => ⟨fun hlen => ?tooLong, fun hlen hno => ?badAddress, fun hlen hok => ?fetched⟩,
    fun hlink why hwhy => ⟨fun r hr => ?refused, fun hnone => ?queued⟩⟩
  case tooLong =>
    rw [if_neg hlink, if_pos hlen, haddr] at hexec
    exact ⟨_, hexec, State.refuseChain_refused _ _ _ htu⟩
  case badAddress =>
    rw [if_neg hlink, if_neg (Nat.not_le.mpr hlen), State.fetchMember_refuses hlu hno, haddr] at hexec
    exact ⟨_, hexec, State.refuseChain_refused _ _ _ htu⟩
  case fetched =>
    rw [if_neg hlink, if_neg (Nat.not_le.mpr hlen), State.fetchMember_reads htu hlu hok] at hexec
    refine ⟨_, hexec, finish_ends_of ?_⟩
    rw [hu]
  all_goals
    have hcheck := State.chainCheck_eq hlu (by rw [hu]) hwhy
    rw [if_pos hlink] at hexec
    unfold State.endChain at hexec
  case refused =>
    simp only [hcheck, hr, haddr] at hexec
    exact ⟨_, hexec, State.refuseChain_refused _ _ _ htu⟩
  case queued =>
    simp only [hcheck, hnone] at hexec
    refine ⟨_, _, hexec, ?_, finish_ends_of (State.endTake_freed _ take (by rw [State.queueChain_take, htu]))⟩
    rw [hjob]
    exact State.queueChain_queued _ _

end Sys2Proof.Machine
end

section
/-! PROOFS. A job's end by the desk: aborts, the clamp and the stop key, and the requests that are on their way
(06_transmission_control_blocks_and_the_job_queue.md, Aborts, Ending a job early). -/

namespace Sys2Proof.Machine

/-! ## Aborts (R115, R116) -/

theorem removeJob_append {a : Nat} {before after : List Job} {j : Job} (hb : ∀ i ∈ before, i.has a = false)
    (hj : j.has a = true) : removeJob a (before ++ j :: after) = some (j, before ++ after) := by
  induction before with
  | nil => simp [removeJob, hj]
  | cons i before ih =>
    have hi : i.has a = false := hb i (by simp)
    simp [removeJob, hi, ih fun k hk => hb k (by simp [hk])]

theorem removeJob_none {a : Nat} {q : List Job} (h : ∀ i ∈ q, i.has a = false) : removeJob a q = none := by
  induction q with
  | nil => rfl
  | cons i q ih => simp [removeJob, h i (by simp), ih fun k hk => h k (by simp [hk])]

theorem Job.has_false {j : Job} {a : Nat} (h : ∀ y ∈ j.members, y.addr ≠ a) : j.has a = false := by
  simpa [Job.has] using h

theorem Job.abortedTable_eq (j : Job) : j.abortedTable = j.tableOf .final (some .notSent) (some .aborted) := by
  simp only [Job.abortedTable, Job.freshTable, Job.tableOf, List.map_map]
  rfl

theorem State.abort_queued {u : State} {a ahead : Nat} {late : Bool} {take : Take} {before after : List Job} {j : Job}
    (ht : u.mailbox.take = some take) (hq : u.jobs.queue = before ++ j :: after)
    (hb : ∀ i ∈ before, i.has a = false) (hj : j.has a = true) :
    u.abort late ahead a =
      { u with
        jobs := { u.jobs with queue := before ++ after }
        mailbox := { u.mailbox with take := some { take with phase := .aborting } }
        gate :=
          { u.gate with
            ops := u.gate.ops ++
              resultOps (.abortedResults j) (some .aborted) (j.tableOf .final (some .notSent) (some .aborted))
                (List.replicate j.members.length 1) j } } := by
  unfold State.abort
  rw [hq, removeJob_append hb hj]
  simp only [State.issueAll_eq, Job.results_ops, Job.abortedTable_eq, Job.freshSigs]
  simp [State.withJobs, State.withMailbox, Mailbox.setPhase, ht]

/-- An address that no queued job has. -/
theorem State.abort_current {u : State} {a ahead : Nat} {late : Bool} {j : Job}
    (hq : ∀ i ∈ u.jobs.queue, i.has a = false) (hc : u.jobs.current = some j) (hj : j.has a = true)
    (hs : u.jobs.state ≠ .finishing) (hr : u.jobs.requestsDue = none) :
    u.abort late ahead a =
      if (late && u.jobs.attemptInProgress) = true then u.causeLate .aborted (some ahead)
      else (u.endJob .aborted false).endTakeAmong u.gate.ops.length ahead := by
  unfold State.abort
  rw [removeJob_none hq]
  simp [hc, hj, hs, hr]

theorem State.abort_notFound {u : State} {a ahead : Nat} {late : Bool} (hq : ∀ i ∈ u.jobs.queue, i.has a = false)
    (hc : ∀ j, u.jobs.current = some j → u.jobs.state = .finishing ∨ j.has a = false) :
    u.abort late ahead a = u.abortNotFound a := by
  unfold State.abort
  rw [removeJob_none hq]
  cases hcur : u.jobs.current with
  | none => simp
  | some j =>
    rcases hc j hcur with hs | hj
    · simp [hs]
    · simp [hj]

/-- What the Mailbox Unit does gives no event. -/
theorem State.deliver_like {s t : State} (h : s.noEvents = true) (hd : t.drum = s.drum) (hc : t.carriage = s.carriage) :
    t.deliver = t := by
  obtain ⟨h1, h2, h3, h4, -⟩ := s.noEvents_iff.1 h
  exact State.deliver_none _ (by rw [hc, h1]) (by rw [hc, h2]) (by rw [hc, h3]) (by rw [hd, h4])

theorem okCount_tableOf (j : Job) (p : Progress) (f : Option FinalOutcome) (c : Option Cause) (m : Nat) :
    okCount (j.tableOf p f c) m = 0 := by
  rw [okCount, List.length_eq_zero_iff, List.filter_eq_nil_iff]
  intro d hd
  obtain ⟨i, -, rfl⟩ := List.mem_map.mp hd
  simp only [List.getElem?_replicate]
  split <;> simp

theorem Job.tableOf_length (j : Job) (p : Progress) (f : Option FinalOutcome) (c : Option Cause) :
    (j.tableOf p f c).length = j.destinations.length := List.length_map _

/-- The completions of a job aborted from the queue (R115, R118, R119). -/
theorem Job.completions_aborted (j : Job) :
    j.completions (some .aborted) j.abortedTable =
      j.members.mapIdx fun i y =>
        { addr := y.addr, status := .ended .aborted, reason := none, ok := 0, failed := j.destinations.length
          quiet := decide (i + 1 < j.members.length), chainEnd := decide (i + 1 = j.members.length) } := by
  rw [Job.completions, Job.abortedTable_eq]
  simp only [memberCompletion, okCount_tableOf, memberStatus, Job.tableOf_length, Nat.sub_zero]

theorem State.handOnAll_handed (cs : List Completion) (u : State) : u.HandedAll cs (u.handOnAll cs) := by
  induction cs generalizing u with
  | nil => rfl
  | cons c cs ih => exact ⟨_, u.handOn_handed c, ih _⟩

@[simp] theorem State.handOnAll_take (cs : List Completion) (u : State) :
    (u.handOnAll cs).mailbox.take = u.mailbox.take := by
  induction cs generalizing u with
  | nil => rfl
  | cons c cs ih => exact (ih _).trans (u.handOn_take c)

theorem execAbortedResultsWritten_of {s : State} {j : Job} {x : Access} {got : List Word} {rest : List Op}
    (hreset : s.inReset = false) (hp : s.gate.port = some .control)
    (hops : s.gate.ops = { kind := .abortedResults j, todo := [.wr x], got := got } :: rest) :
    execAbortedResultsWritten s = .next (finish s
      (State.abortedWritten j
        { s with mem := s.mem.write x, gate := { s.gate with port := none, ops := rest } })) := by
  have hdue : s.abortedDue = some j := by simp [State.abortedDue, Gate.controlOp_head hp hops, Op.atLast]
  rw [execAbortedResultsWritten, live_awake _ s hreset]
  simp only [hdue, State.controlStep_lastWrite hops]

/-- Settles O33: an address of a queued job, of the current job, or of none, and the end of the results. -/
theorem abortsByTheDesk : Obligations.AbortsByTheDesk := by
  refine ⟨fun s u e x a w rest take late ahead hawake hp hops ht hact ha hu => ?_,
    fun s j x got rest take hreset hp hops ht => ?written⟩
  · have hreset := State.awake_inReset hawake
    have hev := State.awake_noEvents hawake
    have hevu : u.noEvents = true := by rw [hu]; exact hev
    have htu : u.mailbox.take = some take := by rw [hu]; exact ht
    have hexec : exec (.abortEntry late ahead) s = .next (finish s (u.abort late ahead a).deliver) := by
      rw [hu, ha]
      exact show execAbortEntry late ahead s = _ from execAbortEntry_of hreset hp hops ht hact late ahead
    have hjobs : u.jobs = s.jobs := by rw [hu]; rfl
    have hrest : u.gate.ops = rest := by rw [hu]; rfl
    refine ⟨fun before j after hq hb hj => ?queued, fun hnone => ⟨fun j hc hj hs hlate => ?current,
      fun hc => ?notFound⟩⟩
    case queued =>
      refine ⟨_, hexec, finish_ends_of ?_⟩
      rw [State.abort_queued htu (by rw [hjobs, hq]) (fun i hi => Job.has_false (hb i hi)) ((j.has_iff a).mpr hj), hrest]
      exact State.deliver_like hevu rfl rfl
    case current =>
      have hr : u.jobs.requestsDue = none := State.noEvents_requests hevu
      have hnow : ¬ (late && u.jobs.attemptInProgress) = true := by
        rw [hjobs]; rcases hlate with h | h <;> simp [h]
      have htake : (u.endJob .aborted false).mailbox.take = some take := by
        rw [(u.endJob_takeKept .aborted false hr).2, htu]
      rw [State.abort_current (by rw [hjobs]; exact fun i hi => Job.has_false (hnone i hi)) (by rw [hjobs, hc])
        ((j.has_iff a).mpr hj) (by rw [hjobs]; exact hs) hr, if_neg hnow, State.endTakeAmong,
        State.endTake_freed _ take htake, hrest] at hexec
      refine ⟨_, _, hexec, u.endJob_over .aborted, finish_ends_of ?_⟩
      exact State.deliver_like (u.endJob_noEvents .aborted hevu) rfl rfl
    case notFound =>
      rw [State.abort_notFound (by rw [hjobs]; exact fun i hi => Job.has_false (hnone i hi))
        (fun j hj => (hc j (by rw [← hjobs]; exact hj)).imp (fun h => by rw [hjobs]; exact h) Job.has_false),
        State.deliver_like hevu (by simp [State.abortNotFound]) (by simp [State.abortNotFound])] at hexec
      obtain ⟨v, hv, hends⟩ := State.handOn_ends s (loneCompletion a .notFound none) htu
      exact ⟨_, v, hexec, hv, hends⟩
  case written =>
    refine ⟨_, _, show execAbortedResultsWritten s = _ from execAbortedResultsWritten_of hreset hp hops,
      State.handOnAll_handed _ _, finish_ends_of ?_⟩
    rw [State.abortedWritten, Job.completions_aborted]
    exact State.endTake_freed _ take (by rw [State.handOnAll_take, ht])

/-! ## The clamp and the stop key (R108 to R112) -/

theorem JobState.running_iff (x : JobState) : x.running = true ↔ x = .attempting ∨ x = .retryWait := by
  cases x <;> simp [JobState.running]

theorem DrumState.ready_eq (x : DrumState) : x.ready = decide (x = .inBand ∨ x = .bandWarning) := by
  cases x <;> rfl

/-- A drum in PARKING by brake, its rest of a second begun at `t` (R5, R6). -/
def Drum.brakedToRest (t : Nat) (d : Drum) : Drum :=
  { d with
    state := .parking, duty := 0, brake := true, spinRequest := none, ref := 0, integral := 0
    spinUp := none, wait := none, rampTick := none, stallTimer := none
    rest := some (t + 1000000) }

/-- A drum braked to rest: a drum in band signals the loss of the band with it (R5). -/
theorem Drum.park_brake (p : DrumProfile) (t : Nat) {d e : Drum}
    (he : e =
      (if d.state = .stopped then { d with spinRequest := none }
        else if d.state = .parking ∨ d.state = .latched then { d with spinRequest := none, brake := true }
        else d.brakedToRest t)) :
    d.park p t .brake = { e with bandLostSignal := d.bandLostSignal || d.state.ready } := by
  rw [he]
  cases hs : d.state <;> simp [Drum.park, Drum.setDuty, Drum.brakedToRest, DrumState.ready, hs]

/-- After a job's end no turn is sent, when none was before or the attempt in progress has ended with it. -/
theorem State.endJob_notSending {u : State} (cause : Cause)
    (h : u.line.state.sending = false ∨ u.jobs.attemptInProgress = true) :
    (u.endJob cause false).line.state.sending = false := by
  have hattempting : u.line.state.attempting = false → u.line.state.sending = false := by
    cases u.line.state <;> simp [LineState.attempting, LineState.answered, LineState.unanswered, LineState.sending]
  simp only [State.endJob, State.finalizeJob_frame, State.cut_eq, Bool.false_eq_true, if_false]
  split
  · split
    · exact State.endAttempt_notSending _ _ _ _
    next hno => exact hattempting (by simpa using hno)
  next hno => exact h.resolve_right hno

theorem State.takeBandLost_none {u : State} (h : u.drum.bandLostSignal = false) : u.takeBandLost = u := by
  simp [State.takeBandLost, h]

/-- Without the signal of a BAND_LOST its order does not matter. -/
theorem State.endJob_first {u : State} (cause : Cause) (first : Bool) (h : u.drum.bandLostSignal = false) :
    u.endJob cause first = u.endJob cause false := by
  cases first with
  | false => rfl
  | true =>
    unfold State.endJob
    simp only [if_true, Bool.false_eq_true, if_false]
    rw [State.takeBandLost_none (u := u.mapJobs fun j => { j with endCause := some cause }) h]

/-- Steps 3 to 5 of a job's end leave the mount alone. -/
theorem State.closedBy_mount (cause : Cause) (u : State) :
    (u.closedBy cause).jobs.mount = u.jobs.mount ∧ (u.closedBy cause).jobs.clampClosed = u.jobs.clampClosed := by
  unfold State.closedBy State.finishing
  split <;> exact ⟨rfl, rfl⟩

theorem State.endAttempt_mount {u : State} {cause : Cause} (o : AttemptOutcome) (d : Detail) (tone : Bool)
    (hc : u.jobs.endCause = some cause) (hr : u.jobs.requestsDue = none) :
    (u.endAttempt o d tone).jobs.mount = u.jobs.mount ∧
      (u.endAttempt o d tone).jobs.clampClosed = u.jobs.clampClosed := by
  rw [u.endAttempt_cut o d tone cause hc hr]
  split <;> exact ⟨rfl, rfl⟩

theorem State.endJob_mount {u : State} (cause : Cause) (hr : u.jobs.requestsDue = none) :
    (u.endJob cause false).jobs.mount = u.jobs.mount ∧
      (u.endJob cause false).jobs.clampClosed = u.jobs.clampClosed := by
  simp only [State.endJob, State.finalizeJob_closed, State.cut_eq, Bool.false_eq_true, if_false, State.closedBy_mount]
  have hkept := State.endAttempt_mount (u := u.mapJobs fun j => { j with endCause := some cause }) cause.outcome
    cause.detail (!u.line.state.unanswered) rfl hr
  split
  · split
    · exact hkept
    · exact ⟨rfl, rfl⟩
  · exact ⟨rfl, rfl⟩

/-- A BAND_LOST that finds no turn to lose is over when the events are taken. -/
theorem State.deliver_lost {t : State} (h : t.noEvents = true) (hs : t.line.state.sending = false) :
    State.deliver { t with drum := { t.drum with bandLostSignal := true } } = t := by
  obtain ⟨h1, h2, h3, h4, -⟩ := t.noEvents_iff.1 h
  have hself : ({ t with drum := { t.drum with bandLostSignal := false } } : State) = t := by simp [← h4]
  conv_rhs => rw [← hself]
  simp [State.deliver, State.takeTruncation, State.takeArrival, State.takeBandLost, State.takeCarriageFault, h1, h2, h3,
    hs, State.lossTaken, State.withDrum]

/-- The end of a job by a drum parked in the same moment: the loss of the band that the parking signals finds no turn to
lose, or the cut comes first. -/
theorem State.endJob_parked {u : State} (cause : Cause) (first b : Bool) (h : u.noEvents = true)
    (hb : b = false ∨ u.line.state.sending = false ∨ (first = false ∧ u.jobs.attemptInProgress = true)) :
    (State.endJob cause first { u with drum := { u.drum with bandLostSignal := b } }).deliver =
      u.endJob cause false := by
  obtain ⟨-, -, -, hsignal, hr⟩ := u.noEvents_iff.1 h
  have hafter := u.endJob_noEvents cause h
  have hself : ({ u with drum := { u.drum with bandLostSignal := false } } : State) = u := by simp [← hsignal]
  cases b with
  | false => rw [hself, State.endJob_first cause first hsignal, State.deliver_noEvents _ hafter]
  | true =>
    cases first with
    | true =>
      have hnot : u.line.state.sending = false := by simpa using hb
      have htaken : State.endJob cause true { u with drum := { u.drum with bandLostSignal := true } } =
          u.endJob cause false := by
        have hlost : (State.mapJobs (fun j => { j with endCause := some cause })
            { u with drum := { u.drum with bandLostSignal := true } }).takeBandLost =
            State.mapJobs (fun j => { j with endCause := some cause })
              { u with drum := { u.drum with bandLostSignal := false } } := by
          simp [State.takeBandLost, hnot, State.lossTaken, State.withDrum, State.withJobs]
        unfold State.endJob
        simp only [if_true, Bool.false_eq_true, if_false]
        rw [hlost, hself]
      rw [htaken, State.deliver_noEvents _ hafter]
    | false =>
      rw [State.endJob_lost u cause true hr]
      exact State.deliver_lost hafter (State.endJob_notSending cause (hb.resolve_left (by simp) |>.imp id And.right))

theorem Jobs.endable_of {j : Jobs} (hs : j.state.running = true) (hr : j.requestsDue = none) : j.endable = true := by
  simp [Jobs.endable, hs, hr]

/-- The clamp opens under a job that runs, its requests not late (R111). -/
theorem State.clampOpen_ends {s : State} (first late : Bool) (hs : s.jobs.state.running = true)
    (hr : s.jobs.requestsDue = none) (hlate : late = false ∨ s.jobs.attemptInProgress = false) :
    s.clampOpen first late = ((s.mapJobs Jobs.clampOpened).park .brake).endJob .mediaRemoved first := by
  have hend : (s.mapJobs Jobs.clampOpened).jobs.endable = true := Jobs.endable_of hs hr
  have hnow : ¬ (late && (s.mapJobs Jobs.clampOpened).jobs.attemptInProgress) = true := by
    rcases hlate with h | h <;> simp [h, Jobs.clampOpened]
  exact (if_pos hend).trans (if_neg hnow)

theorem execClampOpen_of {s : State} (first late : Bool) (hreset : s.inReset = false)
    (hc : s.jobs.clampClosed = true) :
    exec (.clampOpen first late) s = .next (finish s (s.clampOpen first late).deliver) :=
  show execClampOpen first late s = _ from whenLevel_due _ _ _ s hreset hc

theorem execClampClose_of {s : State} (hreset : s.inReset = false) (hc : s.jobs.clampClosed = false) :
    exec .clampClose s = .next (finish s (s.mapJobs Jobs.clampShut).leaveMountWait.deliver) :=
  show execClampClose s = _ from whenLevel_due _ _ _ s hreset (by simp [hc])

theorem execClampClose_stays {s : State} (h : s.awake = true) (hc : s.jobs.clampClosed = false)
    (hno : ¬ (s.jobs.state = .mountWait ∧ Jobs.mount s.jobs.clampShut = .fresh ∧ s.mailbox.backlog = [])) :
    exec .clampClose s = .next (finish s (s.mapJobs Jobs.clampShut)) := by
  have hstays : (s.mapJobs Jobs.clampShut).leaveMountWait = s.mapJobs Jobs.clampShut := if_neg hno
  rw [execClampClose_of (State.awake_inReset h) hc, hstays,
    State.deliver_like (t := s.mapJobs Jobs.clampShut) (State.awake_noEvents h) rfl rfl]

/-- Steps 3 to 5 of a job's end leave no attempt and no destination open. -/
theorem State.closedBy_jobs (cause : Cause) (u : State) :
    (u.closedBy cause).jobs.endCause = u.jobs.endCause ∧ (u.closedBy cause).jobs.attemptInProgress = false ∧
      ∀ d ∈ (u.closedBy cause).jobs.progress, d.progress = .final := by
  have hfinal : ∀ d ∈ u.jobs.progress.map (fun d =>
      if d.progress = .final then d else { d with progress := .final, final := some .notSent, cause := some cause }),
      d.progress = .final := by
    intro d hd
    obtain ⟨x, -, rfl⟩ := List.mem_map.mp hd
    split
    next h => exact h
    next => rfl
  unfold State.closedBy State.finishing
  split <;> exact ⟨rfl, rfl, hfinal⟩

theorem State.endAttempt_cutRecord {u : State} {cause : Cause} (o : AttemptOutcome) (d : Detail)
    (hc : u.jobs.endCause = some cause) (hr : u.jobs.requestsDue = none) :
    (u.endAttempt o d true).record.outcome = some o ∧ (u.endAttempt o d true).record.detail = d ∧
      (u.endAttempt o d true).line.state = .stopTone ∧ (u.endAttempt o d true).jobs.attemptInProgress = false := by
  rw [u.endAttempt_cut o d true cause hc hr]
  split
  · exact ⟨rfl, rfl, rfl, rfl⟩
  next hno => exact ⟨rfl, rfl, rfl, (Bool.not_eq_true _).mp hno⟩

/-- The Line Unit takes the loss of the band before the cut: the attempt ends by it, and the cut finds none (R93). -/
theorem State.endJob_lostFirst {u : State} (cause : Cause) (h : u.noEvents = true)
    (hs : u.line.state.sending = true) :
    State.endJob cause true { u with drum := { u.drum with bandLostSignal := true } } =
      State.closedBy cause
        (State.endAttempt .drumFault .bandLost true { u with jobs := { u.jobs with endCause := some cause } }) := by
  obtain ⟨-, -, -, hsignal, hr⟩ := u.noEvents_iff.1 h
  obtain ⟨-, -, -, hover⟩ := State.endAttempt_cutRecord (u := { u with jobs := { u.jobs with endCause := some cause } })
    .drumFault .bandLost rfl hr
  obtain ⟨hdrum, -, -⟩ := State.endAttempt_underCause { u with jobs := { u.jobs with endCause := some cause } }
    .drumFault .bandLost true cause rfl hr
  have hlost : (State.mapJobs (fun j => { j with endCause := some cause })
      { u with drum := { u.drum with bandLostSignal := true } }).lossTaken =
      { u with jobs := { u.jobs with endCause := some cause } } := by
    simp [State.lossTaken, State.withDrum, State.withJobs, ← hsignal]
  have htaken : (State.mapJobs (fun j => { j with endCause := some cause })
      { u with drum := { u.drum with bandLostSignal := true } }).takeBandLost =
      State.endAttempt .drumFault .bandLost true { u with jobs := { u.jobs with endCause := some cause } } := by
    refine (if_pos rfl).trans ((congrArg State.lossTaken (if_pos hs)).trans ?_)
    rw [hlost]
    generalize State.endAttempt .drumFault .bandLost true { u with jobs := { u.jobs with endCause := some cause } } = x
      at hdrum
    have hx : x.drum.bandLostSignal = false := by rw [hdrum]; exact hsignal
    simp [State.lossTaken, State.withDrum, ← hx]
  unfold State.endJob
  simp only [if_true, State.finalizeJob_closed]
  rw [htaken, if_neg (by rw [hover]; exact Bool.false_ne_true)]

/-- What a step whose effect is the loss of the band, and the end of the job after it, leaves. -/
theorem State.lostThenClosed (old : State) {v : State} {cause : Cause} (hc : v.jobs.endCause = some cause)
    (hr : v.jobs.requestsDue = none) (h1 : v.carriage.arrivalEvent = false) (h2 : v.carriage.truncationEvent = false)
    (h3 : v.carriage.faultEvent = false) (h4 : v.drum.bandLostSignal = false) :
    ∀ {t : State}, t = finish old (State.closedBy cause (v.endAttempt .drumFault .bandLost true)).deliver →
    t.record.outcome = some .drumFault ∧ t.record.detail = .bandLost ∧ t.jobs.endCause = some cause ∧
      t.jobs.mount = v.jobs.mount ∧ t.drum = v.drum ∧ t.line.state = .stopTone ∧ t.jobs.attemptInProgress = false ∧
      (∀ d ∈ t.jobs.progress, d.progress = .final) ∧
      ∃ x, State.AttemptOver v .drumFault .bandLost true x ∧ State.Ends (x.closedBy cause) t := by
  rintro t rfl
  have hover := v.endAttempt_over .drumFault .bandLost true
  obtain ⟨hout, hdetail, hline, -⟩ := State.endAttempt_cutRecord .drumFault .bandLost hc hr
  obtain ⟨hmount, -⟩ := State.endAttempt_mount .drumFault .bandLost true hc hr
  obtain ⟨hdrum, hcause, -⟩ := State.endAttempt_underCause v .drumFault .bandLost true cause hc hr
  obtain ⟨e1, e2, e3⟩ := State.endAttempt_events v .drumFault .bandLost true
  generalize State.endAttempt .drumFault .bandLost true v = x at *
  obtain ⟨c1, c2, c3⟩ := State.finalizeJob_events cause x
  obtain ⟨hend, hnone, hfinal⟩ := State.closedBy_jobs cause x
  obtain ⟨hstays, -⟩ := State.closedBy_mount cause x
  obtain ⟨-, -, hd, hl, hrec, -⟩ := State.finalizeJob_frame cause x
  rw [State.finalizeJob_closed] at c1 c2 c3 hd hl hrec
  have hquiet : (x.closedBy cause).deliver = x.closedBy cause :=
    State.deliver_none _ (by rw [c1, e1, h1]) (by rw [c2, e2, h2]) (by rw [c3, e3, h3]) (by rw [hd, hdrum, h4])
  rw [hquiet]
  refine ⟨?_, ?_, ?_, ?_, ?_, ?_, ?_, ?_, x, hover, finish_ends _ _⟩ <;> simp only [finish_frame]
  · rw [hrec, hout]
  · rw [hrec, hdetail]
  · rw [hend, hcause]
  · rw [hstays, hmount]
  · rw [hd, hdrum]
  · rw [hl, hline]
  · exact hnone
  · exact hfinal

/-- Settles O34. -/
theorem clampAndStopKey : Obligations.ClampAndStopKey := by
  intro s hawake
  have hreset := State.awake_inReset hawake
  have hev := State.awake_noEvents hawake
  obtain ⟨h1, h2, h3, h4, hr⟩ := s.noEvents_iff.1 hev
  refine ⟨fun hc hs first late => ?opened, fun first late drum hc hs hlate hdrum hb => ?parked,
    fun hc hs ha hin hsend => ?lost, fun hc hm hno => ?closed, fun hc hm => ?stale, fun hc hm hs hb => ?begins,
    fun late hs hlate => ?stops, fun late hs => ?ignored⟩
  case opened =>
    have hno : ¬ (s.mapJobs Jobs.clampOpened).jobs.endable = true := by simp [Jobs.endable, Jobs.clampOpened, hs]
    refine ⟨_, execClampOpen_of first late hreset hc, finish_ends_of ?_⟩
    rw [State.clampOpen, if_neg hno]
    exact State.deliver_none _ h1 h2 h3 h4
  case parked =>
    have hpark := Drum.park_brake s.profile.drum s.now hdrum
    rw [h4, Bool.false_or] at hpark
    have hsignal : drum.bandLostSignal = false := by
      rw [hdrum]
      split_ifs <;> exact h4
    have hparked : (s.mapJobs Jobs.clampOpened).park .brake =
        { s with
          jobs := { s.jobs with clampClosed := false, mount := .opened }
          drum := { drum with bandLostSignal := s.drum.state.ready } } :=
      congrArg (fun d => ({ s with jobs := s.jobs.clampOpened, drum := d } : State)) hpark
    have hevents : State.noEvents
        { s with jobs := { s.jobs with clampClosed := false, mount := .opened }, drum := drum } = true := by
      simp [State.noEvents, State.noSignals, h1, h2, h3, hr, hsignal]
    have hquiet : s.drum.state.ready = false ∨ s.line.state.sending = false ∨
        (first = false ∧ s.jobs.attemptInProgress = true) :=
      hb.imp_left fun h => by simp [DrumState.ready_eq, h.1, h.2]
    have hexec := execClampOpen_of first late hreset hc
    rw [State.clampOpen_ends first late hs hr hlate, hparked,
      State.endJob_parked .mediaRemoved first s.drum.state.ready hevents hquiet] at hexec
    refine ⟨_, hexec, State.endJob_ended _ _ _, ?_⟩
    simpa using State.endJob_mount (u := { s with
      jobs := { s.jobs with clampClosed := false, mount := .opened }, drum := drum }) .mediaRemoved hr
  case lost =>
    have hready : s.drum.state.ready = true := by simp [DrumState.ready_eq, hin]
    have hpark := Drum.park_brake s.profile.drum s.now (d := s.drum) (e := s.drum.brakedToRest s.now)
      (by rcases hin with h | h <;> simp [h])
    rw [h4, Bool.false_or, hready] at hpark
    have hexec := execClampOpen_of true false hreset hc
    have hparked : (s.mapJobs Jobs.clampOpened).park .brake =
        { s with
          jobs := { s.jobs with clampClosed := false, mount := .opened }
          drum := { s.drum.brakedToRest s.now with bandLostSignal := true } } :=
      congrArg (fun d => ({ s with jobs := s.jobs.clampOpened, drum := d } : State)) hpark
    have hevents : State.noEvents
        { s with
          jobs := { s.jobs with clampClosed := false, mount := .opened }, drum := s.drum.brakedToRest s.now } = true := by
      simp [State.noEvents, State.noSignals, Drum.brakedToRest, h1, h2, h3, h4, hr]
    have hlost := State.endJob_lostFirst .mediaRemoved hevents hsend
    rw [State.clampOpen_ends true false hs hr (.inl rfl), hparked, hlost] at hexec
    obtain ⟨hout, hdetail, hcause, hmount, hdrum, hline, hnone, hfinal, hover⟩ := State.lostThenClosed s
      (v := { s with
        jobs := { s.jobs with clampClosed := false, mount := .opened, endCause := some .mediaRemoved }
        drum := s.drum.brakedToRest s.now }) rfl hr h1 h2 h3 h4 rfl
    exact ⟨_, hexec, hout, hdetail, hcause, hmount, congrArg Drum.state hdrum, congrArg Drum.brake hdrum, hline, hnone,
      hfinal, hover⟩
  case closed =>
    have hstays := execClampClose_stays hawake hc fun ⟨hs, _, hb⟩ => hno.elim (fun h => h hs) fun h => h hb
    exact ⟨_, hstays, finish_ends_of (by simp [Jobs.clampShut, hm, State.withJobs])⟩
  case stale =>
    have hstays := execClampClose_stays hawake hc (by simp [Jobs.clampShut, hm])
    exact ⟨_, hstays, finish_ends_of (by simp [Jobs.clampShut, hm, State.withJobs])⟩
  case begins =>
    have hyes : s.jobs.state = .mountWait ∧ Jobs.mount s.jobs.clampShut = .fresh ∧ s.mailbox.backlog = [] :=
      ⟨hs, by simp [Jobs.clampShut, hm], hb⟩
    have hleaves : (s.mapJobs Jobs.clampShut).leaveMountWait =
        State.look { s with
          jobs := { s.jobs with clampClosed := true, mount := .fresh, state := .attempting, mountLamp := false } } := by
      refine (if_pos hyes).trans ?_
      simp [Jobs.clampShut, hm, State.withJobs]
    refine ⟨_, _, execClampClose_of hreset hc, State.look_looked _, finish_ends_of ?_⟩
    rw [hleaves]
    exact State.deliver_like hev (by simp) (by simp)
  case stops =>
    have hnow : ¬ (s.jobs.attemptInProgress && late) = true := by rcases hlate with h | h <;> simp [h]
    have hends : s.endJobAs late .operatorStop = s.endJob .operatorStop false := if_neg hnow
    refine ⟨_, show execStopKey late s = _ from whenDeliver_due _ _ s hreset (Jobs.endable_of hs hr), ?_⟩
    rw [hends, State.deliver_noEvents _ (s.endJob_noEvents _ hev)]
    exact State.endJob_ended _ _ _
  case ignored =>
    exact ⟨_, show execStopKey late s = _ from whenDeliver_idle _ _ s hreset (by simp [Jobs.endable, hs]),
      finish_ends _ _⟩

/-! ## Requests that are on their way (R114, R116, R132) -/

/-- When the moment is over, the cut ends the attempt still in progress, and the crystal counts on. -/
theorem step_endsMoment {s : State} {cause : Cause} {r : LateEnd} (hp : s.pending = [])
    (hr : s.jobs.requestsDue = some r) (hc : s.jobs.endCause = some cause) (ha : s.jobs.attemptInProgress = true)
    (hl : s.line.state.attempting = true) (h1 : s.carriage.arrivalEvent = false)
    (h2 : s.carriage.truncationEvent = false) (h3 : s.carriage.faultEvent = false) :
    ∃ t y, step s = .next t ∧ State.AttemptEnded s cause.outcome cause.detail (!s.line.state.unanswered) y ∧
      State.Ends { y with crystal := s.crystal + 1 } t := by
  have hsome : s.jobs.requestsDue.isSome = true := by rw [hr]; rfl
  have hmoment : s.endMoment = finish s
      (s.endAttempt cause.outcome cause.detail (!s.line.state.unanswered)).deliver := by
    rw [← s.completeEnd_eq cause hc ha hsome hl]
    exact if_pos hsome
  have hended := State.endAttempt_ended s s cause.outcome cause.detail (!s.line.state.unanswered) h1 h2 h3
  have hcrystal : s.endMoment.crystal = s.crystal := by rw [hmoment]; simp
  rw [← hmoment] at hended
  refine ⟨_, _, step_of_nil hp, hended, ?_⟩
  rw [State.crystalTick, ← hcrystal]
  exact finish_ends _ _

/-- Settles O35: the causes given late, and what is taken while their requests are on their way. -/
theorem requestsOnTheirWay : Obligations.RequestsOnTheirWay := by
  refine ⟨fun s hawake ha => ?_, fun s cause r hreset hr hc ha h1 h2 h3 h4 => ?_⟩
  · have hreset := State.awake_inReset hawake
    have hev := State.awake_noEvents hawake
    have hr := State.noEvents_requests hev
    refine ⟨fun hs => ?stop, fun first hs hc => ?clamp, fun e x w rest take j ahead u hp hops ht hact hu hq hc hj hs => ?abort⟩
    case stop =>
      have hlate : s.endJobAs true .operatorStop = s.causeLate .operatorStop none := if_pos (by simp [ha])
      refine ⟨_, show execStopKey true s = _ from whenDeliver_due _ _ s hreset (Jobs.endable_of hs hr), finish_ends_of ?_⟩
      rw [hlate]
      exact State.deliver_like hev rfl rfl
    case clamp =>
      have hend : (s.mapJobs Jobs.clampOpened).jobs.endable = true := Jobs.endable_of hs hr
      have hlate : s.clampOpen first true = (s.mapJobs Jobs.clampOpened).causeLate .mediaRemoved none :=
        (if_pos hend).trans (if_pos (show (true && s.jobs.attemptInProgress) = true by simp [ha]))
      refine ⟨_, execClampOpen_of first true hreset hc, finish_ends_of ?_⟩
      rw [hlate]
      exact State.deliver_like hev rfl rfl
    case abort =>
      have hjobs : u.jobs = s.jobs := by rw [hu]; rfl
      have hexec : exec (.abortEntry true ahead) s = .next (finish s (u.abort true ahead w.toNat).deliver) := by
        rw [hu]
        exact show execAbortEntry true ahead s = _ from execAbortEntry_of hreset hp hops ht hact true ahead
      rw [State.abort_current (by rw [hjobs]; exact fun i hi => Job.has_false (hq i hi)) (by rw [hjobs, hc])
        ((j.has_iff _).mpr hj) (by rw [hjobs]; exact hs) (by rw [hjobs, hr]),
        if_pos (by rw [hjobs, ha]; rfl)] at hexec
      refine ⟨_, hexec, finish_ends_of ?_⟩
      exact State.deliver_like hev (by rw [hu]; rfl) (by rw [hu]; rfl)
  · refine ⟨fun due hst ht hdue => ?answer, fun u hrelay ht hu hl => ?loop, fun hsend hs hlost => ?band,
      fun late => ?second, fun hp hl => step_endsMoment hp hr hc ha hl h1 h2 h3⟩
    case answer =>
      exact ⟨_, show execAnswerTimeout s = _ from whenDeliver_due _ _ s hreset (by simp [hst, ht, expired, hdue]),
        State.endAttempt_ended _ _ _ _ _ h1 h2 h3⟩
    case loop =>
      have hns : s.line.state ≠ .stopTone := by
        intro h; rw [h] at hl; cases hl
      refine ⟨_, show execLoopLoss s = _ from
        whenDeliver_due _ _ s hreset (by simp [Line.loopLost, hrelay, ht, hasRun, hu]), ?_⟩
      rw [State.loseLine, if_neg hns, if_pos hl]
      exact State.endAttempt_ended _ _ _ _ _ h1 h2 h3
    case band =>
      refine ⟨_, show execBandLost s = _ from
        whenDeliver_due _ _ s hreset (by simp [State.bandLossDue, hs, hlost]), ?_⟩
      exact State.bandLost_ended s _ _ rfl h4 hsend h1 h2 h3
    case second =>
      exact ⟨_, show execStopKey late s = _ from whenDeliver_idle _ _ s hreset (by simp [Jobs.endable, hr]),
        finish_ends _ _⟩

end Sys2Proof.Machine
end

section
/-! PROOFS. The finish of a job, the start of an attempt and the second tick
(06_transmission_control_blocks_and_the_job_queue.md, FINISHING; 07_destinations_attempts_and_retries.md, Starting an
attempt; 08_receipt_slips_and_the_desk_clock.md, The Desk Clock). -/

namespace Sys2Proof.Machine

/-! ## The results area (R117, R118) -/

theorem okCount_eq (ds : List Dest) (m : Nat) :
    okCount ds m = (ds.filter fun d => decide (∃ e ∈ d.frames[m]?, e.check ≠ SigCheck.notCompared)).length := by
  have hone (d : Dest) : (((d.frames[m]?.map (·.check)).getD .notCompared) != SigCheck.notCompared) =
      decide (∃ e ∈ d.frames[m]?, e.check ≠ SigCheck.notCompared) := by
    cases d.frames[m]? with
    | none => simp
    | some e => cases he : e.check <;> simp [he]
  simp only [okCount, hone]

theorem wordsFrom_getElem? (a : Nat) (ws : List Word) (i : Nat) :
    (wordsFrom a ws)[i]? = ws[i]?.map (wholeWord (a + 4 * i)) := by
  induction ws generalizing a i with
  | nil => rfl
  | cons w ws ih =>
    cases i with
    | zero => rfl
    | succ i =>
      simp only [wordsFrom, List.getElem?_cons_succ, ih]
      congr 2
      omega

@[simp] theorem wordsFrom_length (a : Nat) (ws : List Word) : (wordsFrom a ws).length = ws.length := by
  induction ws generalizing a with
  | nil => rfl
  | cons w ws ih => simp [wordsFrom, ih]

/-- The words of pairs, one after another. -/
theorem flatMap_range_pairs {α : Type} {f : Nat → List α} (hf : ∀ i, (f i).length = 2) (n : Nat) :
    ((List.range n).flatMap f).length = 2 * n ∧
      ∀ i k, i < n → k < 2 → ((List.range n).flatMap f)[2 * i + k]? = (f i)[k]? := by
  induction n with
  | zero => exact ⟨rfl, fun i k hi => absurd hi (Nat.not_lt_zero i)⟩
  | succ n ih =>
    obtain ⟨hlen, hget⟩ := ih
    rw [List.range_succ, List.flatMap_append, List.flatMap_singleton]
    refine ⟨by rw [List.length_append, hlen, hf]; omega, fun i k hi hk => ?_⟩
    by_cases hin : i < n
    · rw [List.getElem?_append_left (by omega), hget i k hin hk]
    · have : i = n := by omega
      subst this
      rw [List.getElem?_append_right (by omega), hlen]
      congr 1
      omega

theorem destWords_length (m : Nat) (ds : List Dest) (i : Nat) : (destWords m ds i).length = 2 := by
  unfold destWords
  split <;> rfl

/-- The words of one member's results (R117). -/
theorem resultOps_getElem? {last : OpKind} {cause : Option Cause} {ds : List Dest} {sigs : List Sig} {j : Job} {m : Nat}
    {x : Member} {o : Op} (hx : j.members[m]? = some x) (ho : (resultOps last cause ds sigs j)[m]? = some o) :
    o = { kind := if m + 1 = j.members.length then last else .memberResults
          todo :=
            (wholeWord (x.addr + 48) (fromBytesHalf (codeOr Cause.code cause) 0 ((sigs.getD m 1).toNat))
              :: wordsFrom (x.addr + 64) ((List.range 8).flatMap (destWords m ds))).map .wr
          got := [] } := by
  rw [resultOps, List.getElem?_mapIdx, hx] at ho
  exact (Option.some.inj ho).symm

/-- A destination's two words. -/
theorem resultWord_getElem? (a m i k : Nat) (ds : List Dest) (hi : i < 8) (hk : k < 2) (first : Access) :
    ((first :: wordsFrom (a + 64) ((List.range 8).flatMap (destWords m ds))).map OpWord.wr)[2 * i + k + 1]? =
      ((destWords m ds i)[k]?).map fun w => .wr (wholeWord (a + 64 + 8 * i + 4 * k) w) := by
  rw [List.getElem?_map, List.getElem?_cons_succ, wordsFrom_getElem?,
    (flatMap_range_pairs (destWords_length m ds) 8).2 i k hi hk, Option.map_map]
  congr 1
  funext w
  simp only [Function.comp, wholeWord]
  congr 2
  omega

theorem codeOr_eq {α : Type} (f : α → Nat) (x : Option α) : codeOr f x = (x.map f).getD 0 := by
  cases x <;> rfl

theorem Dest.wordA_eq (m : Nat) (d : Dest) :
    d.wordA m =
      BitVec.ofNat 32
        ((d.final.map FinalOutcome.code).getD 0 + 256 * (d.lastOutcome.map AttemptOutcome.code).getD 0
          + 4096 * d.lastDetail.code + 65536 * min d.attempts 15
          + 1048576 * min ((d.frames[m]?.map FrameEntry.firstSent).getD 0) 4095) := by
  rw [Dest.wordA, codeOr_eq, codeOr_eq]

theorem Dest.wordB_eq (m : Nat) (d : Dest) :
    d.wordB m =
      BitVec.ofNat 32
        (((d.frames[m]?.map FrameEntry.sig).getD 1).toNat + 65536 * min d.served 255 + 16777216 * min d.refused 255) := by
  have hsig : min ((d.frames[m]?.map (·.sig.toNat)).getD 1) 65535 = ((d.frames[m]?.map FrameEntry.sig).getD 1).toNat := by
    cases d.frames[m]? with
    | none => rfl
    | some e => have := e.sig.isLt; simp only [Option.map_some, Option.getD_some]; omega
  rw [Dest.wordB, fromHalfBytes, hsig]

/-- The word of the end cause and the scan signature. -/
theorem causeWord_eq (cause : Option Cause) (sig : Sig) :
    fromBytesHalf (codeOr Cause.code cause) 0 sig.toNat =
      BitVec.ofNat 32 ((cause.map Cause.code).getD 0 + 65536 * sig.toNat) := by
  have hsig : min sig.toNat 65535 = sig.toNat := by have := sig.isLt; omega
  have hcode : min ((cause.map Cause.code).getD 0) 255 = (cause.map Cause.code).getD 0 := by
    cases cause with
    | none => rfl
    | some c => cases c <;> rfl
  rw [fromBytesHalf, codeOr_eq, hsig, hcode]
  simp

/-! ## The finish of a job (R119, R120) -/

/-- Handing a completion on has one outcome. -/
theorem State.Handed.eq {u t : State} {c : Completion} (h : u.Handed c t) : t = u.handOn c := by
  by_cases hb : u.mailbox.backlog = [] ∧ u.mailbox.slots[u.mailbox.postIndex]? = some .free
  · rw [h.posted hb.1 hb.2, (u.handOn_handed c).posted hb.1 hb.2]
  · have hw : u.mailbox.backlog ≠ [] ∨ u.mailbox.slots[u.mailbox.postIndex]? ≠ some .free := not_and_or.mp hb
    rw [h.waits hw, (u.handOn_handed c).waits hw]

theorem State.HandedAll.eq {u t : State} {cs : List Completion} (h : u.HandedAll cs t) : t = u.handOnAll cs := by
  induction cs generalizing u with
  | nil => exact h
  | cons c cs ih =>
    obtain ⟨v, hv, ht⟩ := h
    rw [ih ht, hv.eq]
    rfl

theorem State.resultsDue_of {s : State} {x : Access} {got : List Word} {rest : List Op}
    (hp : s.gate.port = some .control)
    (h : s.gate.ops = { kind := .results, todo := [.wr x], got := got } :: rest) : s.resultsDue = true := by
  simp [State.resultsDue, Gate.controlOp_head hp h, Op.atLast]

theorem Job.completions_eq (j : Job) (cause : Option Cause) (ds : List Dest) :
    j.completions cause ds =
      j.members.mapIdx fun i y =>
        { addr := y.addr, status := memberStatus cause (okCount ds i) ds.length, reason := none, ok := okCount ds i
          failed := ds.length - okCount ds i, quiet := decide (i + 1 < j.members.length)
          chainEnd := decide (i + 1 = j.members.length) } := rfl

/-- A scanner at rest goes dark without more. -/
theorem State.lampOff_atRest {u : State} (h1 : u.scan.state ≠ .scanning) (h2 : u.scan.state ≠ .frameDone) :
    u.lampOff = { u with scan := { u.scan with state := .idle, lamp := false, warm := none } } := by
  have hstops : ¬ u.scan.stops := by rintro (h | h) <;> contradiction
  rw [State.lampOff_darkened]
  cases hl : u.scan.line <;>
    simp [State.darkened, State.stopped, Scan.dark, Scan.stopped, hstops, h1, hl]

/-- With no turn being sent, the only event that a parked drum gives is over when it is taken. -/
theorem State.deliver_lossTaken {t : State} (h1 : t.carriage.arrivalEvent = false)
    (h2 : t.carriage.truncationEvent = false) (h3 : t.carriage.faultEvent = false) (hs : t.line.state.sending = false) :
    t.deliver = t.lossTaken := by
  cases hb : t.drum.bandLostSignal with
  | false =>
    rw [State.deliver_none t h1 h2 h3 hb]
    simp [State.lossTaken, State.withDrum, ← hb]
  | true =>
    simp [State.deliver, State.takeTruncation, State.takeArrival, State.takeBandLost, State.takeCarriageFault, h1, h2,
      h3, hs, hb, State.lossTaken, State.withDrum]

theorem State.nextCurrent_empty {u : State} (h : u.jobs.queue = []) : u.nextCurrent = u := by
  unfold State.nextCurrent
  rw [h]
  split
  next hq => cases hq
  next => rfl

theorem State.settleDrum_eq (u : State) :
    u.settleDrum =
      { u with
        drum := if u.jobs.endCause = some .mediaRemoved ∨ (u.jobs.queue ≠ [] ∧ 0 < u.profile.drum.parkDelay) then u.drum
          else u.drum.park u.profile.drum u.now u.profile.drum.parkMode
        jobs :=
          { u.jobs with
            parkTimer :=
              if u.jobs.endCause = some .mediaRemoved then u.jobs.parkTimer
              else if u.jobs.queue ≠ [] ∧ 0 < u.profile.drum.parkDelay then
                some (u.now + 1000000 * u.profile.drum.parkDelay)
              else none } } := by
  unfold State.settleDrum
  by_cases hm : u.jobs.endCause = some .mediaRemoved
  · rw [if_pos hm, if_pos (.inl hm), if_pos hm]
  rw [if_neg hm, if_neg hm]
  by_cases hq : u.jobs.queue = []
  · rw [if_pos hq, if_neg (by simp [hm, hq]), if_neg (by simp [hq])]
    rfl
  rw [if_neg hq]
  by_cases hd : u.profile.drum.parkDelay = 0
  · rw [if_pos hd, if_neg (by simp [hm, hd]), if_neg (by simp [hd])]
    rfl
  · have hwait : u.jobs.queue ≠ [] ∧ 0 < u.profile.drum.parkDelay := ⟨hq, Nat.pos_of_ne_zero hd⟩
    rw [if_neg hd, if_pos (.inr hwait), if_pos hwait]
    rfl

theorem Gate.placeGuards_nil (g : Gate) :
    g.placeGuards [] = { g with guards := (g.guards.take 2 ++ List.replicate 12 none).take 12 } := by
  simp [Gate.placeGuards]

/-- The finished job has left, and the drum is settled (R119, R120). -/
theorem State.settleDrum_left {v : State} (h1 : v.scan.state ≠ .scanning) (h2 : v.scan.state ≠ .frameDone)
    (hsignal : v.drum.bandLostSignal = false) :
    ((v.withGate (v.gate.placeGuards [])).lampOff.settleDrum.mapJobs Jobs.endCurrent).lossTaken =
      { v.jobLeft with
        drum :=
          if v.jobs.endCause = some .mediaRemoved ∨ (v.jobs.queue ≠ [] ∧ 0 < v.profile.drum.parkDelay) then v.drum
          else { v.drum.park v.profile.drum v.now v.profile.drum.parkMode with bandLostSignal := false }
        jobs :=
          { v.jobLeft.jobs with
            parkTimer :=
              if v.jobs.endCause = some .mediaRemoved then v.jobs.parkTimer
              else if v.jobs.queue ≠ [] ∧ 0 < v.profile.drum.parkDelay then
                some (v.now + 1000000 * v.profile.drum.parkDelay)
              else none } } := by
  have hdrum : ({ (if v.jobs.endCause = some .mediaRemoved ∨ (v.jobs.queue ≠ [] ∧ 0 < v.profile.drum.parkDelay) then
        v.drum
      else v.drum.park v.profile.drum v.now v.profile.drum.parkMode) with bandLostSignal := false } : Drum) =
      if v.jobs.endCause = some .mediaRemoved ∨ (v.jobs.queue ≠ [] ∧ 0 < v.profile.drum.parkDelay) then v.drum
      else { v.drum.park v.profile.drum v.now v.profile.drum.parkMode with bandLostSignal := false } := by
    split
    · rw [← hsignal]
    · rfl
  rw [State.lampOff_atRest (u := v.withGate (v.gate.placeGuards [])) h1 h2, State.settleDrum_eq, ← hdrum, Gate.placeGuards_nil]
  rfl

theorem State.nextCurrent_lossTaken {u : State} (h : u.jobs.state = .idle) :
    u.nextCurrent.lossTaken = u.lossTaken.nextCurrent := by
  cases hq : u.jobs.queue with
  | nil => rw [State.nextCurrent_empty hq, State.nextCurrent_empty (u := u.lossTaken) hq]
  | cons j q =>
    rw [State.nextCurrent_begins h hq, State.nextCurrent_begins (u := u.lossTaken) h hq]
    rfl

/-- The finish of a job, the loss of the band that a parked drum signals taken (R119, R120). -/
theorem State.finishJob_delivers {u v y : State} {j : Job} (hc : u.jobs.current = some j) (h : v.noEvents = true)
    (hsend : v.line.state.sending = false) (h1 : v.scan.state ≠ .scanning) (h2 : v.scan.state ≠ .frameDone)
    (hv : v = u.handOnAll (j.completions u.jobs.endCause u.jobs.progress))
    (hy : y =
      { v.jobLeft with
        drum :=
          if v.jobs.endCause = some .mediaRemoved ∨ (v.jobs.queue ≠ [] ∧ 0 < v.profile.drum.parkDelay) then v.drum
          else { v.drum.park v.profile.drum v.now v.profile.drum.parkMode with bandLostSignal := false }
        jobs :=
          { v.jobLeft.jobs with
            parkTimer :=
              if v.jobs.endCause = some .mediaRemoved then v.jobs.parkTimer
              else if v.jobs.queue ≠ [] ∧ 0 < v.profile.drum.parkDelay then
                some (v.now + 1000000 * v.profile.drum.parkDelay)
              else none } }) :
    u.finishJob.deliver = y.nextCurrent := by
  obtain ⟨e1, e2, e3, e4, -⟩ := v.noEvents_iff.1 h
  have hleft := State.settleDrum_left h1 h2 e4
  rw [← hy] at hleft
  have hfinish : u.finishJob =
      ((v.withGate (v.gate.placeGuards [])).lampOff.settleDrum.mapJobs Jobs.endCurrent).nextCurrent := by
    rw [hv]
    unfold State.finishJob
    rw [hc]
  rw [hfinish]
  generalize hz : (v.withGate (v.gate.placeGuards [])).lampOff.settleDrum.mapJobs Jobs.endCurrent = z at hleft ⊢
  have hidle : z.jobs.state = .idle := by rw [← hz]; rfl
  have hcarriage : z.carriage = v.carriage := by
    have := congrArg State.carriage hleft
    rw [hy] at this
    exact this
  have hline : z.line = v.line := by
    have := congrArg State.line hleft
    rw [hy] at this
    exact this
  have hloss : z.nextCurrent.deliver = z.nextCurrent.lossTaken :=
    State.deliver_lossTaken (by simp [hcarriage, e1]) (by simp [hcarriage, e2]) (by simp [hcarriage, e3])
      (by simp [hline, hsend])
  rw [hloss, State.nextCurrent_lossTaken hidle, hleft]

/-- What a PARK makes of the drum in each of its states; a drum in band signals the loss of the band with it (R5). -/
theorem Drum.park_parked (p : DrumProfile) (t : Nat) (mode : ParkMode) {d e : Drum}
    (h1 : d.state = .stopped → e = { d with spinRequest := none })
    (h2 : d.state = .parking ∨ d.state = .latched →
      e = { d with spinRequest := none, brake := d.brake || decide (mode = .brake) })
    (h3 : d.state.regulating = true ∨ d.state = .faultWait →
      e = { d with
        state := .parking, duty := 0, brake := decide (mode = .brake), spinRequest := none, ref := 0, integral := 0
        spinUp := none, wait := none, rampTick := none, stallTimer := none, rest := some (t + 1000000) }) :
    d.park p t mode = { e with bandLostSignal := d.bandLostSignal || d.state.ready } := by
  cases hs : d.state <;> simp only [hs, DrumState.regulating, reduceCtorEq, or_false, or_true,
    Bool.false_eq_true, forall_const, false_implies] at h1 h2 h3 <;>
    simp [Drum.park, Drum.setDuty, DrumState.ready, hs, h1, h2, h3]

/-- Settles O36: the count, the results area, the finish, and the end of the park delay. -/
theorem jobsFinishAndTheDrumIsParked : Obligations.JobsFinishAndTheDrumIsParked := by
  refine ⟨okCount_eq, fun last cause ds sigs j m x o hx ho => ?results,
    fun s v y j x got rest hreset hsend hev hp hops hc h1 h2 hv hy => ?finish,
    fun s u due d hawake ht hdue hd1 hd2 hd3 hu => ?delay⟩
  case results =>
    rw [resultOps_getElem? hx ho]
    refine ⟨by simp [resultOps], by simp [(flatMap_range_pairs (destWords_length m ds) 8).1], rfl, ?cause,
      fun i d firstSent sig hi hd hfig => ?dest, fun i hi hlen => ?beyond⟩
    case cause =>
      simp only [List.map_cons, List.getElem?_cons_zero, wholeWord, causeWord_eq]
      cases cause with
      | none => rfl
      | some c => cases c <;> rfl
    case dest =>
      have hword : destWords m ds i = [d.wordA m, d.wordB m] := by simp [destWords, hd]
      have h0 := resultWord_getElem? x.addr m i 0 ds hi (by omega)
      have h1 := resultWord_getElem? x.addr m i 1 ds hi (by omega)
      rw [hword] at h0 h1
      have hfirst : firstSent = (d.frames[m]?.map FrameEntry.firstSent).getD 0 ∧
          sig = (d.frames[m]?.map FrameEntry.sig).getD 1 := by
        cases hf : d.frames[m]? <;> rw [hf] at hfig <;> exact Prod.mk.inj hfig
      rw [hfirst.1, hfirst.2]
      refine ⟨(h0 _).trans ?_, (h1 _).trans ?_⟩
      · simp [wholeWord, Dest.wordA_eq]
      · simp [wholeWord, Dest.wordB_eq]
        omega
    case beyond =>
      have hword : destWords m ds i = [0, 0] := by simp [destWords, List.getElem?_eq_none hlen]
      have h0 := resultWord_getElem? x.addr m i 0 ds hi (by omega)
      have h1 := resultWord_getElem? x.addr m i 1 ds hi (by omega)
      rw [hword] at h0 h1
      refine ⟨(h0 _).trans ?_, (h1 _).trans ?_⟩
      · simp [wholeWord]
      · simp [wholeWord]
        omega
  case finish =>
    have hall : v = State.handOnAll (j.completions s.jobs.endCause s.jobs.progress)
        { s with mem := s.mem.write x, gate := { s.gate with port := none, ops := rest } } := hv.eq
    have hjobs : v.jobs = s.jobs := by rw [hall]; simp
    have hnow : v.now = s.now := by rw [State.now, hall]; simp [State.now]
    have hprofile : v.profile = s.profile := by rw [hall]; simp
    have hevents : v.noEvents = true := by
      rw [hall]
      simpa [State.noEvents, State.noSignals] using hev
    have hexec : exec .jobResultsWritten s = .next (finish s s.controlStep.finishJob.deliver) :=
      show execJobResultsWritten s = _ from whenDeliver_due _ _ s hreset (State.resultsDue_of hp hops)
    rw [State.controlStep_lastWrite hops,
      State.finishJob_delivers (u := { s with mem := s.mem.write x, gate := { s.gate with port := none, ops := rest } })
        (y := y) hc hevents (by rw [hall]; simpa using hsend)
        (by rw [hall]; simpa using h1) (by rw [hall]; simpa using h2) hall
        (by rw [hjobs, hnow, hprofile]; rw [hprofile, hnow, hjobs] at hy; exact hy)] at hexec
    have hqueue : y.jobs.queue = s.jobs.queue := by rw [hy, ← hjobs]; rfl
    have hidle : y.jobs.state = .idle := by rw [hy]; rfl
    refine ⟨fun hq => ⟨_, hexec, finish_ends_of (State.nextCurrent_empty (hqueue.trans hq))⟩,
      fun job q hq => ⟨_, hexec, finish_ends_of (State.nextCurrent_begins hidle (hqueue.trans hq))⟩⟩
  case delay =>
    have hreset := State.awake_inReset hawake
    have hev := State.awake_noEvents hawake
    obtain ⟨e1, e2, e3, e4, hr⟩ := s.noEvents_iff.1 hev
    have hpark := Drum.park_parked s.profile.drum s.now s.profile.drum.parkMode hd1 hd2 hd3
    rw [e4, Bool.false_or] at hpark
    have hparked : (s.mapJobs fun j => { j with parkTimer := none }).park s.profile.drum.parkMode =
        { u with drum := { u.drum with bandLostSignal := s.drum.state.ready } } := by
      rw [hu]
      exact congrArg (fun d => ({ s with jobs := { s.jobs with parkTimer := none }, drum := d } : State)) hpark
    have hexec : exec .parkDelayExpiry s = _ := show execParkDelayExpiry s = _ from
      whenDeliver_due _ _ s hreset (by simp [ht, expired, hdue])
    rw [hparked] at hexec
    have hsignal : u.drum.bandLostSignal = false := by
      rw [hu]
      cases hs : s.drum.state <;> simp_all [DrumState.regulating]
    have hevents : u.noEvents = true := by
      rw [State.noEvents_iff, hsignal, hu]
      exact ⟨e1, e2, e3, rfl, hr⟩
    refine ⟨fun hquiet => ⟨_, hexec, finish_ends_of ?_⟩, fun hsend hin => ⟨_, hexec, ?_⟩⟩
    · cases hready : s.drum.state.ready with
      | false =>
        have hself : ({ u with drum := { u.drum with bandLostSignal := false } } : State) = u := by simp [← hsignal]
        rw [hself, State.deliver_noEvents _ hevents]
      | true =>
        refine State.deliver_lost hevents ?_
        rw [hu]
        exact hquiet.resolve_right fun h => by simp [DrumState.ready_eq, h.1, h.2] at hready
    · have hready : s.drum.state.ready = true := by simp [DrumState.ready_eq, hin]
      rw [hready]
      exact State.bandLost_ended s u _ rfl hsignal (by rw [hu]; exact hsend) (by rw [hu]; exact e1)
        (by rw [hu]; exact e2) (by rw [hu]; exact e3)

end Sys2Proof.Machine
end

section
/-! PROOFS. The start of an attempt and the second tick (07_destinations_attempts_and_retries.md, Starting an attempt;
08_receipt_slips_and_the_desk_clock.md, The Desk Clock). -/

namespace Sys2Proof.Machine

/-! ## The second tick (R127, R135, R140) -/

theorem State.headDue_iff (s : State) :
    s.headDue = true ↔ (s.jobs.retryList.head?.map fun e => decide (e.2 ≤ s.clock.uptime)) = some true := by
  unfold State.headDue
  cases s.jobs.retryList.head? <;> simp

/-- A change of uptime moves the job's state alone. -/
theorem State.retryDue_eq (s : State) :
    s.retryDue =
      { s with
        jobs :=
          { s.jobs with
            state :=
              if s.jobs.state = .retryWait ∧
                  (s.jobs.retryList.head?.map fun e => decide (e.2 ≤ s.clock.uptime)) = some true
              then .attempting else s.jobs.state } } := by
  unfold State.retryDue
  rw [if_congr (and_congr_right fun _ => s.headDue_iff) rfl rfl]
  split <;> rfl

/-- Settles O39. -/
theorem theClockTicks : Obligations.TheClockTicks := by
  intro s due uptime time hreset ht hdue hup htime
  refine ⟨_, _, show execClockTick s = _ from when_due _ _ s hreset (by simp [ht, expired, hdue]), ?_, finish_ends _ _⟩
  have htick : s.clock.tick = { time := time, uptime := uptime, nextTick := some (due + 1000000) } := by
    rw [Clock.tick, ht, hup, htime]
    rfl
  rw [State.tick, State.retryDue_eq, htick]
  exact State.look_looked _

/-! ## The start of an attempt (R129) -/

theorem State.call_onHook {u : State} {info : CallInfo} (h : u.line.state = .onHook) :
    u.call info =
      { u with
        line := (({ u.line with call := some info, grantsUsed := 0 }).takeSnapshot u.profile.line).seize u.now
        record := u.record.open info.frames } := if_pos h

theorem State.beginAttempt_eq {u : State} {n : Nat} {j : Job} {d : Dest} {words : List Word} {e : DirEntry}
    (hn : u.jobs.startInFlight = some n) (hc : u.jobs.current = some j) (hd : u.jobs.progress[n]? = some d)
    (he : e = readDirEntry words) (hl : u.line.state = .onHook) :
    u.beginAttempt words =
      { u with
        record := (u.record.begin n { d with attempts := d.attempts + 1 } e.name j u.clock).open j.frames
        jobs :=
          { u.jobs with
            progress := updateAt (fun _ => { d with attempts := d.attempts + 1 }) u.jobs.progress n
            startInFlight := none, attemptInProgress := true, noRetry := e.noRetry, lineAtRest := false
            currentDest := some (n, d.attempts + 1), scanSigs := j.freshSigs
            directoryFaults :=
              if e.corrected = true then satInc u.jobs.directoryFaults else u.jobs.directoryFaults
            parkTimer := none }
        drum := u.drum.spin u.profile.drum u.now j.speed
        carriage := u.carriage.requestPosition u.now ((j.frames.head?.map (·.start)).getD 0)
        scan := u.scan.lampOn u.profile.lampWarmUp u.now j.frames
        line :=
          ((({ u.line with call := some (j.callInfo e.dial), grantsUsed := 0 }).takeSnapshot u.profile.line).seize
            u.now) } := by
  unfold State.beginAttempt
  simp only [hn, hc, hd, ← he]
  refine (State.call_onHook ?_).trans ?_
  · exact hl
  · rw [← hc]
    rfl

/-- The CALL's part of the Line Unit (R50, R52, R78, R79). -/
theorem Line.called_eq {l : Line} {p : LineProfile} {info : CallInfo} {fb fw : Nat} (t : Nat)
    (hpair : (fb, fw) = (if p.fBlack + 200 ≤ p.fWhite then (p.fBlack, p.fWhite) else (1300, 2100))) :
    (({ l with call := some info, grantsUsed := 0 }).takeSnapshot p).seize t =
      { l with
        state := .seizeWait, relay := true, sendLamp := true, active := true, grantsUsed := 0
        call := some info
        snapshot := some p, fBlack := fb, fWhite := fw
        pairDefaulted := decide (p.fWhite < p.fBlack + 200)
        hBlack := (4000000 + fb) / (2 * fb), hWhite := (4000000 + fw) / (2 * fw)
        hStart := (4000000 + p.fStart) / (2 * p.fStart), hStop := (4000000 + p.fStop) / (2 * p.fStop)
        seizeTimer := some (t + 1000 * p.seizeWait)
        loopTimer := if l.loop = true then none else some t
        toneDue := none
        monitor := { windowEnd := some (t + 40000), band := none, count := 0, recognised := false } } := by
  have hfrequency : frequencyPair p.fBlack p.fWhite = (fb, fw, decide (p.fWhite < p.fBlack + 200)) := by
    unfold frequencyPair
    by_cases h : p.fBlack + 200 ≤ p.fWhite
    · rw [if_pos h] at hpair ⊢
      obtain ⟨rfl, rfl⟩ := Prod.mk.inj hpair
      simp [h]
    · rw [if_neg h] at hpair ⊢
      obtain ⟨rfl, rfl⟩ := Prod.mk.inj hpair
      simp [Nat.not_le.mp h]
  unfold Line.takeSnapshot
  rw [hfrequency]
  rfl

/-- A lamp-on in the states without a frame in progress (R31). -/
theorem Scan.lampOn_eq {c : Scan} (warmUp t : Nat) (frames : List Frame)
    (h : c.state = .idle ∨ c.state = .warming ∨ c.state = .ready) :
    c.lampOn warmUp t frames =
      { c with
        frames := frames, lastPair := none
        state := if c.state = .idle then (if warmUp = 0 then .ready else .warming) else c.state
        lamp := if c.state = .idle then true else c.lamp
        warm := if c.state = .idle then (if warmUp = 0 then none else some (t + 100000 * warmUp)) else c.warm } := by
  unfold Scan.lampOn
  rcases h with h | h | h
  · by_cases hw : warmUp = 0 <;> simp [h, hw]
  · simp [h]
  · simp [h]

/-- The events that a start gives are taken: an arrival and the loss of the band of a drum turned to another speed are
over at once, and a carriage fault is left to the Job Controller. -/
theorem State.deliver_started {t : State} (h : t.carriage.truncationEvent = false)
    (hs : t.line.state.sending = false) (hf : t.scan.state ≠ .frameDone) :
    t.deliver =
      State.takeCarriageFault
        { t with
          drum := { t.drum with bandLostSignal := false }, carriage := { t.carriage with arrivalEvent := false } } := by
  have harrival : t.takeArrival = { t with carriage := { t.carriage with arrivalEvent := false } } := by
    cases ha : t.carriage.arrivalEvent with
    | false => simp [State.takeArrival, ← ha]
    | true => simp [State.takeArrival, ha, beq_eq_false_iff_ne.mpr hf]
  have hlost (u : State) (hu : u.line.state.sending = false) :
      u.takeBandLost = { u with drum := { u.drum with bandLostSignal := false } } := by
    cases hb : u.drum.bandLostSignal with
    | false => simp [State.takeBandLost, ← hb]
    | true => simp [State.takeBandLost, hu, hb, State.lossTaken, State.withDrum]
  rw [State.deliver, State.takeTruncation, if_neg (by simp [h]), harrival,
    hlost { t with carriage := { t.carriage with arrivalEvent := false } } hs]

/-- The start of an attempt, block by block, from a scanner with no frame in progress. -/
theorem State.beginAttempt_begun {u : State} {n fb fw : Nat} {j : Job} {f : Frame} {frames : List Frame} {d : Dest}
    {e : DirEntry} {p : LineProfile} {words : List Word}
    (hn : u.jobs.startInFlight = some n) (hc : u.jobs.current = some j) (hd : u.jobs.progress[n]? = some d)
    (hframes : j.frames = f :: frames) (he : e = readDirEntry words) (hp : p = u.profile.line)
    (hpair : (fb, fw) = (if p.fBlack + 200 ≤ p.fWhite then (p.fBlack, p.fWhite) else (1300, 2100)))
    (hscan : u.scan.state = .idle ∨ u.scan.state = .warming ∨ u.scan.state = .ready) (hl : u.line.state = .onHook) :
    u.beginAttempt words =
      { u with
        record :=
          { u.record with
            destSlot := n, dirIndex := d.dirIndex, name := e.name, attemptNo := d.attempts + 1
            startTime := u.clock.time, startUptime := u.clock.uptime, frameCount := j.members.length
            captions := j.members.map fun y => y.caption
            frames := j.frames.map fun _ =>
              { firstSent := 0, short := 0, sig := 1, check := .notCompared, ended := false }
            repeatsServed := 0, repeatsRefused := 0, starves := 0, gaps := 0, answered := false
            outcome := none, detail := .none, endingState := .onHook, endUptime := 0 }
        jobs :=
          { u.jobs with
            progress := u.jobs.progress.set n { d with attempts := d.attempts + 1 }
            startInFlight := none, attemptInProgress := true, noRetry := e.noRetry, lineAtRest := false
            currentDest := some (n, d.attempts + 1), scanSigs := j.members.map fun _ => 1
            directoryFaults :=
              if e.corrected = true then min (u.jobs.directoryFaults + 1) 65535 else u.jobs.directoryFaults
            parkTimer := none }
        drum := u.drum.spin u.profile.drum u.now j.speed
        carriage := u.carriage.requestPosition u.now f.start
        scan :=
          { u.scan with
            frames := f :: frames, lastPair := none
            state :=
              if u.scan.state = .idle then (if u.profile.lampWarmUp = 0 then .ready else .warming) else u.scan.state
            lamp := if u.scan.state = .idle then true else u.scan.lamp
            warm :=
              if u.scan.state = .idle then
                (if u.profile.lampWarmUp = 0 then none else some (u.now + 100000 * u.profile.lampWarmUp))
              else u.scan.warm }
        line :=
          { u.line with
            state := .seizeWait, relay := true, sendLamp := true, active := true, grantsUsed := 0
            call :=
              some
                { dial := e.dial, frames := f :: frames, k := j.k, phasing := j.phasing, delay := j.delay
                  window := j.window }
            snapshot := some p, fBlack := fb, fWhite := fw
            pairDefaulted := decide (p.fWhite < p.fBlack + 200)
            hBlack := (4000000 + fb) / (2 * fb), hWhite := (4000000 + fw) / (2 * fw)
            hStart := (4000000 + p.fStart) / (2 * p.fStart), hStop := (4000000 + p.fStop) / (2 * p.fStop)
            seizeTimer := some (u.now + 1000 * p.seizeWait)
            loopTimer := if u.line.loop = true then none else some u.now
            toneDue := none
            monitor := { windowEnd := some (u.now + 40000), band := none, count := 0, recognised := false } } } := by
  rw [State.beginAttempt_eq hn hc hd he hl, ← hp, Line.called_eq u.now hpair, Job.callInfo, hframes,
    Scan.lampOn_eq _ _ _ hscan, updateAt_set _ _ _ d hd, Job.freshSigs, ← List.map_const']
  rfl

/-- Settles O37: the start of an attempt, and the words of a start that was abandoned. -/
theorem theDirectoryReadBeginsTheAttempt : Obligations.TheDirectoryReadBeginsTheAttempt := by
  refine ⟨fun s x n fb fw got rest j f frames d e p hawake hp hops hn hc hd hframes he hprofile hpair hscan hl => ?begins,
    fun s x got rest hreset hp hops => ?abandoned⟩
  case begins =>
    have hreset := State.awake_inReset hawake
    obtain ⟨h1, h2, h3, h4, -⟩ := s.noEvents_iff.1 (State.awake_noEvents hawake)
    have hdue : s.directoryDue = some true := by simp [State.directoryDue, Gate.controlOp_head hp hops, Op.atLast]
    have hexec : exec .directoryReadDone s = .next (finish s
        (State.beginAttempt (got ++ [s.mem.word x]) { s with gate := { s.gate with port := none, ops := rest } }).deliver) := by
      refine (show execDirectoryReadDone s = _ from live_awake _ s hreset).trans ?_
      simp only [hdue, State.controlStep_lastRead hops, State.wordsRead_lastRead hops]
    have hbegun := State.beginAttempt_begun (u := { s with gate := { s.gate with port := none, ops := rest } })
      hn hc hd hframes he hprofile hpair hscan hl
    have hnotDone : (if s.scan.state = .idle then
        (if s.profile.lampWarmUp = 0 then ScannerState.ready else .warming) else s.scan.state) ≠ .frameDone := by
      rcases hscan with h | h | h <;> simp [h]
      split <;> simp
    have hdelivered := State.deliver_started (t := State.beginAttempt (got ++ [s.mem.word x])
      { s with gate := { s.gate with port := none, ops := rest } })
      (by rw [hbegun]; exact (Carriage.requestPosition_truncation _ _ _).trans h2) (by rw [hbegun]; rfl)
      (by rw [hbegun]; exact hnotDone)
    rw [hdelivered] at hexec
    refine ⟨_, _, hexec, ?spun, ?positioned, ?state, State.takeCarriageFault_delivered _ _⟩
    case spun =>
      rw [hbegun]
      exact Drum.spin_spun _ _ _ _ h4
    case positioned =>
      rw [hbegun]
      exact Carriage.requestPosition_positioned _ _ _ h1
    case state =>
      rw [hbegun]
      rfl
  case abandoned =>
    have hdue : s.directoryDue = some false := by simp [State.directoryDue, Gate.controlOp_head hp hops, Op.atLast]
    refine ⟨_, show execDirectoryReadDone s = _ from live_awake _ s hreset, finish_ends_of ?_⟩
    simp only [hdue, State.controlStep_lastRead hops]

end Sys2Proof.Machine
end

section
/-! PROOFS. The printer: the characters of a slip, SLIP_BUSY and the paper (08_receipt_slips_and_the_desk_clock.md). -/

namespace Sys2Proof.Machine

/-! ## The character at the print cursor (R148) -/

theorem SlipUnit.cursorCode_of {u : SlipUnit} {p : Slip} {q : List Slip} {row : List Nat} {c : Nat}
    (hq : u.queue = p :: q) (hrow : (p.output u.reprinting)[u.cursorLine]? = some row)
    (hc : row[u.cursorChar]? = some c) : u.cursorCode = some c := by
  simp [SlipUnit.cursorCode, hq, hrow, hc]

/-- In PRINTING the character at the cursor begins, or waits for SLIP_BUSY. -/
theorem SlipUnit.startChar_printing {u : SlipUnit} {c : Nat} (t : Nat) (hp : u.printer = .printing)
    (htx : u.txd = none) (hc : u.cursorCode = some c) :
    u.startChar t =
      { u with
        begun := u.begun || !u.busy
        txd := if u.busy = true then none else some { code := BitVec.ofNat 7 c, start := t, orphan := false } } := by
  cases hb : u.busy with
  | true =>
    have hself : { u with txd := none, busy := true } = u := by rw [← htx, ← hb]
    simpa [SlipUnit.startChar, hb] using hself.symm
  | false => simp [SlipUnit.startChar, hp, htx, hb, hc]

theorem SlipUnit.startChar_at {u : SlipUnit} {p : Slip} {q : List Slip} {row : List Nat} {c : Nat} (t : Nat)
    (hp : u.printer = .printing) (htx : u.txd = none) (hq : u.queue = p :: q)
    (hrow : (p.output u.reprinting)[u.cursorLine]? = some row) (hc : row[u.cursorChar]? = some c) :
    u.startChar t =
      { u with
        begun := u.begun || !u.busy
        txd := if u.busy = true then none else some { code := BitVec.ofNat 7 c, start := t, orphan := false } } :=
  SlipUnit.startChar_printing t hp htx (SlipUnit.cursorCode_of hq hrow hc)

theorem SlipUnit.startChar_waits {u : SlipUnit} (t : Nat)
    (h : u.printer ≠ .printing ∨ u.txd ≠ none ∨ u.busy = true) : u.startChar t = u := by
  rw [SlipUnit.startChar, if_neg]
  rintro ⟨hp, htx, hb⟩
  rcases h with h | h | h
  · exact h hp
  · exact h htx
  · simp [hb] at h

/-! ## The cursor moves on (R148, R149) -/

section
variable {u : SlipUnit} {p : Slip} {q : List Slip} {row : List Nat} (t : Nat)

theorem SlipUnit.advanceCursor_char (hq : u.queue = p :: q)
    (hrow : (p.output u.reprinting)[u.cursorLine]? = some row) (h : u.cursorChar + 1 < row.length) :
    u.advanceCursor t = { u with cursorChar := u.cursorChar + 1 }.startChar t := by
  simp [SlipUnit.advanceCursor, hq, List.getD_eq_getElem?_getD, hrow, h]

theorem SlipUnit.advanceCursor_line (hq : u.queue = p :: q)
    (hrow : (p.output u.reprinting)[u.cursorLine]? = some row) (h : u.cursorChar + 1 = row.length)
    (hl : u.cursorLine + 1 < (p.output u.reprinting).length) :
    u.advanceCursor t = { u with cursorLine := u.cursorLine + 1, cursorChar := 0 }.startChar t := by
  simp [SlipUnit.advanceCursor, hq, List.getD_eq_getElem?_getD, hrow, h, hl]

theorem SlipUnit.advanceCursor_slip (hq : u.queue = p :: q)
    (hrow : (p.output u.reprinting)[u.cursorLine]? = some row) (h : u.cursorChar + 1 = row.length)
    (hl : u.cursorLine + 1 = (p.output u.reprinting).length) : u.advanceCursor t = u.slipDone t := by
  simp [SlipUnit.advanceCursor, hq, List.getD_eq_getElem?_getD, hrow, h, hl]

/-- With the printer IDLE and the line still, the head slip begins at its first character. -/
theorem SlipUnit.beginPrint_idle {c : Nat} {above : List Nat} (hp : u.printer = .idle) (hq : u.queue = p :: q)
    (htx : u.txd = none) (hout : (p.output false)[0]? = some (c :: above)) :
    u.beginPrint t =
      { u with
        printer := .printing, cursorLine := 0, cursorChar := 0, begun := !u.busy, reprinting := false
        txd := if u.busy = true then none else some { code := BitVec.ofNat 7 c, start := t, orphan := false } } := by
  rw [SlipUnit.beginPrint, if_pos ⟨hp, by simp [hq]⟩]
  exact SlipUnit.startChar_at t rfl htx hq hout rfl

end

/-! ## The end of a character, and the paper (R148 to R151) -/

/-- A command of the Slip Unit alone. -/
theorem State.slips_end {s : State} {x y : SlipUnit} (h : x = y) :
    State.Ends { s with slips := y } (finish s { s with slips := x }) := finish_ends_of (by rw [h])

theorem SlipUnit.charOver_of {u : SlipUnit} {ch : TxChar} {t : Nat} (htx : u.txd = some ch)
    (h : ch.start + 10000 ≤ t) : u.charOver t = true := by
  simp [SlipUnit.charOver, htx, txFrame, txBit, h]

theorem execSlipCharacterEnd_over {s : State} {ch : TxChar} (busy : Bool) (hreset : s.inReset = false)
    (htx : s.slips.txd = some ch) (h : ch.start + 10000 ≤ s.now) :
    exec (.slipCharacterEnd busy) s = .next (finish s { s with slips := s.slips.charEnd s.now busy }) := by
  refine (show execSlipCharacterEnd busy s = _ from ?_)
  rw [execSlipCharacterEnd, if_neg (by simp [hreset]), live_awake _ s hreset]
  simp [SlipUnit.charOver_of htx h, State.mapSlips, State.withSlips]

/-- Where no character ends, only SLIP_BUSY is noted. -/
theorem execSlipCharacterEnd_still {s : State} (busy : Bool) (hreset : s.inReset = false)
    (hnone : ∀ ch, s.slips.txd = some ch → s.now < ch.start + 10000) :
    exec (.slipCharacterEnd busy) s =
      .next (finish s { s with slips := { s.slips with busy := s.slips.busy || busy } }) := by
  have hover : s.slips.charOver s.now = false := by
    cases htx : s.slips.txd with
    | none => simp [SlipUnit.charOver, htx]
    | some ch => simp [SlipUnit.charOver, htx, txFrame, txBit, Nat.not_le.mpr (hnone ch htx)]
  refine (show execSlipCharacterEnd busy s = _ from ?_)
  rw [execSlipCharacterEnd, if_neg (by simp [hreset]), live_awake _ s hreset]
  simp [hover, State.mapSlips, State.withSlips, SlipUnit.noteBusy]

/-- A character that counts takes the cursor on. -/
theorem SlipUnit.charEnd_counts {u : SlipUnit} {ch : TxChar} (t : Nat) (busy : Bool) (htx : u.txd = some ch)
    (ho : ch.orphan = false) (hp : u.printer = .printing) :
    u.charEnd t busy = { u with txd := none, busy := busy }.advanceCursor t := by
  simp [SlipUnit.charEnd, htx, ho, hp]

theorem SlipUnit.charEnd_orphan {u : SlipUnit} {ch : TxChar} (t : Nat) (busy : Bool) (htx : u.txd = some ch)
    (ho : ch.orphan = true) : u.charEnd t busy = { u with txd := none, busy := busy }.startChar t := by
  simp [SlipUnit.charEnd, htx, ho]

theorem State.mapSlips_deliver {s : State} (f : SlipUnit → SlipUnit) (h : s.noEvents = true) :
    (s.mapSlips f).deliver = { s with slips := f s.slips } := State.deliver_like h rfl rfl

theorem execSlipBusyRelease_due {s : State} (hreset : s.inReset = false) (hev : s.noEvents = true) (hbusy : s.slips.busy = true) :
    exec .slipBusyRelease s =
      .next (finish s { s with slips := ({ s.slips with busy := false } : SlipUnit).startChar s.now }) := by
  refine (show execSlipBusyRelease s = _ from whenLevel_due _ _ _ s hreset hbusy).trans ?_
  rw [State.mapSlips_deliver _ hev]
  rfl

theorem execPaperReturnExpiry_due {s : State} {u : Nat} (hreset : s.inReset = false)
    (hp : s.slips.printer = .paperOut) (ht : s.slips.paperTimer = some u) (h : u + 1000000 ≤ s.now) :
    exec .paperReturnExpiry s = .next (finish s { s with slips := s.slips.paperReturned s.now }) := by
  refine (show execPaperReturnExpiry s = _ from when_due _ _ s hreset ?_)
  simp [hp, hasRun_of_exists ⟨u, ht, h⟩]

theorem SlipUnit.paperReturned_queued {u : SlipUnit} (t : Nat) (h : u.queue ≠ []) :
    u.paperReturned t =
      ({ u with
          paperTimer := none, printer := .printing, cursorLine := 0, cursorChar := 0, reprinting := u.begun
          reprints := if u.begun = true then min (u.reprints + 1) 65535 else u.reprints } : SlipUnit).startChar t := by
  simp [SlipUnit.paperReturned, h, satInc, satAdd]

/-- A reprint begins with the R of its REPRINT line. -/
theorem Slip.output_reprint (p : Slip) : ∃ above, (p.output true)[0]? = some (82 :: above) := ⟨_, rfl⟩

/-- Settles O40: character by character, SLIP_BUSY, and the paper out and back. -/
theorem slipCharactersAndPaper : Obligations.SlipCharactersAndPaper := by
  refine ⟨fun s ch p q row hreset hq => ⟨fun htx hdue horphan hprinting hrow => ?counts,
    fun busy htx hdue horphan => ?orphan, fun c hev hbusy hprinting htx hrow hc => ?released⟩,
    fun s busy hreset hnone => ?noEnd, fun s hawake hstill => ?stillHeld, fun s hawake => ?paper⟩
  case counts =>
    have hend := fun busy => (execSlipCharacterEnd_over busy hreset htx hdue).trans
      (by rw [SlipUnit.charEnd_counts s.now busy htx horphan hprinting])
    refine ⟨fun c busy hc => ⟨_, hend busy, State.slips_end ?_⟩, fun c below busy hlast hnext => ⟨_, hend busy, State.slips_end ?_⟩,
      fun busy hlast hend' hq' => ⟨_, hend busy, State.slips_end ?_⟩,
      fun busy next rest c above hlast hend' hq' hout => ⟨_, hend busy, State.slips_end ?_⟩⟩
    · rw [SlipUnit.advanceCursor_char (u := { s.slips with txd := none, busy := busy }) _ hq hrow
          (List.getElem?_eq_some_iff.mp hc).1]
      exact SlipUnit.startChar_at _ hprinting rfl hq hrow hc
    · rw [SlipUnit.advanceCursor_line (u := { s.slips with txd := none, busy := busy }) _ hq hrow hlast
          (List.getElem?_eq_some_iff.mp hnext).1]
      exact SlipUnit.startChar_at _ hprinting rfl hq hnext rfl
    · rw [SlipUnit.advanceCursor_slip (u := { s.slips with txd := none, busy := busy }) _ hq hrow hlast hend']
      simp [SlipUnit.slipDone, SlipUnit.beginPrint, hq, hq']
    · rw [SlipUnit.advanceCursor_slip (u := { s.slips with txd := none, busy := busy }) _ hq hrow hlast hend',
        SlipUnit.slipDone, SlipUnit.beginPrint_idle (p := next) (q := rest) _ rfl (by simp [hq, hq']) rfl hout]
      simp [hq, hq']
  case orphan =>
    have hend := (execSlipCharacterEnd_over busy hreset htx hdue).trans
      (by rw [SlipUnit.charEnd_orphan s.now busy htx horphan])
    refine ⟨fun hout => ⟨_, hend, State.slips_end ?_⟩, fun c hprinting hrow hc => ⟨_, hend, State.slips_end ?_⟩⟩
    · rw [SlipUnit.startChar_waits _ (.inl (by simp [hout]))]
    · exact SlipUnit.startChar_at _ hprinting rfl hq hrow hc
  case released =>
    refine ⟨_, execSlipBusyRelease_due hreset hev hbusy, State.slips_end ?_⟩
    exact (SlipUnit.startChar_at (u := { s.slips with busy := false }) _ hprinting htx hq hrow hc).trans (by simp)
  case noEnd =>
    exact ⟨_, execSlipCharacterEnd_still busy hreset hnone, finish_ends _ _⟩
  case stillHeld =>
    have hreset := State.awake_inReset hawake
    have hev := State.awake_noEvents hawake
    cases hbusy : s.slips.busy with
    | false =>
      have hself : { s with slips := { s.slips with busy := false } } = s := by rw [← hbusy]
      rw [hself]
      refine ⟨finish s s, (show execSlipBusyRelease s = _ from ?_), finish_ends _ _⟩
      rw [execSlipBusyRelease, whenLevel, if_neg (by simp [hreset])]
      exact whenDeliver_idle _ _ s hreset hbusy
    | true =>
      refine ⟨_, execSlipBusyRelease_due hreset hev hbusy, State.slips_end (SlipUnit.startChar_waits _ ?_)⟩
      simpa [hbusy] using hstill
  case paper =>
    have hreset := State.awake_inReset hawake
    have hev := State.awake_noEvents hawake
    refine ⟨fun hpaper => ?_, fun hpaper hout => ?_, fun u hout htimer hdue => ?_⟩
    · refine ⟨_, show execPaperOut s = _ from whenLevel_due _ _ _ s hreset hpaper, finish_ends_of ?_⟩
      rw [State.mapSlips_deliver _ hev]
      rfl
    · refine ⟨_, show execPaperPresent s = _ from whenLevel_due _ _ _ s hreset (by simp [hpaper]), finish_ends_of ?_⟩
      rw [State.mapSlips_deliver _ hev]
      simp [hout]
    · have hexec := execPaperReturnExpiry_due hreset hout htimer hdue
      refine ⟨fun hq => ⟨_, hexec, finish_ends_of (by simp [SlipUnit.paperReturned, hq])⟩, fun p q hq => ?_⟩
      rw [SlipUnit.paperReturned_queued _ (by simp [hq])] at hexec
      refine ⟨fun hheld => ⟨_, hexec, State.slips_end ?_⟩,
        fun c above hfree htx hbegun hrow => ⟨_, hexec, State.slips_end ?_⟩,
        fun hfree htx hbegun => ⟨_, hexec, State.slips_end ?_⟩⟩
      · exact SlipUnit.startChar_waits _ (.inr hheld.symm)
      · refine (SlipUnit.startChar_at (c := c) _ rfl (by exact htx) (by exact hq) (by rw [hbegun]; exact hrow) rfl).trans ?_
        simp [hfree, hbegun]
      · obtain ⟨above, habove⟩ := p.output_reprint
        refine (SlipUnit.startChar_at (c := 82) _ rfl (by exact htx) (by exact hq) (by rw [hbegun]; exact habove) rfl).trans ?_
        simp [hfree, hbegun]

end Sys2Proof.Machine
end

section
/-! PROOFS. The text of a slip and its Slip Log record (08_receipt_slips_and_the_desk_clock.md, The slip text, Taking an
Attempt Record, The Slip Log). -/

namespace Sys2Proof.Machine

/-! ## Numerals (R145) -/

/-- The value of one digit. -/
def digitValue (c : Nat) : Nat := if c < 58 then c - 48 else c - 55

theorem numeralValue_append (base : Nat) (cs : List Nat) (c : Nat) :
    numeralValue base (cs ++ [c]) = base * numeralValue base cs + digitValue c := by
  simp [numeralValue, digitValue]

theorem digits_succ (base width n : Nat) :
    digits base (width + 1) n = digits base width (n / base) ++ [digitCode (n % base)] := by
  simp only [digits, List.range_succ, List.map_append, List.map_cons, List.map_nil]
  congr 1
  · refine List.map_congr_left fun i hi => ?_
    have hi := List.mem_range.mp hi
    rw [Nat.div_div_eq_div_mul, ← Nat.pow_succ', show width + 1 - 1 - i = (width - 1 - i).succ by omega]
  · simp

/-- A digit as the text shows it. -/
def IsDigit (base c : Nat) : Prop := (48 ≤ c ∧ c ≤ 57) ∨ (base = 16 ∧ 65 ≤ c ∧ c ≤ 70)

theorem IsDigit.code {base c : Nat} (h : IsDigit base c) (hb : base = 10 ∨ base = 16) :
    digitCode (digitValue c) = c ∧ digitValue c < base := by
  unfold IsDigit at h
  unfold digitCode digitValue
  constructor <;> split_ifs <;> omega

/-- The digits of the value of a row of digits are the row. -/
theorem digits_numeralValue {base : Nat} (hb : base = 10 ∨ base = 16) (cs : List Nat) (h : ∀ c ∈ cs, IsDigit base c) :
    digits base cs.length (numeralValue base cs) = cs := by
  induction cs using List.reverseRecOn with
  | nil => rfl
  | append_singleton cs c ih =>
    obtain ⟨hcode, hlt⟩ := (h c (by simp)).code hb
    have hrest := ih fun x hx => h x (by simp [hx])
    rw [List.length_append, List.length_singleton, digits_succ, numeralValue_append,
      Nat.mul_add_div (by omega), Nat.div_eq_of_lt hlt, Nat.add_zero, hrest, Nat.mul_add_mod, Nat.mod_eq_of_lt hlt, hcode]

theorem Numeral.digits_eq {base width n : Nat} {cs : List Nat} (h : Numeral base width n cs)
    (hb : base = 10 ∨ base = 16) : digits base width n = cs := by
  obtain ⟨rfl, hdigit, rfl⟩ := h
  exact digits_numeralValue hb cs hdigit

@[simp] theorem digits_length (base width n : Nat) : (digits base width n).length = width := by simp [digits]

/-! ## Lines of 24 characters -/

theorem fill24_length (cs : List Nat) : (fill24 cs).length = 24 := by simp [fill24]

/-- A line that fits is followed by spaces. -/
theorem fill24_fits {cs : List Nat} (n : Nat) (h : cs.length + n = 24) : fill24 cs = cs ++ List.replicate n 32 := by
  rw [fill24, List.take_append, List.take_of_length_le (by omega), List.take_replicate]
  congr 2
  omega

theorem fill24_of_length {cs : List Nat} (h : cs.length = 24) : fill24 cs = cs := by
  rw [fill24_fits 0 (by omega)]
  simp

/-! ## Characters that print -/

/-- A row of characters within 32 to 126. -/
def Prints (cs : List Nat) : Prop := ∀ c ∈ cs, 32 ≤ c ∧ c ≤ 126

theorem prints_append {as bs : List Nat} : Prints (as ++ bs) ↔ Prints as ∧ Prints bs := List.forall_mem_append

theorem prints_fill24 {cs : List Nat} (h : Prints cs) : Prints (fill24 cs) := fun c hc => by
  rcases List.mem_append.mp (List.mem_of_mem_take hc) with hc | hc
  · exact h c hc
  · simp [List.eq_of_mem_replicate hc]

theorem prints_digits {base : Nat} (hb : base = 10 ∨ base = 16) (width n : Nat) : Prints (digits base width n) := by
  intro c hc
  obtain ⟨i, -, rfl⟩ := List.mem_map.mp hc
  have hlt : n / base ^ (width - 1 - i) % base < base := Nat.mod_lt _ (by omega)
  unfold digitCode
  split_ifs <;> omega

theorem prints_printable (name : List Nat) : Prints (name.map printable) := by
  intro c hc
  obtain ⟨x, -, rfl⟩ := List.mem_map.mp hc
  unfold printable
  split_ifs <;> omega

/-- A row of fixed characters prints. -/
theorem prints_of {cs : List Nat} (h : cs.all (fun c => decide (32 ≤ c ∧ c ≤ 126)) = true) : Prints cs := fun c hc =>
  of_decide_eq_true (List.all_eq_true.mp h c hc)

theorem prints_time (c : TimeOfDay) : Prints c.text := by
  simp only [TimeOfDay.text, prints_append]
  exact ⟨⟨⟨⟨prints_digits (.inl rfl) _ _, prints_of rfl⟩, prints_digits (.inl rfl) _ _⟩, prints_of rfl⟩,
    prints_digits (.inl rfl) _ _⟩

theorem Slip.prints_seqLine (p : Slip) : Prints p.seqLine := by
  simp only [Slip.seqLine, prints_append]
  refine ⟨⟨⟨⟨prints_of rfl, prints_digits (.inl rfl) _ _⟩, prints_of rfl⟩, prints_time _⟩, ?_⟩
  split
  · exact prints_of rfl
  · exact prints_of rfl

theorem Slip.prints_toLine (p : Slip) : Prints p.toLine := by
  simp only [Slip.toLine, prints_append]
  exact ⟨⟨⟨prints_of rfl, prints_printable _⟩, prints_of rfl⟩, prints_digits (.inl rfl) _ _⟩

theorem prints_frameLine (caption : Nat) (e : FrameEntry) : Prints (frameLine caption e) := by
  simp only [frameLine, prints_append]
  refine ⟨⟨⟨⟨⟨⟨prints_of rfl, prints_digits (.inl rfl) _ _⟩, prints_of rfl⟩, prints_digits (.inl rfl) _ _⟩, prints_of rfl⟩,
    prints_digits (.inr rfl) _ _⟩, ?_⟩
  split
  · exact prints_of rfl
  · exact prints_of rfl

theorem Slip.prints_durLine (p : Slip) : Prints p.durLine := by
  simp only [Slip.durLine, durationText, prints_append]
  exact ⟨⟨⟨⟨⟨prints_of rfl, ⟨prints_digits (.inl rfl) _ _, prints_of rfl⟩, prints_digits (.inl rfl) _ _⟩, prints_of rfl⟩,
    prints_digits (.inl rfl) _ _⟩, prints_of rfl⟩, prints_digits (.inl rfl) _ _⟩

theorem prints_outcomeText (o : Option AttemptOutcome) (d : Detail) : Prints (text (outcomeText o d)) := by
  cases o with
  | none => exact prints_of rfl
  | some o => cases o <;> cases d <;> exact prints_of rfl

/-! ## The lines of a slip (R145, R146) -/

/-- The lines between the header and the duration, one for each frame. -/
def Slip.frameLines (p : Slip) : List (List Nat) :=
  (p.record.captions.zip p.record.frames).map fun x => fill24 (frameLine x.1 x.2)

theorem Slip.lines_eq (p : Slip) :
    p.lines = fill24 p.header :: fill24 p.seqLine :: fill24 p.toLine :: (p.frameLines ++
      [fill24 p.durLine, fill24 (text (outcomeText p.record.outcome p.record.detail))]) := by
  simp [Slip.lines, Slip.frameLines]

theorem Slip.frameLines_length (p : Slip) :
    p.frameLines.length = min p.record.captions.length p.record.frames.length := by
  simp [Slip.frameLines]

theorem Slip.lines_length (p : Slip) :
    p.lines.length = 5 + min p.record.captions.length p.record.frames.length := by
  simp only [p.lines_eq, List.length_cons, List.length_append, p.frameLines_length, List.length_nil]
  omega

theorem Slip.lines_prints {p : Slip} (h : Prints p.header) {line : List Nat} (hl : line ∈ p.lines) : Prints line := by
  simp only [p.lines_eq, List.mem_cons, List.mem_append, List.not_mem_nil, or_false] at hl
  rcases hl with rfl | rfl | rfl | hl | rfl | rfl
  · exact prints_fill24 h
  · exact prints_fill24 p.prints_seqLine
  · exact prints_fill24 p.prints_toLine
  · obtain ⟨x, -, rfl⟩ := List.mem_map.mp hl
    exact prints_fill24 (prints_frameLine _ _)
  · exact prints_fill24 p.prints_durLine
  · exact prints_fill24 (prints_outcomeText _ _)

theorem Slip.lines_frame {p : Slip} {f caption : Nat} {e : FrameEntry} (hc : p.record.captions[f]? = some caption)
    (he : p.record.frames[f]? = some e) : p.lines[3 + f]? = some (fill24 (frameLine caption e)) := by
  have hzip : (p.record.captions.zip p.record.frames)[f]? = some (caption, e) := by
    rw [List.getElem?_zip_eq_some]
    exact ⟨hc, he⟩
  have hlt : f < p.frameLines.length := by
    obtain ⟨h1, -⟩ := List.getElem?_eq_some_iff.mp hc
    obtain ⟨h2, -⟩ := List.getElem?_eq_some_iff.mp he
    rw [p.frameLines_length]
    omega
  rw [p.lines_eq, show 3 + f = f + 1 + 1 + 1 by omega, List.getElem?_cons_succ, List.getElem?_cons_succ,
    List.getElem?_cons_succ, List.getElem?_append_left hlt, Slip.frameLines, List.getElem?_map, hzip]
  rfl

theorem Slip.lines_duration (p : Slip) : p.lines[p.lines.length - 2]? = some (fill24 p.durLine) := by
  have hlen : p.lines.length - 2 = p.frameLines.length + 3 := by
    rw [p.lines_length, p.frameLines_length]
    omega
  rw [hlen, p.lines_eq]
  simp

theorem Slip.lines_outcome (p : Slip) :
    p.lines.getLast? = some (fill24 (text (outcomeText p.record.outcome p.record.detail))) := by
  rw [Slip.lines, List.getLast?_map, List.getLast?_append]
  rfl

theorem fill24_seqLine {p : Slip} {seq h m s : List Nat} (hseq : Numeral 10 5 p.seq seq)
    (hh : Numeral 10 2 p.record.startTime.hours h) (hm : Numeral 10 2 p.record.startTime.minutes m)
    (hs : Numeral 10 2 p.record.startTime.seconds s) :
    fill24 p.seqLine = text "SEQ " ++ seq ++ text " " ++ h ++ text ":" ++ m ++ text ":" ++ s ++
      text (if p.record.startTime.isSet = true then "      " else " UNSET") := by
  have hline : p.seqLine = text "SEQ " ++ seq ++ text " " ++ h ++ text ":" ++ m ++ text ":" ++ s ++
      (if p.record.startTime.isSet = true then [] else text " UNSET") := by
    rw [Slip.seqLine, TimeOfDay.text, hseq.digits_eq (.inl rfl), hh.digits_eq (.inl rfl), hm.digits_eq (.inl rfl),
      hs.digits_eq (.inl rfl)]
    simp only [List.append_assoc]
    rfl
  have hfour : (text "SEQ ").length = 4 := rfl
  have hone : (text " ").length = 1 := rfl
  have hcolon : (text ":").length = 1 := rfl
  have hmark : (text " UNSET").length = 6 := rfl
  cases hset : p.record.startTime.isSet with
  | true =>
    rw [fill24_fits 6 (by simp [hline, hset, hseq.length, hh.length, hm.length, hs.length, hfour, hone, hcolon]), hline]
    simp only [hset, if_true, List.append_nil]
    rfl
  | false =>
    rw [fill24_of_length (by simp [hline, hset, hseq.length, hh.length, hm.length, hs.length, hfour, hone, hcolon, hmark]),
      hline]
    simp [hset]

theorem fill24_toLine {p : Slip} {n : List Nat} (hname : p.record.name.length = 12)
    (hn : Numeral 10 1 p.record.attemptNo n) :
    fill24 p.toLine =
      text "TO " ++ (p.record.name.map fun c => if 32 ≤ c ∧ c ≤ 126 then c else 63) ++ text " TRY " ++ n ++ text "   " := by
  have hline : p.toLine =
      text "TO " ++ (p.record.name.map fun c => if 32 ≤ c ∧ c ≤ 126 then c else 63) ++ text " TRY " ++ n := by
    rw [Slip.toLine, hn.digits_eq (.inl rfl)]
    rfl
  have hto : (text "TO ").length = 3 := rfl
  have htry : (text " TRY ").length = 5 := rfl
  rw [fill24_fits 3 (by simp [hline, hname, hn.length, hto, htry]), hline]
  rfl

theorem fill24_frameLine {caption : Nat} {e : FrameEntry} {cs ls xs : List Nat} (hc : Numeral 10 8 caption cs)
    (hl : Numeral 10 4 e.firstSent ls) (hx : Numeral 16 4 e.sig.toNat xs) :
    fill24 (frameLine caption e) =
      text "C" ++ cs ++ text " L" ++ ls ++ text " S" ++ xs ++ text (if e.check = .mismatch then "!  " else "   ") := by
  have hline : frameLine caption e =
      text "C" ++ cs ++ text " L" ++ ls ++ text " S" ++ xs ++ (if e.check = .mismatch then [33] else []) := by
    rw [frameLine, hc.digits_eq (.inl rfl), hl.digits_eq (.inl rfl), hx.digits_eq (.inr rfl)]
    rfl
  have hC : (text "C").length = 1 := rfl
  have hL : (text " L").length = 2 := rfl
  have hS : (text " S").length = 2 := rfl
  by_cases hcheck : e.check = .mismatch
  · rw [fill24_fits 2 (by simp [hline, hcheck, hc.length, hl.length, hx.length, hC, hL, hS]), hline]
    simp only [hcheck, if_true, List.append_assoc]
    rfl
  · rw [fill24_fits 3 (by simp [hline, hcheck, hc.length, hl.length, hx.length, hC, hL, hS]), hline]
    simp only [hcheck, if_false, List.append_nil]
    rfl

theorem fill24_durLine {p : Slip} {d : Nat} {m s x y : List Nat}
    (hd : d = min (p.record.endUptime - p.record.startUptime) 59999) (hm : Numeral 10 3 (d / 60) m)
    (hs : Numeral 10 2 (d % 60) s) (hx : Numeral 10 2 (min p.record.repeatsServed 99) x)
    (hy : Numeral 10 2 (min p.record.repeatsRefused 99) y) :
    fill24 p.durLine = text "DUR " ++ m ++ text ":" ++ s ++ text " RPT " ++ x ++ text "/" ++ y ++ text "    " := by
  have hline : p.durLine = text "DUR " ++ m ++ text ":" ++ s ++ text " RPT " ++ x ++ text "/" ++ y := by
    rw [Slip.durLine, durationText, ← hd, hm.digits_eq (.inl rfl), hs.digits_eq (.inl rfl), hx.digits_eq (.inl rfl),
      hy.digits_eq (.inl rfl)]
    simp only [List.append_assoc]
    rfl
  have hdur : (text "DUR ").length = 4 := rfl
  have hcolon : (text ":").length = 1 := rfl
  have hrpt : (text " RPT ").length = 5 := rfl
  have hslash : (text "/").length = 1 := rfl
  rw [fill24_fits 4 (by simp [hline, hm.length, hs.length, hx.length, hy.length, hdur, hcolon, hrpt, hslash]), hline]
  rfl

/-- The words of each outcome fit a line. -/
theorem outcomeText_fits (o : Option AttemptOutcome) (d : Detail) : (text (outcomeText o d)).length ≤ 24 := by
  cases o with
  | none => exact Nat.zero_le 24
  | some o => cases o <;> cases d <;> decide

/-- What goes out for a first printing, and for a reprint (R147, R151). -/
theorem Slip.output_eq (p : Slip) :
    p.output false = (p.lines.map fun line => line ++ [13, 10]) ++ [[10], [10], [10]] ∧
    p.output true = (text "REPRINT" ++ List.replicate 17 32 ++ [13, 10]) :: p.output false := ⟨rfl, rfl⟩

/-- Settles O41: the lines of a slip one by one, their length and characters, and what goes out. -/
theorem theTextOfASlip : Obligations.TheTextOfASlip := by
  rintro p _ rfl
  refine ⟨fun line hl => ⟨?length, fun h => p.lines_prints h hl⟩, p.lines_length, fun h => ?header,
    fun seq h m s hseq hh hm hs => ?seq, fun n hname hn => ?name, fun f caption e cs ls xs hc he hcs hls hxs => ?frame,
    fun d m s x y hd hm hs hx hy => ?duration, fun o d words ho hd hmem => ?outcome, p.output_eq.1, p.output_eq.2⟩
  case length =>
    obtain ⟨cs, -, rfl⟩ := List.mem_map.mp hl
    exact fill24_length cs
  case header => rw [p.lines_eq, List.getElem?_cons_zero, fill24_of_length h]
  case seq =>
    rw [p.lines_eq, List.getElem?_cons_succ, List.getElem?_cons_zero, fill24_seqLine hseq hh hm hs]
  case name =>
    rw [p.lines_eq, List.getElem?_cons_succ, List.getElem?_cons_succ, List.getElem?_cons_zero, fill24_toLine hname hn]
  case frame => rw [Slip.lines_frame hc he, fill24_frameLine hcs hls hxs]
  case duration => rw [p.lines_duration, fill24_durLine hd hm hs hx hy]
  case outcome =>
    have hwords : words = outcomeText p.record.outcome p.record.detail := by
      rw [ho]
      simp only [List.mem_cons, Prod.mk.injEq, List.not_mem_nil, or_false] at hmem
      rcases hd with rfl | rfl
      · simp at hmem
        rcases hmem with h | h | h | h | h | h | h | h <;> obtain ⟨rfl, rfl⟩ := h <;> rfl
      · simp at hmem
        rcases hmem with h | h | h | h | h | h | h | h | h <;> obtain ⟨rfl, hdet, rfl⟩ := h <;> rw [hdet] <;> rfl
    rw [p.lines_outcome, hwords,
      fill24_fits (24 - (text (outcomeText p.record.outcome p.record.detail)).length)
        (Nat.add_sub_of_le (outcomeText_fits _ _))]
    exact ⟨_, fun c hc => List.eq_of_mem_replicate hc, rfl⟩

/-! ## The fields of a word (12_memory_formats.md, Unused fields and narrow fields) -/

theorem fromBytes_toNat (a b c d : Nat) :
    (fromBytes a b c d).toNat = min a 255 + 256 * min b 255 + 65536 * min c 255 + 16777216 * min d 255 := by
  simp only [fromBytes, BitVec.toNat_ofNat]
  omega

theorem fromHalves_toNat (lo hi : Nat) : (fromHalves lo hi).toNat = min lo 65535 + 65536 * min hi 65535 := by
  simp only [fromHalves, BitVec.toNat_ofNat]
  omega

theorem fromHalfBytes_toNat (lo b2 b3 : Nat) :
    (fromHalfBytes lo b2 b3).toNat = min lo 65535 + 65536 * min b2 255 + 16777216 * min b3 255 := by
  simp only [fromHalfBytes, BitVec.toNat_ofNat]
  omega

theorem fromBytesHalf_toNat (b0 b1 hi : Nat) :
    (fromBytesHalf b0 b1 hi).toNat = min b0 255 + 256 * min b1 255 + 65536 * min hi 65535 := by
  simp only [fromBytesHalf, BitVec.toNat_ofNat]
  omega

theorem min_bitOf (b : Bool) : min (bitOf b) 255 = if b = true then 1 else 0 := by cases b <;> rfl

theorem min_eq_of_le {a n : Nat} (h : a ≤ n) : min a n = a := Nat.min_eq_left h

/-! ## The words of a Slip Log record (R144) -/

theorem Slip.logWords_caption (p : Slip) {f : Nat} (h : f < 8) :
    p.logWords.getD (8 + f) 0 = captionWord p.record f := by interval_cases f <;> rfl

theorem Slip.logWords_lines (p : Slip) {f : Nat} (h : f < 8) :
    p.logWords.getD (16 + f) 0 = linesWord p.record f := by interval_cases f <;> rfl

theorem Slip.logWords_sig (p : Slip) {i : Nat} (h : i < 4) :
    p.logWords.getD (24 + i) 0 = sigWord p.record.frames i := by interval_cases i <;> rfl

theorem Slip.logWords_name (p : Slip) {i : Nat} (h : i < 3) :
    p.logWords.getD (2 + i) 0 = nameWord p.record.name i := by interval_cases i <;> rfl

theorem SigCheck.code_eq (c : SigCheck) : c.code = if c = .isMatch then 1 else if c = .mismatch then 2 else 0 := by
  cases c <;> rfl

/-- A field of a frame is bounded by its bound on every entry. -/
theorem frameField_le {α : Type} {g : α → Nat} {n : Nat} (h : ∀ e, g e ≤ n) (l : List α) (f : Nat) :
    frameField g l f ≤ n := by
  unfold frameField
  cases l[f]? with
  | none => simp
  | some e => simpa using h e

theorem frameField_caption (l : List Nat) (f : Nat) :
    frameField (fun c => c % 2 ^ 27) l f = l.getD f 0 % 134217728 := by
  rw [List.getD_eq_getElem?_getD, frameField]
  cases l[f]? <;> rfl

theorem captionWord_toNat (r : AttemptRecord) (f : Nat) :
    (captionWord r f).toNat =
      frameField (fun c => c % 2 ^ 27) r.captions f + 268435456 * frameField (fun e => e.check.code) r.frames f := by
  have hc : frameField (fun c => c % 2 ^ 27) r.captions f ≤ 134217727 := frameField_le (fun c => by omega) _ _
  have hk : frameField (fun e : FrameEntry => e.check.code) r.frames f ≤ 2 :=
    frameField_le (fun e => by cases e.check <;> decide) _ _
  simp only [captionWord, BitVec.toNat_ofNat]
  omega

theorem linesWord_toNat (r : AttemptRecord) (f : Nat) :
    (linesWord r f).toNat =
      frameField (fun e => min e.firstSent 4095) r.frames f + 65536 * frameField (fun e => min e.short 4095) r.frames f := by
  have h1 : frameField (fun e : FrameEntry => min e.firstSent 4095) r.frames f ≤ 4095 :=
    frameField_le (fun e => Nat.min_le_right _ _) _ _
  have h2 : frameField (fun e : FrameEntry => min e.short 4095) r.frames f ≤ 4095 :=
    frameField_le (fun e => Nat.min_le_right _ _) _ _
  simp only [linesWord, BitVec.toNat_ofNat]
  omega

theorem sigWord_toNat (l : List FrameEntry) (i : Nat) :
    (sigWord l i).toNat =
      frameField (fun e => e.sig.toNat) l (2 * i) + 65536 * frameField (fun e => e.sig.toNat) l (2 * i + 1) := by
  have hsig : ∀ f, frameField (fun e : FrameEntry => e.sig.toNat) l f ≤ 65535 := fun f =>
    frameField_le (fun e => Nat.le_of_lt_succ e.sig.isLt) _ _
  rw [sigWord, fromHalves_toNat, min_eq_of_le (hsig _), min_eq_of_le (hsig _)]

theorem min_getD_map {α : Type} (g : α → Nat) (l : List α) (f n : Nat) :
    frameField (fun e => min (g e) n) l f = min ((l[f]?.map g).getD 0) n := by
  unfold frameField
  cases l[f]? <;> simp

/-- The codes of Memory Formats fit a byte. -/
theorem AttemptOutcome.code_le (o : AttemptOutcome) : o.code ≤ 255 := by cases o <;> decide
theorem Detail.code_le (d : Detail) : d.code ≤ 255 := by cases d <;> decide
theorem LineState.code_le (x : LineState) : x.code ≤ 255 := by cases x <;> decide

/-! ## Taking an Attempt Record (R142 to R144) -/

theorem wordsFrom_eq_mapIdx (addr : Nat) (ws : List Word) :
    wordsFrom addr ws = ws.mapIdx fun i x => { addr := addr + 4 * i, be := 15, data := x } := by
  refine List.ext_getElem? fun i => ?_
  rw [wordsFrom_getElem?, List.getElem?_mapIdx]
  rfl

/-- The unit once the slip has its number and its record its place in the log write list. -/
def SlipUnit.numbered (log : Option (Nat × Nat)) (p : Slip) (u : SlipUnit) : SlipUnit :=
  { u with
    nextSeq := if u.nextSeq < 65535 then u.nextSeq + 1 else 1, lastComposed := u.nextSeq
    logList :=
      match log with
      | some (base, _) =>
        u.logList ++
          [{ seq := u.nextSeq
             todo := p.logWords.mapIdx fun i x => { addr := base + 128 * u.logIndex + 4 * i, be := 15, data := x } }]
      | none => u.logList
    logIndex :=
      match log with
      | some (_, count) => if u.logIndex + 1 < count then u.logIndex + 1 else 0
      | none => u.logIndex }

theorem SlipUnit.compose_full {u : SlipUnit} (t : Nat) (log : Option (Nat × Nat)) (header : List Nat)
    (r : AttemptRecord) (h : 8 ≤ u.logList.length) :
    u.compose t log header r = { u with lost := min (u.lost + 1) 65535 } := by
  simp [SlipUnit.compose, h, satInc, satAdd]

theorem SlipUnit.compose_numbered {u : SlipUnit} (t : Nat) (log : Option (Nat × Nat)) (header : List Nat)
    (r : AttemptRecord) (h : u.logList.length < 8) :
    u.compose t log header r = (u.numbered log (u.slipOf header r)).place t (u.slipOf header r) := by
  rw [SlipUnit.compose, if_neg (Nat.not_le.mpr h)]
  cases log with
  | none => rfl
  | some l =>
    refine congrArg (SlipUnit.place t _) ?_
    simp only [SlipUnit.numbered, SlipUnit.logSlip, wordsFrom_eq_mapIdx]
    rfl

theorem SlipUnit.place_full {u : SlipUnit} {p : Slip} (t : Nat) (h : p.flag = .notPrinted) :
    u.place t p = { u with unprinted := min (u.unprinted + 1) 65535 } := by
  simp [SlipUnit.place, h, satInc, satAdd]

theorem SlipUnit.place_waits {u : SlipUnit} {p : Slip} (t : Nat) (h : p.flag = .printPending) (hp : u.printer ≠ .idle) :
    u.place t p = { u with queue := u.queue ++ [p] } := by
  simp [SlipUnit.place, h, SlipUnit.beginPrint, hp]

theorem SlipUnit.place_prints {u : SlipUnit} {p : Slip} {c : Nat} {above : List Nat} (t : Nat)
    (h : p.flag = .printPending) (hq : u.queue = []) (hp : u.printer = .idle) (htx : u.txd = none)
    (hout : (p.output false)[0]? = some (c :: above)) :
    u.place t p =
      { u with
        queue := [p], printer := .printing, cursorLine := 0, cursorChar := 0, begun := !u.busy, reprinting := false
        txd := if u.busy = true then none else some { code := BitVec.ofNat 7 c, start := t, orphan := false } } := by
  rw [SlipUnit.place, if_pos h, hq, List.nil_append]
  exact SlipUnit.beginPrint_idle t hp rfl htx hout

/-- Settles O42: the words of a record, the codes in them, and the composition of a slip. -/
theorem theSlipLogRecord : Obligations.TheSlipLogRecord := by
  refine ⟨?words, ⟨rfl, rfl, rfl⟩, ?compose⟩
  case words =>
    rintro p _ _ caption firstSent short sig check _ rfl rfl rfl hcaption hfirst hshort hsig hcheck
    refine ⟨rfl, ?w0, ?w1, fun i hi => ?name, ?w5, fun h => ?w6, fun h => ?w7, fun f hf => ⟨?caption, ?lines⟩,
      fun i hi => ?sig, fun o ho => ?w28, ?w29, ?w30, rfl⟩
    case w0 =>
      refine (fromHalfBytes_toNat _ _ _).trans ?_
      cases p.flag <;> rfl
    case w1 =>
      refine (fromBytes_toNat _ _ _ _).trans ?_
      rw [min_bitOf]
      split <;> omega
    case name =>
      dsimp only
      rw [p.logWords_name hi]
      exact fromBytes_toNat _ _ _ _
    case w5 =>
      refine (fromBytes_toNat _ _ _ _).trans ?_
      rw [min_bitOf]
      split <;> omega
    case w6 => exact (BitVec.toNat_ofNat _ _).trans (Nat.mod_eq_of_lt h)
    case w7 => exact (BitVec.toNat_ofNat _ _).trans (Nat.mod_eq_of_lt h)
    case caption =>
      dsimp only
      rw [p.logWords_caption hf, captionWord_toNat, frameField_caption, hcaption, hcheck]
      simp only [SigCheck.code_eq]
      rfl
    case lines =>
      dsimp only
      rw [p.logWords_lines hf, linesWord_toNat, hfirst, hshort, min_getD_map, min_getD_map]
    case sig =>
      dsimp only
      rw [p.logWords_sig hi, sigWord_toNat, hsig]
      rfl
    case w28 =>
      refine (fromBytes_toNat _ _ _ _).trans ?_
      rw [ho, codeOr, min_eq_of_le o.code_le, min_eq_of_le (Detail.code_le _), min_eq_of_le (LineState.code_le _)]
      rfl
    case w29 => exact fromHalves_toNat _ _
    case w30 => exact fromHalves_toNat _ _
  case compose =>
    rintro t log header r u _ _ rfl rfl
    refine ⟨SlipUnit.compose_full t log header r, fun h => ?_⟩
    rw [SlipUnit.compose_numbered t log header r h]
    refine ⟨fun hq => ?_, fun hq hp => ?_, fun c above hq hp htx hout => ?_⟩
    · exact SlipUnit.place_full t (if_neg (Nat.not_lt.mpr hq))
    · exact SlipUnit.place_waits t (if_pos hq) hp
    · exact SlipUnit.place_prints t (if_pos (by simp [hq])) hq hp htx hout

end Sys2Proof.Machine
end

section
/-! PROOFS. The fields of the records that the part reads from memory (12_memory_formats.md). -/

namespace Sys2Proof.Machine

/-! ## Fields of words -/

/-- Byte k of a word. -/
theorem field_byte (w : Word) (k : Nat) : field w (8 * k) 8 = w.toNat / 256 ^ k % 256 := by
  rw [field, Nat.pow_mul, show (2 : Nat) ^ 8 = 256 from rfl]

/-- The top n bits of a word, from bit 32 − n up. -/
theorem field_top (w : Word) {lo n : Nat} (h : lo + n = 32) : field w lo n = w.toNat / 2 ^ lo := by
  refine Nat.mod_eq_of_lt (Nat.div_lt_of_lt_mul ?_)
  rw [← Nat.pow_add, h]
  exact w.isLt

/-- A field within byte k of a word, from bit j of the byte up. -/
theorem field_inByte (w : Word) (k : Nat) {j n : Nat} (h : j + n ≤ 8) :
    field w (8 * k + j) n = w.toNat / 256 ^ k % 256 / 2 ^ j % 2 ^ n := by
  have hbyte : (2 : Nat) ^ 8 = 2 ^ j * 2 ^ (8 - j) := by rw [← Nat.pow_add, Nat.add_sub_cancel' (by omega)]
  rw [field, Nat.pow_add, Nat.pow_mul, ← Nat.div_div_eq_div_mul, show (256 : Nat) = 2 ^ 8 from rfl, hbyte,
    Nat.mod_mul_right_div_self, Nat.mod_mod_of_dvd _ (Nat.pow_dvd_pow 2 (by omega))]

theorem flagBit_inByte (w : Word) (k : Nat) {j : Nat} (h : j < 8) :
    flagBit w (8 * k + j) = true ↔ w.toNat / 256 ^ k % 256 / 2 ^ j % 2 = 1 := by
  rw [flagBit, beq_iff_eq, field_inByte w k h, Nat.pow_one]

theorem recordByte_eq (ws : List Word) (i : Nat) : recordByte ws i = (ws.getD (i / 4) 0).toNat / 256 ^ (i % 4) % 256 :=
  field_byte _ _

theorem any_symbolNotOk (f : Nat → Nat) (n : Nat) :
    (((List.range n).map f).any fun c => !symbolOk c) = true ↔ ∃ i < n, 10 < f i := by
  simp [List.any_eq_true, symbolOk]

/-- Settles O43: the fields of a TCB and of a Directory entry. -/
theorem recordsAreReadFieldByField : Obligations.RecordsAreReadFieldByField := by
  refine ⟨?tcb, ?directory⟩
  case tcb =>
    rintro ws _ _ _ rfl rfl rfl
    refine ⟨rfl, rfl, congrArg (· % 65536) (Nat.div_one _), field_top _ rfl, field_byte _ 0, field_byte _ 1, field_byte _ 2, ?_,
      flagBit_inByte _ 3 (j := 1) (by omega), flagBit_inByte _ 3 (j := 2) (by omega),
      flagBit_inByte _ 3 (j := 3) (by omega), field_byte _ 0, field_byte _ 1, field_byte _ 2, ?_,
      ?_, ?_, rfl, field_top _ rfl, by simp [readTcb], fun i hi => ?_⟩
    · exact (field_inByte _ 3 (j := 0) (by omega)).trans (by simp [wordAt])
    · exact (field_inByte _ 3 (j := 0) (by omega)).trans (by simp [wordAt])
    · refine (field_inByte _ 3 (j := 4) (n := 4) (by omega)).trans (Nat.mod_eq_of_lt ?_)
      exact Nat.div_lt_of_lt_mul (Nat.mod_lt _ (by omega))
    · exact congrArg (· % 1024) (Nat.div_one _)
    · rw [readTcb, List.getElem?_map, List.getElem?_range hi]
      refine congrArg some ((field_byte _ _).trans ?_)
      dsimp only
      rw [show (24 + i) / 4 = 6 + i / 4 by omega, show (24 + i) % 4 = i % 4 by omega]
      rfl
  case directory =>
    rintro ws b n _ hb hn rfl
    obtain rfl : b = recordByte ws := hb.trans (funext fun i => (recordByte_eq ws i).symm)
    have hcount : (if recordByte ws 0 = 0 then 1 else min (recordByte ws 0) 20) = n := by
      rw [hn]
      split_ifs <;> omega
    simp only [readDirEntry, hcount]
    refine ⟨by simp, fun i hi => ?_, ?_, by simp, fun i hi => ?_, flagBit_inByte _ 0 (j := 0) (by omega) |>.trans ?_⟩
    · simp [List.getElem?_range hi, dialSymbol]
    · rw [Bool.or_eq_true, Bool.or_eq_true, any_symbolNotOk, decide_eq_true_eq, decide_eq_true_eq, or_assoc]
    · simp [List.getElem?_range hi]
    · simp [recordByte_eq, wordAt]

end Sys2Proof.Machine
end

section
/-! PROOFS. Host writes: the guards, the posted-write buffer and the watched windows (09_the_memory_path.md). -/

namespace Sys2Proof.Machine

/-! ## Guards (R157) -/

theorem inWindow_iff (base size a : Nat) : inWindow base size a = true ↔ base ≤ a ∧ a < base + size := by
  simp [inWindow]

theorem Gate.listGuards_iff (g : Gate) (r : DropReason) (a : Nat) :
    g.listGuards r a = true ↔ ∃ e, some e ∈ g.guards ∧ e.reason = r ∧ e.base ≤ a ∧ a < e.base + e.length := by
  rw [Gate.listGuards, List.any_eq_true]
  constructor
  · rintro ⟨_ | e, hmem, he⟩
    · cases he
    · obtain ⟨hr, hw⟩ := (Bool.and_eq_true _ _).mp he
      exact ⟨e, hmem, beq_iff_eq.mp hr, (inWindow_iff _ _ _).mp hw⟩
  · rintro ⟨e, hmem, hr, hw⟩
    exact ⟨some e, hmem, (Bool.and_eq_true _ _).mpr ⟨beq_iff_eq.mpr hr, (inWindow_iff _ _ _).mpr hw⟩⟩

theorem State.ringGuards_iff (s : State) (a : Nat) : s.ringGuards a = true ↔ s.covered a .ring := by
  simp only [State.ringGuards, State.covered]
  cases s.layout.inForce with
  | none => simp
  | some l => simp [inWindow_iff, Option.isSome_iff_ne_none, slotBytes]

theorem State.historyGuards_iff (s : State) (a : Nat) : s.historyGuards a = true ↔ s.covered a .history := by
  simp only [State.historyGuards, State.covered]
  cases s.layout.inForce with
  | none => simp
  | some l => simp [inWindow_iff, and_assoc]

theorem State.guardedFor_iff (s : State) (a : Nat) (r : DropReason) : s.guardedFor a r = true ↔ s.covered a r := by
  cases r with
  | ring => exact s.ringGuards_iff a
  | history => exact s.historyGuards_iff a
  | statusPage => exact s.gate.listGuards_iff .statusPage a
  | preview => exact s.gate.listGuards_iff .preview a
  | tcb => exact s.gate.listGuards_iff .tcb a
  | toneBank => exact s.gate.listGuards_iff .toneBank a

/-- The reasons before one in the order of R157. -/
theorem dropReasons_split (why : DropReason) :
    ∃ before after, dropReasons = before ++ why :: after ∧ ∀ r ∈ before, r.code < why.code := by
  cases why with
  | statusPage => exact ⟨[], _, rfl, by simp⟩
  | preview => exact ⟨[.statusPage], _, rfl, by decide⟩
  | ring => exact ⟨[.statusPage, .preview], _, rfl, by decide⟩
  | history => exact ⟨[.statusPage, .preview, .ring], _, rfl, by decide⟩
  | tcb => exact ⟨[.statusPage, .preview, .ring, .history], _, rfl, by decide⟩
  | toneBank => exact ⟨[.statusPage, .preview, .ring, .history, .tcb], _, rfl, by decide⟩

theorem State.dropReason_of {s : State} {a : Nat} {why : DropReason} (h : s.firstGuard a why) :
    s.dropReason a = some why := by
  obtain ⟨hcovered, hfirst⟩ := h
  obtain ⟨before, after, hsplit, hbefore⟩ := dropReasons_split why
  refine List.find?_eq_some_iff_append.mpr ⟨(s.guardedFor_iff a why).mpr hcovered, before, after, hsplit, fun r hr => ?_⟩
  rw [Bool.not_eq_true', ← Bool.not_eq_true, s.guardedFor_iff]
  exact hfirst r (hbefore r hr)

theorem State.dropReason_none {s : State} {a : Nat} (h : ∀ r, ¬ s.covered a r) : s.dropReason a = none := by
  refine List.find?_eq_none.mpr fun r _ => ?_
  rw [s.guardedFor_iff]
  exact h r

/-! ## The acceptance of a host write (R155, R158, R159) -/

section
variable {s : State} {w : HostWrite}

theorem State.acceptWrite_dropped {why : DropReason} (h : s.dropReason w.addr = some why) :
    s.acceptWrite w =
      { s with
        gate :=
          { s.gate with
            dropped := min (s.gate.dropped + 1) 65535, droppedAddr := w.addr, droppedReason := some why } } := by
  rw [State.acceptWrite, h]
  rfl

theorem State.acceptWrite_posted (h : s.dropReason w.addr = none) (hroom : s.gate.buffer.length < 2) :
    s.acceptWrite w = { s with gate := { s.gate with buffer := s.gate.buffer ++ [w] } } := by
  rw [State.acceptWrite, h]
  exact if_pos hroom

theorem State.acceptWrite_waits (h : s.dropReason w.addr = none) (hfull : 2 ≤ s.gate.buffer.length) :
    s.acceptWrite w = { s with gate := { s.gate with waiting := some w } } := by
  rw [State.acceptWrite, h]
  exact if_neg (Nat.not_lt.mpr hfull)

end

theorem Gate.busFree_of {g : Gate} (hr : g.read = none) (hw : g.waiting = none) : g.busFree = true := by
  simp [Gate.busFree, hr, hw]

theorem Gate.busFree_false {g : Gate} (h : g.read ≠ none ∨ g.waiting ≠ none) : g.busFree = false := by
  rw [Gate.busFree, Bool.and_eq_false_iff]
  simpa [Option.isSome_iff_ne_none] using h

theorem execHostWrite_taken {s : State} (addr : Addr) (data : Word) (be : ByteEnables) (hreset : s.inReset = false)
    (hfree : s.gate.busFree = true) :
    exec (.hostWrite addr data be) s =
      .next (finish s (s.acceptWrite { addr := addr.toNat - addr.toNat % 4, data := data, be := be })) := by
  refine (show execHostWrite addr data be s = _ from ?_)
  rw [execHostWrite, if_neg (by simp [hreset])]
  exact when_due _ _ s hreset hfree

/-- Settles O45: dropped, posted or made to wait; and a second cycle on the bus. -/
theorem hostWritesAreGuardedAndPosted : Obligations.HostWritesAreGuardedAndPosted := by
  refine ⟨fun s addr data be a hreset hread hwaiting ha => ?taken, fun s addr data be hreset hbusy => ?busy⟩
  case taken =>
    subst ha
    have hexec := execHostWrite_taken addr data be hreset (Gate.busFree_of hread hwaiting)
    refine ⟨fun why hwhy => ⟨_, hexec, finish_ends_of ?_⟩, fun hnone hroom => ⟨_, hexec, finish_ends_of ?_⟩,
      fun hnone hfull => ⟨_, hexec, finish_ends_of ?_⟩⟩
    · exact State.acceptWrite_dropped (State.dropReason_of hwhy)
    · exact State.acceptWrite_posted (State.dropReason_none hnone) hroom
    · exact State.acceptWrite_waits (State.dropReason_none hnone) hfull
  case busy =>
    refine ⟨finish s s, (show execHostWrite addr data be s = _ from ?_), finish_ends _ _⟩
    rw [execHostWrite, if_neg (by simp [hreset])]
    exact when_idle _ _ s hreset (Gate.busFree_false hbusy)

/-! ## The watched windows (R156) -/

/-- A list that holds each of its members once and only the one of an option. -/
theorem eq_toList_of_mem_iff {α : Type} {l : List α} {o : Option α} (hn : l.Nodup) (h : ∀ x, x ∈ l ↔ o = some x) :
    l = o.toList := by
  cases o with
  | none => exact List.eq_nil_iff_forall_not_mem.mpr fun x hx => by simpa using (h x).mp hx
  | some y =>
    refine List.Perm.eq_singleton ((List.perm_ext_iff_of_nodup hn (List.nodup_singleton y)).mpr fun x => ?_)
    rw [h x, List.mem_singleton, Option.some_inj, eq_comm]

theorem Layout.sendWatch_iff (l : Layout) (w : HostWrite) (e : Nat) :
    l.sendWatch w = some e ↔ e < l.sendCount ∧ w.addr = l.sendBase + 8 * e + 4 ∧ w.be.getLsbD 0 = true := by
  unfold Layout.sendWatch
  split
  next h =>
    simp only [Bool.and_eq_true, inWindow_iff, beq_iff_eq] at h
    simp only [h.2, and_true, Option.some_inj]
    omega
  next h =>
    simp only [Bool.and_eq_true, inWindow_iff, beq_iff_eq] at h
    refine iff_of_false (by simp) fun ⟨h1, h2, h3⟩ => h ⟨⟨by omega, by omega⟩, h3⟩

theorem Layout.returnWatch_iff (l : Layout) (w : HostWrite) (n : Nat) :
    l.returnWatch w = some n ↔ n < l.returnCount ∧ w.addr = l.returnBase + 16 * n + 12 ∧ w.be.getLsbD 0 = true := by
  unfold Layout.returnWatch
  split
  next h =>
    simp only [Bool.and_eq_true, inWindow_iff, beq_iff_eq] at h
    simp only [h.2, and_true, Option.some_inj]
    omega
  next h =>
    simp only [Bool.and_eq_true, inWindow_iff, beq_iff_eq] at h
    refine iff_of_false (by simp) fun ⟨h1, h2, h3⟩ => h ⟨⟨by omega, by omega⟩, h3⟩

theorem Layout.profileWatch_iff (l : Layout) (w : HostWrite) (n : Nat) :
    l.profileWatch w = some n ↔ l.profileBase ≤ w.addr ∧ w.addr < l.profileBase + 1024 ∧
      n = (w.addr - l.profileBase) / 4 := by
  unfold Layout.profileWatch
  split
  next h =>
    rw [inWindow_iff] at h
    simp [h, eq_comm]
  next h =>
    rw [inWindow_iff] at h
    simpa using fun h1 h2 => absurd ⟨h1, h2⟩ h

/-- The hand-ons of a write, item by item, are those that the Gate makes. -/
theorem State.HandedOn.lists {s : State} {w : HostWrite} {sends rets : List MailboxWrite}
    {gens profiles : List LayoutWrite} (h : s.HandedOn w sends rets gens profiles) :
    sends ++ rets = mailboxHandOns s.layout.inForce w ∧ gens ++ profiles = layoutHandOns s.layout.inForce w := by
  obtain ⟨⟨hsends, hrets, hgens, hprofiles⟩, hsend, hret, hgen, hprofile⟩ := h
  have hgenerations : gens = if w.addr = generationAddr then [.generation] else [] := by
    by_cases ha : w.addr = generationAddr
    · rw [if_pos ha]
      exact eq_toList_of_mem_iff (o := some .generation) hgens fun x => by
        rw [hgen x, Option.some_inj, eq_comm (b := x)]
        exact and_iff_right ha
    · rw [if_neg ha]
      exact eq_toList_of_mem_iff (o := none) hgens fun x => by
        rw [hgen x]
        exact iff_of_false (fun hx => ha hx.1) (by simp)
  cases hl : s.layout.inForce with
  | none =>
    have hs : sends = [] := List.eq_nil_iff_forall_not_mem.mpr fun x hx => by simp [hsend, hl] at hx
    have hr : rets = [] := List.eq_nil_iff_forall_not_mem.mpr fun x hx => by simp [hret, hl] at hx
    have hp : profiles = [] := List.eq_nil_iff_forall_not_mem.mpr fun x hx => by simp [hprofile, hl] at hx
    simp [hs, hr, hp, hgenerations, mailboxHandOns, layoutHandOns]
  | some l =>
    have hs : sends = ((l.sendWatch w).map MailboxWrite.send).toList := eq_toList_of_mem_iff hsends fun x => by
      simp [hsend, hl, Layout.sendWatch_iff, and_assoc, eq_comm (a := x)]
    have hr : rets = ((l.returnWatch w).map fun n => MailboxWrite.ret n (byteOf w.data 0)).toList :=
      eq_toList_of_mem_iff hrets fun x => by
        simp [hret, hl, Layout.returnWatch_iff, and_assoc, eq_comm (a := x)]
    have hp : profiles = ((l.profileWatch w).map fun n => LayoutWrite.profile n w.data w.be).toList :=
      eq_toList_of_mem_iff hprofiles fun x => by
        simp [hprofile, hl, Layout.profileWatch_iff, and_assoc, eq_comm (a := x)]
    simp [hs, hr, hp, hgenerations, mailboxHandOns, layoutHandOns]

/-! ## The drain (R155, R156, R160) -/

theorem execHostWriteDrain_due {s : State} {w : HostWrite} {rest : List HostWrite} (hreset : s.inReset = false)
    (hport : s.gate.port = some .hostWrite) (hbuffer : s.gate.buffer = w :: rest) :
    exec .hostWriteDrain s = .next (finish s (s.drain w rest)) := by
  refine (show execHostWriteDrain s = _ from live_awake _ s hreset).trans ?_
  simp only [hport, hbuffer]

/-- Settles O46: the head write reaches memory and is handed on, and the waiting write takes the room. -/
theorem hostWritesDrain : Obligations.HostWritesDrain := by
  rintro s _ w rest sends rets gens profiles hreset hport hbuffer hhanded rfl
  obtain ⟨hmail, hlayout⟩ := hhanded.lists
  have hexec := execHostWriteDrain_due hreset hport hbuffer
  rw [State.drain, ← hmail, ← hlayout, ← List.append_assoc, ← List.append_assoc] at hexec
  refine ⟨fun hw => ⟨_, hexec, finish_ends_of ?_⟩, fun x hx =>
    ⟨fun why hwhy => ⟨_, hexec, finish_ends_of ?_⟩, fun hnone hroom => ⟨_, hexec, finish_ends_of ?_⟩⟩⟩
  · rw [State.acceptWaiting, hw]
    rfl
  · rw [State.acceptWaiting, hx]
    exact State.acceptWrite_dropped (w := x) (State.dropReason_of hwhy)
  · rw [State.acceptWaiting, hx]
    exact State.acceptWrite_posted (w := x) (State.dropReason_none hnone) hroom

end Sys2Proof.Machine
end

section
/-! PROOFS. The control requester's operations, the Slip Log writer, and the Send and Return sides of the Mailbox Unit
(09_the_memory_path.md, The memory port; 11_mailboxes.md). -/

namespace Sys2Proof.Machine

/-! ## Operations of one moment (R165) -/

theorem passOthers_perm (x : Op) (n : Nat) (l : List Op) : List.Perm (passOthers x n l) (x :: l) := by
  induction l generalizing n with
  | nil => cases n <;> exact .refl _
  | cons y l ih =>
    cases n with
    | zero => exact .refl _
    | succ n =>
      simp only [passOthers]
      split
      · exact .refl _
      · exact ((ih n).cons y).trans (.swap x y l)

/-- An operation keeps its place among those of its issuer. -/
theorem passOthers_issuer (x : Op) (n : Nat) (l : List Op) (who : Issuer) :
    (passOthers x n l).filter (·.kind.issuer == who) = (x :: l).filter (·.kind.issuer == who) := by
  induction l generalizing n with
  | nil => cases n <;> rfl
  | cons y l ih =>
    cases n with
    | zero => rfl
    | succ n =>
      simp only [passOthers]
      split
      · rfl
      next hother =>
        simp only [List.filter_cons, ih n]
        by_cases hx : x.kind.issuer = who
        · have hy : y.kind.issuer ≠ who := fun h => hother (h.trans hx.symm)
          simp [hx, hy]
        · simp [hx]

theorem slideLast_kept (base ahead : Nat) (ops : List Op) :
    List.Perm (slideLast base ahead ops) ops ∧ (slideLast base ahead ops).take base = ops.take base ∧
      ∀ who : Issuer,
        (slideLast base ahead ops).filter (·.kind.issuer == who) = ops.filter (·.kind.issuer == who) := by
  unfold slideLast
  split
  · exact ⟨.refl _, rfl, fun _ => rfl⟩
  next x l hlast =>
    have hdrop : ops.drop base = (x :: l).reverse := by rw [← hlast, List.reverse_reverse]
    have hlen : (ops.take base).length = base := by
      have hpos : (ops.drop base).length = l.length + 1 := by simp [hdrop]
      rw [List.length_drop] at hpos
      rw [List.length_take]
      omega
    have hops : ops = ops.take base ++ (x :: l).reverse := by rw [← hdrop, List.take_append_drop]
    refine ⟨?_, ?_, fun who => ?_⟩
    · conv_rhs => rw [hops]
      exact ((List.reverse_perm _).trans ((passOthers_perm x ahead l).trans (List.reverse_perm _).symm)).append_left _
    · rw [List.take_append_of_le_length (by omega), List.take_take, Nat.min_self]
    · conv_rhs => rw [hops]
      rw [List.filter_append, List.filter_append, List.filter_reverse, List.filter_reverse, passOthers_issuer]

/-! ## Words of an operation (R165) -/

/-- The word of an operation that is not its last, or of one whose end has no command of its own. -/
theorem State.plainControlDue_of {s : State} {kind : OpKind} {w : OpWord} {todo : List OpWord} {got : List Word}
    {rest : List Op} (hp : s.gate.port = some .control)
    (hops : s.gate.ops = { kind := kind, todo := w :: todo, got := got } :: rest) (hk : kind ≠ .profileRead)
    (hplain : kind = .freeWrite ∨ kind = .historyWrite ∨ kind = .memberResults ∨ todo ≠ []) :
    s.plainControlDue = true := by
  have hlast : todo ≠ [] → ({ kind := kind, todo := w :: todo, got := got } : Op).atLast = false := fun h => by
    simp [Op.atLast, h]
  rw [State.plainControlDue]
  simp only [Gate.controlOp_head hp hops, Bool.not_eq_true']
  rcases hplain with rfl | rfl | rfl | h
  · rfl
  · rfl
  · rfl
  · cases kind <;> simp_all [Op.ownResult]

theorem State.controlStep_of {s : State} {kind : OpKind} {w : OpWord} {todo : List OpWord} {got : List Word}
    {rest : List Op} (hops : s.gate.ops = { kind := kind, todo := w :: todo, got := got } :: rest) :
    s.controlStep =
      { s with
        mem := ({ kind := kind, todo := w :: todo, got := got } : Op).memDone s.mem
        gate :=
          { s.gate with
            port := none
            ops :=
              if todo = [] then rest
              else
                { kind := kind, todo := todo
                  got := (({ kind := kind, todo := w :: todo, got := got } : Op).wordDone s.mem).got } :: rest } } := by
  simp only [State.controlStep, hops]
  cases w <;> rfl

/-! ## The write-back of a Directory entry's history (R138) -/

theorem historyWords_eq {got : List Word} {v : Word} {outcome ok bad : Nat} (sent : Bool) (time : TimeOfDay)
    (caption : Nat) (hgot : got.length = 3) (hok : ok = v.toNat % 65536) (hbad : bad = v.toNat / 65536)
    (ho : outcome < 256) :
    historyWords sent outcome time caption (got ++ [v]) =
      [BitVec.ofNat 32 outcome, time.word, BitVec.ofNat 32 caption,
        if sent = true then BitVec.ofNat 32 (min (ok + 1) 65535 + 65536 * bad)
        else BitVec.ofNat 32 (ok + 65536 * min (bad + 1) 65535)] := by
  have hv := v.isLt
  have hcounts : wordAt (got ++ [v]) 3 = v := by simp [wordAt, ← hgot]
  have hlow : field v 0 16 = ok := by
    rw [hok, field, Nat.pow_zero, Nat.div_one]
    rfl
  have hhigh : field v 16 16 = bad := (field_top v rfl).trans hbad.symm
  have hfirst : fromBytes outcome 0 0 0 = BitVec.ofNat 32 outcome := by
    rw [fromBytes, min_eq_of_le (a := outcome) (by omega)]
    simp
  simp only [historyWords, hcounts, hlow, hhigh, hfirst, fromHalves, min_eq_of_le (show bad ≤ 65535 by omega),
    min_eq_of_le (show ok ≤ 65535 by omega)]

theorem wordsFrom_four {x : Nat} (hx : 12 ≤ x) (a b c d : Word) :
    (wordsFrom (x - 12) [a, b, c, d]).map OpWord.wr =
      [.wr { addr := x - 12, be := 15, data := a }, .wr { addr := x - 8, be := 15, data := b },
        .wr { addr := x - 4, be := 15, data := c }, .wr { addr := x, be := 15, data := d }] := by
  have h8 : x - 12 + 4 = x - 8 := by omega
  have h4 : x - 8 + 4 = x - 4 := by omega
  have h0 : x - 4 + 4 = x := by omega
  simp [wordsFrom, wholeWord, h8, h4, h0]

theorem execHistoryReadDone_due {s : State} {x outcome caption : Nat} {sent : Bool} {time : TimeOfDay} {got : List Word}
    {rest : List Op} (hreset : s.inReset = false) (hp : s.gate.port = some .control)
    (hops : s.gate.ops = { kind := .historyRead sent outcome time caption, todo := [.rd x], got := got } :: rest) :
    exec .historyReadDone s =
      .next (finish s
        { s with
          gate :=
            { s.gate with
              port := none
              ops :=
                { kind := .historyWrite, got := []
                  todo :=
                    (wordsFrom (x - 12) (historyWords sent outcome time caption (got ++ [s.mem.word x]))).map .wr } ::
                  rest } }) := by
  refine (show execHistoryReadDone s = _ from live_awake _ s hreset).trans ?_
  simp [State.historyDue, Gate.controlOp_head hp hops, Op.atLast, State.controlStep_lastRead hops,
    State.wordsRead_lastRead hops, Op.writeBack, Op.nextAddr, State.withGate]

/-! ## The Slip Log writer (R144) -/

theorem execSlipLogWordWritten_due {s : State} {seq : Nat} {x : Access} {todo : List Access} {rest : List LogRecord}
    (hreset : s.inReset = false) (hp : s.gate.port = some .slipLog)
    (hlog : s.slips.logList = { seq := seq, todo := x :: todo } :: rest) :
    exec .slipLogWordWritten s =
      .next (finish s
        { s with mem := s.mem.write x, gate := { s.gate with port := none }, slips := s.slips.logWordDone }) := by
  refine (show execSlipLogWordWritten s = _ from live_awake _ s hreset).trans ?_
  have hword : s.logWord = some x := by simp [State.logWord, hp, SlipUnit.nextLogWord, hlog]
  simp only [hword]

theorem SlipUnit.logWordDone_of {u : SlipUnit} {seq : Nat} {x : Access} {todo : List Access} {rest : List LogRecord}
    (hlog : u.logList = { seq := seq, todo := x :: todo } :: rest) :
    u.logWordDone =
      { u with
        logList := if todo = [] then rest else { seq := seq, todo := todo } :: rest
        lastLogged := if todo = [] then seq else u.lastLogged } := by
  rw [SlipUnit.logWordDone, hlog]
  cases todo <;> rfl

/-- Settles O49: the order of operations, their words, the history write-back and the Slip Log's words. -/
theorem wordsAreCarriedOutInOrder : Obligations.WordsAreCarriedOutInOrder := by
  refine ⟨slideLast_kept, fun s kind w todo got rest hreset hp hops hk hplain => ?word,
    fun s x ok bad outcome caption sent time got rest hreset hp hops hgot hok hbad hx ho => ?history,
    fun s seq x todo rest hreset hp hlog => ?log⟩
  case word =>
    refine ⟨_, show execControlWordDone s = _ from
      when_due _ _ s hreset (State.plainControlDue_of hp hops hk hplain),
      finish_ends_of ((State.controlStep_of hops).trans ?_)⟩
    cases w <;> rfl
  case history =>
    refine ⟨_, execHistoryReadDone_due hreset hp hops, finish_ends_of ?_⟩
    rw [historyWords_eq sent time caption hgot hok hbad ho, wordsFrom_four hx]
  case log =>
    refine ⟨_, execSlipLogWordWritten_due hreset hp hlog, finish_ends_of ?_⟩
    rw [SlipUnit.logWordDone_of hlog]

/-! ## The Send side (R182, R183) -/

theorem Mailbox.note_eq (e : Nat) (m : Mailbox) :
    m.note e = { m with noted := if e ∈ m.noted then m.noted else m.noted ++ [e] } := by
  by_cases h : e ∈ m.noted <;> simp [Mailbox.note, h]

theorem State.takeReady_iff {s : State} {l : Layout} (hl : s.layout.inForce = some l) :
    s.takeReady = true ↔ s.mailbox.takeIndex ∈ s.mailbox.noted ∧ s.layout.load = none ∧ s.mailbox.backlog = [] ∧
      s.mailbox.take = none := by
  simp [State.takeReady, LayoutUnit.active, hl, and_assoc]

theorem State.beginTake_of {s : State} {l : Layout} (hl : s.layout.inForce = some l) :
    s.beginTake =
      { s with
        mailbox :=
          { s.mailbox with
            take := some { entryAddr := l.sendBase + 8 * s.mailbox.takeIndex, stale := false, phase := .reading } }
        gate :=
          { s.gate with
            ops := s.gate.ops ++
              [{ kind := .sendRead s.mailbox.takeIndex, got := []
                 todo := [.rd (l.sendBase + 8 * s.mailbox.takeIndex), .rd (l.sendBase + 8 * s.mailbox.takeIndex + 4)] }] } } := by
  simp [State.beginTake, State.sendAddr, hl, State.issue, Gate.issue, State.withGate, State.withMailbox, reads_eq,
    List.range_succ]

/-- Settles O50: the note of a Send entry, and the take of it. -/
theorem notedEntriesAreTaken : Obligations.NotedEntriesAreTaken := by
  refine ⟨fun s e rest hreset hmail => ?noted, fun s l e hreset hl he => ⟨fun hn hload hb ht => ?taken, fun hno => ?not⟩⟩
  case noted =>
    have hexec : exec .sendActionWrite s = .next (finish s (s.popMailbox.withMailbox (s.mailbox.note e))) := by
      refine (show execSendActionWrite s = _ from live_awake _ s hreset).trans ?_
      simp only [hmail]
    refine ⟨_, hexec, finish_ends_of ?_⟩
    rw [Mailbox.note_eq, State.popMailbox, hmail]
    rfl
  case taken =>
    subst he
    refine ⟨_, show execTakeStart s = _ from
      when_due _ _ s hreset ((State.takeReady_iff hl).mpr ⟨hn, hload, hb, ht⟩), finish_ends_of ?_⟩
    exact State.beginTake_of hl
  case not =>
    subst he
    refine ⟨_, show execTakeStart s = _ from when_idle _ _ s hreset ?_, finish_ends _ _⟩
    rw [← Bool.not_eq_true, State.takeReady_iff hl]
    tauto

/-! ## The Return side (R185 to R188) -/

theorem Mailbox.hostFree_kept {m : Mailbox} {n : Nat} {action : Byte}
    (h : action ≠ 0 ∨ m.slots[n]? ∉ [some ReturnState.full, some .fullQuiet]) : m.hostFree n action = m := by
  have hcode : action ≠ 0 → action.toNat ≠ returnFree := fun ha hz => ha (BitVec.eq_of_toNat_eq hz)
  unfold Mailbox.hostFree
  split
  next hslot => exact if_neg (hcode (h.resolve_right (by simp [hslot])))
  next hslot => exact if_neg (hcode (h.resolve_right (by simp [hslot])))
  next => rfl

theorem Mailbox.hostFree_frees {m : Mailbox} {n : Nat} (h : m.slots[n]? ∈ [some ReturnState.full, some .fullQuiet]) :
    m.hostFree n 0 = { m with slots := m.slots.set n .free, attn := (m.slots.set n .free).any (· == .full) } := by
  simp only [List.mem_cons, List.not_mem_nil, or_false] at h
  rcases h with h | h <;> rw [Mailbox.hostFree, h] <;> rfl

theorem execReturnFreeWrite_of {s : State} {n : Nat} {action : Byte} {rest : List MailboxWrite} (ahead : Nat)
    (hreset : s.inReset = false) (hmail : s.gate.toMailbox = .ret n action :: rest) :
    exec (.returnFreeWrite ahead) s =
      .next (finish s
        (({ s with mailbox := s.mailbox.hostFree n action, gate := { s.gate with toMailbox := rest } } :
            State).serveBacklog.slideLast s.gate.ops.length ahead)) := by
  refine (show execReturnFreeWrite ahead s = _ from live_awake _ s hreset).trans ?_
  simp only [hmail, State.popMailbox, List.tail_cons]
  rfl

theorem State.slideLast_to {x : State} {base ahead : Nat} {l : List Op}
    (h : Machine.slideLast base ahead x.gate.ops = l) :
    x.slideLast base ahead = { x with gate := { x.gate with ops := l } } := by
  rw [State.slideLast, h]
  rfl

/-- Operations of one issuer enter the list as they were made. -/
theorem State.slideLast_still {x : State} {base ps : List Op} (ahead : Nat) (hops : x.gate.ops = base ++ ps)
    (h : ∀ y ∈ ps, ∀ z ∈ ps, y.kind.issuer = z.kind.issuer) : x.slideLast base.length ahead = x := by
  refine (State.slideLast_to (by rw [hops, slideLast_same base ps ahead h])).trans ?_
  rw [← hops]

/-- A slot that is not FREE takes no posting. -/
theorem State.serveBacklog_blocked {u : State}
    (h : u.mailbox.backlog = [] ∨ u.mailbox.slots[u.mailbox.postIndex]? ≠ some .free) : u.serveBacklog = u := by
  by_cases hb : u.mailbox.backlog = []
  · exact if_pos hb
  have hfree : u.mailbox.postFree = false := by simpa [Mailbox.postFree] using h.resolve_left hb
  have hposts : State.postBacklog u.mailbox.backlog u = u := by
    cases hc : u.mailbox.backlog with
    | nil => exact absurd hc hb
    | cons c cs =>
      rw [State.postBacklog, if_neg (by simp [hfree]), ← hc]
      rfl
  refine (if_neg hb).trans ?_
  simp only [hposts, if_neg hb]

/-- A Directory read is the Job Controller's. -/
theorem State.look_ops (u : State) :
    u.look.gate.ops = u.gate.ops ∨
      ∃ q : Op, u.look.gate.ops = u.gate.ops ++ [q] ∧ q.kind.issuer = .jobController := by
  unfold State.look
  split
  · split
    · exact .inr ⟨_, rfl, rfl⟩
    · exact .inl rfl
  · exact .inl rfl

theorem State.leaveMountWait_stays {v : State}
    (h : v.mailbox.backlog ≠ [] ∨ v.jobs.state ≠ .mountWait ∨ v.jobs.mount ≠ .fresh) : v.leaveMountWait = v := by
  refine if_neg ?_
  rintro ⟨hs, hm, hb⟩
  rcases h with h | h | h
  · exact h hb
  · exact h hs
  · exact h hm

theorem State.leaveMountWait_leaves {v : State} (hb : v.mailbox.backlog = []) (hs : v.jobs.state = .mountWait)
    (hm : v.jobs.mount = .fresh) :
    v.leaveMountWait =
      ({ v with jobs := { v.jobs with state := .attempting, mountLamp := false } } : State).look :=
  if_pos ⟨hs, hm, hb⟩

section
variable {w v : State} {ps : List Op} (ahead : Nat) (hv : State.postBacklog w.mailbox.backlog w = v)
  (hops : v.gate.ops = w.gate.ops ++ ps) (hissuer : ∀ y ∈ ps, y.kind.issuer = .mailboxUnit)
include hv hops hissuer

/-- The Backlog is posted, and nothing follows it. -/
theorem State.serveBacklog_stays
    (h : w.mailbox.backlog = [] ∨ v.mailbox.backlog ≠ [] ∨ v.jobs.state ≠ .mountWait ∨ v.jobs.mount ≠ .fresh) :
    w.serveBacklog.slideLast w.gate.ops.length ahead = v := by
  have hserved : w.serveBacklog = v := by
    by_cases hb : w.mailbox.backlog = []
    · have hself : { w with mailbox := { w.mailbox with backlog := [] } } = w := by rw [← hb]
      rw [hb] at hv
      exact (if_pos hb).trans (hself.symm.trans hv)
    · refine (if_neg hb).trans ?_
      dsimp only
      rw [hv, State.leaveMountWait_stays (h.resolve_left hb), ite_self]
  rw [hserved]
  exact State.slideLast_still ahead hops fun y hy z hz => (hissuer y hy).trans (hissuer z hz).symm

/-- The emptied Backlog lets the job out of MOUNT_WAIT; its Directory read and the postings are of one moment. -/
theorem State.serveBacklog_leaves (hb : w.mailbox.backlog ≠ []) (hempty : v.mailbox.backlog = [])
    (hst : v.jobs.state = .mountWait) (hmount : v.jobs.mount = .fresh) :
    ∃ x, State.Looked { v with jobs := { v.jobs with state := .attempting, mountLamp := false } } x ∧
      (x.gate.ops = v.gate.ops → w.serveBacklog.slideLast w.gate.ops.length ahead = x) ∧
      ∀ q, x.gate.ops = v.gate.ops ++ [q] →
        w.serveBacklog.slideLast w.gate.ops.length ahead =
          { x with
            gate :=
              { x.gate with
                ops := w.gate.ops ++ ps.take (ps.length - ahead) ++ q :: ps.drop (ps.length - ahead) } } := by
  have hserved : w.serveBacklog =
      ({ v with jobs := { v.jobs with state := .attempting, mountLamp := false } } : State).look := by
    refine (if_neg hb).trans ?_
    dsimp only
    rw [hv, if_pos hempty]
    exact State.leaveMountWait_leaves hempty hst hmount
  refine ⟨_, State.look_looked _, fun hno => ?_, fun q hq => ?_⟩
  · rw [hserved]
    exact State.slideLast_still ahead (hno.trans hops) fun y hy z hz => (hissuer y hy).trans (hissuer z hz).symm
  · have hread : q.kind.issuer = .jobController := by
      rcases State.look_ops ({ v with jobs := { v.jobs with state := .attempting, mountLamp := false } } : State)
        with hnone | ⟨r, hr, hkind⟩
      · exact absurd (hq.symm.trans hnone) (by simp)
      · have hqr := List.append_cancel_left (hq.symm.trans hr)
        rw [List.singleton_inj.mp hqr]
        exact hkind
    rw [hserved]
    refine State.slideLast_to ?_
    rw [hq, hops]
    exact slideLast_others _ ps q ahead fun y hy => by rw [hissuer y hy, hread]; decide

end

theorem Gate.mem_forgetReturns (n : Nat) (g : Gate) (w : MailboxWrite) :
    w ∈ (g.forgetReturns n).toMailbox ↔ w ∈ g.toMailbox ∧ ∀ b, w ≠ .ret n b := by
  rw [Gate.forgetReturns, List.mem_filter]
  refine and_congr_right fun _ => ?_
  cases w with
  | send e => simp
  | ret m b => simp [bne_iff_ne]

theorem execReturnPostingDone_of {s : State} {x : Access} {got : List Word} {rest : List Op} {slot : Option Nat}
    {quiet : Bool} (hreset : s.inReset = false) (hp : s.gate.port = some .control)
    (hops : s.gate.ops = { kind := .posting slot quiet, todo := [.wr x], got := got } :: rest) :
    exec .returnPostingDone s =
      .next (finish s
        (({ s with mem := s.mem.write x, gate := { s.gate with port := none, ops := rest } } : State).posted slot quiet)) := by
  refine (show execReturnPostingDone s = _ from live_awake _ s hreset).trans ?_
  simp [State.postingDue, Gate.controlOp_head hp hops, Op.atLast, State.controlStep_lastWrite hops]

/-- Settles O51: a host's FREE, the posting of the Backlog, the job that may leave MOUNT_WAIT, and a posting's end. -/
theorem returnSlotsAreFreedAndFilled : Obligations.ReturnSlotsAreFreedAndFilled := by
  refine ⟨fun s u n action rest ahead hreset hmail => ⟨fun hkept hblocked => ?kept, fun ha hfull hu => ?freed⟩,
    fun s x got rest slot quiet hreset hp hops => ⟨fun n hn => ?posted, fun hn => ?detached⟩⟩
  case kept =>
    refine ⟨_, execReturnFreeWrite_of ahead hreset hmail, finish_ends_of ?_⟩
    rw [Mailbox.hostFree_kept hkept, State.serveBacklog_blocked
      (u := { s with gate := { s.gate with toMailbox := rest } }) hblocked]
    exact State.slideLast_still (ps := []) ahead (List.append_nil _).symm (by simp)
  case freed =>
    subst ha
    have hexec := execReturnFreeWrite_of ahead hreset hmail
    rw [Mailbox.hostFree_frees hfull] at hexec
    generalize hw :
      ({ s with
          mailbox :=
            { s.mailbox with
              slots := s.mailbox.slots.set n .free, attn := (s.mailbox.slots.set n .free).any (· == .full) }
          gate := { s.gate with toMailbox := rest } } : State) = w at hexec
    obtain ⟨hposted, ps, hps, hissuer⟩ := State.postBacklog_posted w.mailbox.backlog w
    have hjobs := State.postBacklog_jobs w.mailbox.backlog w
    have hwjobs : w.jobs = s.jobs := by rw [← hw]
    have hwops : w.gate.ops = s.gate.ops := by rw [← hw]
    have hwback : w.mailbox.backlog = s.mailbox.backlog := by rw [← hw]
    rw [← hwops] at hexec
    refine ⟨_, State.postBacklog w.mailbox.backlog w, ps, hexec, ?_, hwops ▸ hps, fun hstays => finish_ends_of ?stays,
      fun hb hempty hst hmount => ?leaves⟩
    · rw [hu, ← hwback, ← hw]
      rw [← hw] at hposted
      exact hposted
    case stays =>
      refine State.serveBacklog_stays ahead rfl hps hissuer ?_
      rw [hjobs, hwjobs]
      exact hwback ▸ hstays
    case leaves =>
      obtain ⟨x, hx, hno, hyes⟩ := State.serveBacklog_leaves ahead rfl hps hissuer (by rw [hwback]; exact hb) hempty
        (by rw [hjobs, hwjobs]; exact hst) (by rw [hjobs, hwjobs]; exact hmount)
      exact ⟨x, hx, fun h => finish_ends_of (hno h), fun q hq => finish_ends_of (hwops ▸ hyes q hq)⟩
  case posted =>
    subst hn
    have hexec := execReturnPostingDone_of hreset hp hops
    refine ⟨_, hexec, finish_ends_of ?_, fun w => ?_⟩
    · simp [State.posted, Mailbox.setSlot, Mailbox.driveAttn, postedState, Gate.forgetReturns]
    · rw [(finish_gate _ _).2.2.2.2.2.2.2.2.1]
      exact Gate.mem_forgetReturns n _ w
  case detached =>
    subst hn
    exact ⟨_, execReturnPostingDone_of hreset hp hops, finish_ends _ _⟩

end Sys2Proof.Machine
end

section
/-! PROOFS. Loads of a layout, their checks and their end (10_layout_and_profile.md). -/

namespace Sys2Proof.Machine

/-! ## A load begins and ends (R170, R171, R173) -/

/-- The operation that reads the Layout Block. -/
def blockReadOp : Op where
  kind := .blockRead
  todo := (List.range 16).map fun i => .rd (0x400 + 4 * i)
  got := []

theorem State.beginLoad_eq (u : State) :
    u.beginLoad =
      { u with
        layout := { u.layout with load := some .block }, gate := { u.gate with ops := u.gate.ops ++ [blockReadOp] } } := by
  rw [State.beginLoad, reads_eq]
  rfl

theorem State.endLoad_eq (result : LoadResult) (reason : Option LoadReason) (u : State) :
    u.endLoad result reason =
      { u with
        layout :=
          { u.layout with
            load := if u.layout.reload = true then some .block else none, reload := false
            lastResult := some result, lastReason := reason
            refusals := if result = .accepted then u.layout.refusals else min (u.layout.refusals + 1) 65535 }
        gate := { u.gate with ops := if u.layout.reload = true then u.gate.ops ++ [blockReadOp] else u.gate.ops } } := by
  unfold State.endLoad
  dsimp only
  cases u.layout.reload with
  | true =>
    simp only [State.withLayout, if_true, State.beginLoad_eq]
    rfl
  | false =>
    simp only [State.withLayout, Bool.false_eq_true, if_false]
    rfl

theorem execLayoutGenerationWrite_of {s : State} {rest : List LayoutWrite} (hreset : s.inReset = false)
    (h : s.gate.toLayout = .generation :: rest) :
    exec .layoutGenerationWrite s =
      .next (finish s ({ s with gate := { s.gate with toLayout := rest } } : State).generationWritten) := by
  refine (show execLayoutGenerationWrite s = _ from live_awake _ s hreset).trans ?_
  simp only [h, State.popLayout, List.tail_cons]
  rfl

/-! ## The checks of a Layout Block (R171) -/

theorem allDisjoint_iff (ws : List (Nat × Nat)) :
    allDisjoint ws = true ↔ List.Pairwise (fun a b => a.1 + a.2 ≤ b.1 ∨ b.1 + b.2 ≤ a.1) ws := by
  induction ws with
  | nil => simp [allDisjoint]
  | cons w ws ih => simp [allDisjoint, ih, disjoint, List.pairwise_cons]

theorem Layout.aligned_iff (l : Layout) : l.aligned = true ↔ l.memoryTop % 16 = 0 ∧ ∀ w ∈ l.windows, w.1 % 16 = 0 := by
  rw [Layout.aligned, Bool.and_eq_true, List.all_eq_true]
  simp only [beq_iff_eq]

theorem Layout.belowTop_iff (l : Layout) :
    l.belowTop = true ↔ l.memoryTop ≤ 0x1000000 ∧ ∀ w ∈ l.windows, w.1 + w.2 ≤ l.memoryTop := by
  rw [Layout.belowTop, Bool.and_eq_true, List.all_eq_true, decide_eq_true_eq]
  simp only [decide_eq_true_eq]

section
variable {ws : List Word}

theorem blockCheck_badVersion (h : (wordAt ws 0).toNat ≠ 1) : blockCheck ws = some .badVersion :=
  if_pos fun h1 => h (congrArg BitVec.toNat h1)

/-- A block of version 1 is checked as its layout is. -/
theorem blockCheck_versionOne (h : (wordAt ws 0).toNat = 1) :
    blockCheck ws =
      if (readLayout ws).countsOk = true then
        if (readLayout ws).aligned = true then
          if (readLayout ws).belowTop = true then
            if allDisjoint ((0x400, 64) :: (readLayout ws).windows) = true then none else some .overlap
          else some .outsideTop
        else some .misaligned
      else some .badCount := by
  have hone : wordAt ws 0 = 1 := BitVec.eq_of_toNat_eq h
  unfold blockCheck
  dsimp only
  rw [if_neg (not_not_intro hone)]
  simp only [Bool.not_eq_true', ← Bool.not_eq_true, ite_not]
  rfl

end

theorem execLayoutBlockRead_of {s : State} {x : Nat} {got : List Word} {rest : List Op} (hreset : s.inReset = false)
    (hp : s.gate.port = some .control) (hops : s.gate.ops = { kind := .blockRead, todo := [.rd x], got := got } :: rest) :
    exec .layoutBlockRead s =
      .next (finish s
        (({ s with gate := { s.gate with port := none, ops := rest } } : State).blockArrived (got ++ [s.mem.word x]))) := by
  have hdue : s.blockDue = true := by simp [State.blockDue, Gate.controlOp_head hp hops, Op.atLast]
  refine (show execLayoutBlockRead s = _ from when_due _ _ s hreset hdue).trans ?_
  rw [State.controlStep_lastRead hops, State.wordsRead_lastRead hops]

theorem State.blockArrived_refused {words : List Word} {why : LoadReason} (u : State) (h : blockCheck words = some why) :
    u.blockArrived words =
      ({ u with layout := { u.layout with generationRead := wordAt words 1 } } : State).endLoad .refusedInvalid
        (some why) := by
  unfold State.blockArrived
  rw [h]
  rfl

theorem State.blockArrived_passes {words : List Word} (u : State) (h : blockCheck words = none) :
    u.blockArrived words =
      { u with
        layout := { u.layout with generationRead := wordAt words 1, load := some (.profile (readLayout words)) }
        gate :=
          { u.gate with
            ops := u.gate.ops ++
              [{ kind := .profileRead
                 todo := (List.range 134).map fun i => .rd ((readLayout words).profileBase + 4 * i), got := [] }] } } := by
  unfold State.blockArrived
  rw [h]
  dsimp only
  rw [reads_eq]
  rfl

/-- Settles O52: a write to the generation word, the checks of a block in their order, and the block that passes. -/
theorem loadsAndTheirChecks : Obligations.LoadsAndTheirChecks := by
  refine ⟨fun s rest hreset htl => ⟨fun hload => ?begins, fun hload => ?reloads⟩,
    fun s x got rest l version word windows refused hreset hp hops hword hversion hl hwindows hrefused => ?block⟩
  case begins =>
    refine ⟨_, execLayoutGenerationWrite_of hreset htl, finish_ends_of ?_⟩
    rw [State.generationWritten, if_neg (by simp [hload]), State.beginLoad_eq]
    rfl
  case reloads =>
    refine ⟨_, execLayoutGenerationWrite_of hreset htl, finish_ends_of ?_⟩
    rw [State.generationWritten, if_pos (Option.isSome_iff_ne_none.mpr hload)]
    rfl
  case block =>
    obtain rfl : l = readLayout (got ++ [s.mem.word x]) := by rw [hl, hword]; rfl
    have hexec := execLayoutBlockRead_of hreset hp hops
    have hrefuse : ∀ why, blockCheck (got ++ [s.mem.word x]) = some why → refused why := fun why hwhy => by
      rw [State.blockArrived_refused _ hwhy, State.endLoad_eq] at hexec
      exact (hrefused why).mpr ⟨_, hexec, finish_ends _ _⟩
    have hone : version = (wordAt (got ++ [s.mem.word x]) 0).toNat := by rw [hversion, hword]; rfl
    obtain rfl : windows = (readLayout (got ++ [s.mem.word x])).windows := hwindows
    generalize hws : got ++ [s.mem.word x] = ws at *
    refine ⟨fun h => hrefuse _ (blockCheck_badVersion (hone ▸ h)), fun h => ?_⟩
    have hcheck := blockCheck_versionOne (hone.symm.trans h)
    refine ⟨fun hcounts => hrefuse _ ?badCount, fun hcounts => ?counts⟩
    case badCount =>
      have hno : ¬ (readLayout ws).countsOk = true := by
        rw [Layout.countsOk, decide_eq_true_eq]
        omega
      rw [hcheck, if_neg hno]
    have hcountsOk : (readLayout ws).countsOk = true := decide_eq_true hcounts
    rw [if_pos hcountsOk] at hcheck
    refine ⟨fun halign => hrefuse _ ?misaligned, fun htop hbases => ?aligned⟩
    case misaligned =>
      have hno : ¬ (readLayout ws).aligned = true := fun hyes => by
        obtain ⟨h1, h2⟩ := (readLayout ws).aligned_iff.mp hyes
        exact halign.elim (fun h => h h1) fun ⟨w, hw, h⟩ => h (h2 w hw)
      rw [hcheck, if_neg hno]
    rw [if_pos ((readLayout ws).aligned_iff.mpr ⟨htop, hbases⟩)] at hcheck
    refine ⟨fun hbelow => hrefuse _ ?outside, fun hlow hends => ?below⟩
    case outside =>
      have hno : ¬ (readLayout ws).belowTop = true := fun hyes => by
        obtain ⟨h1, h2⟩ := (readLayout ws).belowTop_iff.mp hyes
        exact hbelow.elim (fun h => absurd h1 (Nat.not_le.mpr h)) fun ⟨w, hw, h⟩ => absurd (h2 w hw) (Nat.not_le.mpr h)
      rw [hcheck, if_neg hno]
    rw [if_pos ((readLayout ws).belowTop_iff.mpr ⟨hlow, hends⟩)] at hcheck
    refine ⟨fun hpair => hrefuse _ ?overlap, fun hpair => ?passes⟩
    case overlap => rw [hcheck, if_neg fun hyes => hpair ((allDisjoint_iff _).mp hyes)]
    rw [if_pos ((allDisjoint_iff _).mpr hpair)] at hcheck
    rw [State.blockArrived_passes _ hcheck] at hexec
    exact ⟨_, hexec, finish_ends _ _⟩

/-! ## Words of a load's Profile Area (R172, R176) -/

theorem isValueWord_iff (w : Nat) : isValueWord w = true ↔ holdsValue w := by
  simp [isValueWord, holdsValue, or_assoc]

theorem State.guardsBank_iff (s : State) (w : Nat) : s.gate.guardsBank w = true ↔ s.bankGuarded w := by
  rw [Gate.guardsBank, Bool.and_eq_true, decide_eq_true_eq, List.any_eq_true, State.bankGuarded, and_assoc]
  refine and_congr_right fun _ => and_congr_right fun _ => ?_
  constructor
  · rintro ⟨_ | g, hmem, hg⟩
    · cases hg
    · obtain ⟨hr, hb⟩ := (Bool.and_eq_true _ _).mp hg
      exact ⟨g, hmem, beq_iff_eq.mp hr, beq_iff_eq.mp hb⟩
  · rintro ⟨g, hmem, hr, hb⟩
    exact ⟨some g, hmem, (Bool.and_eq_true _ _).mpr ⟨beq_iff_eq.mpr hr, beq_iff_eq.mpr hb⟩⟩

/-- What a change of the profile words makes of the Regulator is one thing. -/
theorem Drum.Watched.unique {old new : DrumProfile} {t : Nat} {d e f : Drum} (he : Drum.Watched old new t d e)
    (hf : Drum.Watched old new t d f) : e = f := by
  have hstall : e.stallTimer = f.stallTimer ∧ e.spinUp = f.spinUp ∧ e.stallDue = f.stallDue ∧ e.spinUpDue = f.spinUpDue := by
    by_cases hn : new.stallPolicy = .off
    · simp [he.stallOff hn, hf.stallOff hn]
    · by_cases ho : old.stallPolicy = .off
      · simp [he.stallOn hn ho, hf.stallOn hn ho]
      · simp [he.stallKept hn ho, hf.stallKept hn ho]
  have hslip : e.slipRun = f.slipRun ∧ e.slipDue = f.slipDue := by
    by_cases h : new.slipPolicy = .off ∨ old.slipPolicy = .off
    · simp [he.slip h, hf.slip h]
    · obtain ⟨hn, ho⟩ := not_or.mp h
      simp [he.slipKept hn ho, hf.slipKept hn ho]
  have hcurrent : e.ocRun = f.ocRun ∧ e.overcurrentDue = f.overcurrentDue := by
    by_cases h : new.overcurrentPolicy = .off ∨ old.overcurrentPolicy = .off
    · simp [he.current h, hf.current h]
    · obtain ⟨hn, ho⟩ := not_or.mp h
      simp [he.currentKept hn ho, hf.currentKept hn ho]
  obtain ⟨h1, h2, h3, h4⟩ := hstall
  obtain ⟨h5, h6⟩ := hslip
  obtain ⟨h7, h8⟩ := hcurrent
  rw [he.rest, hf.rest, h1, h2, h3, h4, h5, h6, h7, h8]

theorem captureForm_whole {data : Word} (h : evenParity data = true) : captureForm 15 data = none := by
  simp [captureForm, h]

theorem captureForm_parity {data : Word} (h : evenParity data = false) : captureForm 15 data = some .parity := by
  simp [captureForm, h]

theorem captureForm_partial {be : ByteEnables} (data : Word) (h : be ≠ 15) : captureForm be data = some .partialBytes :=
  if_pos h

section
variable {u : State} {w : Nat} {data : Word} {be : ByteEnables}

theorem State.tryCapture_refused {kind : CaptureRefusal} (h : captureForm be data = some kind) :
    u.tryCapture w data be = u.refuseCapture w kind := by
  rw [State.tryCapture, h]

theorem State.tryCapture_range (h : captureForm be data = none) (hc : u.profile.capture w data = none) :
    u.tryCapture w data be = u.refuseCapture w .range := by
  rw [State.tryCapture, h]
  dsimp only
  rw [hc]

theorem State.tryCapture_takes {p : Profile} (h : captureForm be data = none) (hc : u.profile.capture w data = some p) :
    u.tryCapture w data be =
      { u with profile := p, drum := u.drum.watchPolicies u.profile.drum p.drum u.now } := by
  rw [State.tryCapture, h]
  dsimp only
  rw [hc]
  rfl

/-- A word of a load that arrives leaves what WordOfLoad says. -/
theorem State.profileArrived_eq {p : Profile} {d : Drum} {ly : LayoutUnit} (h : u.WordOfLoad w data p d ly) :
    u.profileArrived w data = { u with profile := p, drum := d, layout := ly } := by
  obtain ⟨hpassed, hcaptured, hparity, hrange⟩ := h
  by_cases htaken : holdsValue w ∧ ¬ u.bankGuarded w
  · obtain ⟨hv, hb⟩ := htaken
    have hdue : (isValueWord w && !u.gate.guardsBank w) = true := by
      rw [Bool.and_eq_true, Bool.not_eq_true', ← Bool.not_eq_true, isValueWord_iff, u.guardsBank_iff]
      exact ⟨hv, hb⟩
    rw [State.profileArrived, if_pos hdue]
    cases heven : evenParity data with
    | false =>
      obtain ⟨rfl, rfl, rfl⟩ := hparity hv hb heven
      rw [State.tryCapture_refused (captureForm_parity heven)]
      rfl
    | true =>
      cases hc : u.profile.capture w data with
      | none =>
        obtain ⟨rfl, rfl, rfl⟩ := hrange hv hb heven hc
        rw [State.tryCapture_range (captureForm_whole heven) hc]
        rfl
      | some q =>
        obtain ⟨rfl, hd, rfl⟩ := hcaptured q hv hb heven hc
        rw [State.tryCapture_takes (captureForm_whole heven) hc, hd.unique (Drum.watchPolicies_watched _ _ _ _)]
  · have hskip : ¬ (isValueWord w && !u.gate.guardsBank w) = true := by
      rw [Bool.and_eq_true, Bool.not_eq_true', ← Bool.not_eq_true, isValueWord_iff, u.guardsBank_iff]
      exact htaken
    obtain ⟨rfl, rfl, rfl⟩ := hpassed (by tauto)
    rw [State.profileArrived, if_neg hskip]

/-- A word of a load leaves the load as it is. -/
theorem State.WordOfLoad.load_kept {p : Profile} {d : Drum} {ly : LayoutUnit} (h : u.WordOfLoad w data p d ly) :
    ly.load = u.layout.load ∧ ly.reload = u.layout.reload ∧ ly.refusals = u.layout.refusals := by
  obtain ⟨hpassed, hcaptured, hparity, hrange⟩ := h
  by_cases hskip : ¬ holdsValue w ∨ u.bankGuarded w
  · obtain ⟨-, -, rfl⟩ := hpassed hskip
    exact ⟨rfl, rfl, rfl⟩
  · obtain ⟨hv, hb⟩ := not_or.mp hskip
    have hv := not_not.mp hv
    cases heven : evenParity data with
    | false =>
      obtain ⟨-, -, rfl⟩ := hparity hv hb heven
      exact ⟨rfl, rfl, rfl⟩
    | true =>
      cases hc : u.profile.capture w data with
      | none =>
        obtain ⟨-, -, rfl⟩ := hrange hv hb heven hc
        exact ⟨rfl, rfl, rfl⟩
      | some q =>
        obtain ⟨-, -, rfl⟩ := hcaptured q hv hb heven hc
        exact ⟨rfl, rfl, rfl⟩

end

/-! ## The end of a load (R173, R174, R189) -/

/-- The word done, and taken; the last one ends the load. -/
theorem execLoadProfileWord_of {s u : State} {x w : Nat} {todo : List OpWord} {got : List Word} {rest : List Op}
    {data : Word} {p : Profile} {d : Drum} {ly : LayoutUnit} (hreset : s.inReset = false)
    (hp : s.gate.port = some .control)
    (hops : s.gate.ops = { kind := .profileRead, todo := .rd x :: todo, got := got } :: rest) (hw : w = got.length)
    (hdata : data = s.mem.word x) (hword : s.WordOfLoad w data p d ly)
    (hu : u =
      { s with
        profile := p, drum := d, layout := ly
        gate :=
          { s.gate with
            port := none
            ops := if todo = [] then rest else { kind := .profileRead, todo := todo, got := got ++ [data] } :: rest } }) :
    exec .loadProfileWord s = .next (finish s (if todo = [] then u.endOfProfile else u)) := by
  have hload : s.loadWord = some (w, decide (todo = [])) := by
    cases todo <;> simp [State.loadWord, Gate.controlOp_head hp hops, Op.atLast, hw]
  have hread : wordAt s.wordsRead w = data := by
    simp [State.wordsRead, hops, Op.wordDone, wordAt, hw, hdata]
  have harrived : s.controlStep.profileArrived w data = u := by
    rw [State.controlStep_of hops, hu, hdata]
    exact State.profileArrived_eq (hdata ▸ ⟨hword.passed, hword.captured, hword.parity, hword.range⟩)
  refine (show execLoadProfileWord s = _ from live_awake _ s hreset).trans ?_
  simp only [hload, hread, harrived, decide_eq_true_eq]

theorem State.idleForLayout_iff (u : State) :
    u.idleForLayout = true ↔ u.jobs.state = .idle ∧ u.jobs.queue = [] ∧ u.mailbox.backlog = [] := by
  simp [State.idleForLayout, and_assoc]

/-- Settles O53: a word of a load, and the end of a load refused or accepted. -/
theorem profileWordsOfALoad : Obligations.ProfileWordsOfALoad := by
  intro s u x w todo got rest more l data p d ly hreset hp hops hw hdata hload hword hu hmore
  have hexec := execLoadProfileWord_of hreset hp hops hw hdata hword hu
  obtain ⟨hlyload, hlyreload, hlyrefusals⟩ := hword.load_kept
  have hends : todo = [] → u.endOfProfile = u.endProfileLoad l := fun _ => by
    have hul : u.layout.load = some (.profile l) := by rw [hu]; exact hlyload.trans hload
    rw [State.endOfProfile, hul]
  have hops' : todo = [] → u.gate.ops = rest := fun h => by rw [hu]; exact if_pos h
  have hul : u.layout = ly := by rw [hu]
  have hidle : u.idleForLayout = true ↔ s.jobs.state = .idle ∧ s.jobs.queue = [] ∧ s.mailbox.backlog = [] := by
    rw [u.idleForLayout_iff, hu]
  refine ⟨fun h => ⟨_, hexec, finish_ends_of (if_neg h)⟩, fun h hbusy => ⟨_, hexec, finish_ends_of ?busy⟩,
    fun h hst hq hb => ⟨_, hexec, finish_ends_of ?accepted⟩⟩
  case busy =>
    have hno : ¬ u.idleForLayout = true := by
      rw [hidle]
      tauto
    rw [if_pos h, hends h, State.endProfileLoad, if_neg hno, State.endLoad_eq, hul, hlyreload, hlyrefusals, hops' h, hmore]
    cases s.layout.reload <;> simp [blockReadOp]
  case accepted =>
    rw [if_pos h, hends h, State.endProfileLoad, if_pos (hidle.mpr ⟨hst, hq, hb⟩), State.endLoad_eq]
    have hring : u.ring = s.ring := by rw [hu]
    have hmail : u.mailbox = s.mailbox := by rw [hu]
    have hslips : u.slips = s.slips := by rw [hu]
    have hguards : u.gate.guards = s.gate.guards := by rw [hu]
    simp only [State.takeLayout, Gate.takeLayout, hul, hlyreload, hops' h, hmore, hring, hmail, hslips, hguards]
    cases s.layout.reload with
    | true => rfl
    | false =>
      simp only [Bool.false_eq_true, if_false, List.append_nil]
      rfl

end Sys2Proof.Machine
end

section
/-! PROOFS. Captures and the three action words (10_layout_and_profile.md, Capturing profile words, Action words). -/

namespace Sys2Proof.Machine

/-! ## Parity (R176) -/

/-- The exclusive or of a row of bits is the parity of its ones. -/
theorem foldl_xor_eq (f : Nat → Bool) (l : List Nat) (b : Bool) :
    l.foldl (fun p i => p != f i) b = (b != decide ((l.filter f).length % 2 = 1)) := by
  induction l generalizing b with
  | nil => cases b <;> rfl
  | cons i l ih =>
    rw [List.foldl_cons, ih]
    cases hf : f i with
    | false => simp [hf]
    | true =>
      rw [List.filter_cons_of_pos hf, List.length_cons]
      rcases Nat.mod_two_eq_zero_or_one (l.filter f).length with h | h
      · simp [h, Nat.add_mod]
      · simp [h, Nat.add_mod]

theorem evenParity_iff {data : Word} {ones : Nat}
    (h : ones = ((List.range 32).filter fun i => data.getLsbD i).length) : evenParity data = true ↔ ones % 2 = 0 := by
  rw [evenParity, foldl_xor_eq, ← h]
  rcases Nat.mod_two_eq_zero_or_one ones with h | h <;> simp [h]

/-! ## The four commands that act on a write to the Profile Area -/

/-- The command that acts on a write to word w of the Profile Area. -/
def layoutCommand (w : Nat) : Instr :=
  if w = 136 then .clockSet else if w = 137 then .drumClear else if w = 138 then .counterClear else .profileCapture

/-- The action of an action word, none when its field is out of range (R141, R179). -/
def actionOf (w : Nat) (data : Word) : Option (State → State) :=
  if w = 136 then (clockSetTime data).map fun time s => s.withClock (s.clock.setTime time)
  else if actionField data = true then some (if w = 137 then State.clearDrum else State.clearCounters)
  else none

section
variable {s u : State} {w : Nat} {data : Word} {be : ByteEnables} {rest : List LayoutWrite}
  (hreset : s.inReset = false) (htl : s.gate.toLayout = .profile w data be :: rest)
  (hu : u = { s with gate := { s.gate with toLayout := rest } })
include hreset htl hu

theorem execProfileCapture_value (h : holdsValue w) :
    exec .profileCapture s = .next (finish s (u.tryCapture w data be)) := by
  have hw : isAction w = false := by
    unfold holdsValue at h
    simp [isAction, clockSetWord, drumClearWord, counterClearWord]
    omega
  have hpop : s.popLayout = u := by rw [hu, State.popLayout, htl]; rfl
  refine (show execProfileCapture s = _ from live_awake _ s hreset).trans ?_
  simp only [htl, hw, (isValueWord_iff w).mpr h, hpop, Bool.false_eq_true, if_false, if_true]

theorem execProfileCapture_noValue (h : ¬ holdsValue w) (hw : w ∉ [136, 137, 138]) :
    exec .profileCapture s = .next (finish s u) := by
  have hno : isAction w = false := by simpa [isAction, clockSetWord, drumClearWord, counterClearWord, and_assoc] using hw
  have hvalue : isValueWord w = false := by rw [← Bool.not_eq_true, isValueWord_iff]; exact h
  have hpop : s.popLayout = u := by rw [hu, State.popLayout, htl]; rfl
  refine (show execProfileCapture s = _ from live_awake _ s hreset).trans ?_
  simp only [htl, hno, hvalue, hpop, Bool.false_eq_true, if_false]

theorem exec_action (h : w ∈ [136, 137, 138]) :
    exec (layoutCommand w) s = .next (finish s (u.tryAction w data be (actionOf w data))) := by
  have hpop : s.popLayout = u := by rw [hu, State.popLayout, htl]; rfl
  simp only [List.mem_cons, List.not_mem_nil, or_false] at h
  rcases h with rfl | rfl | rfl
  · refine (show execClockSet s = _ from live_awake _ s hreset).trans ?_
    simp only [htl, hpop]
    rfl
  · refine (show execDrumClear s = _ from live_awake _ s hreset).trans ?_
    simp only [htl, hpop]
    rfl
  · refine (show execCounterClear s = _ from live_awake _ s hreset).trans ?_
    simp only [htl, hpop]
    rfl

end

/-- The other three commands find no write of theirs. -/
theorem exec_otherCommand {s : State} {w : Nat} {data : Word} {be : ByteEnables} {rest : List LayoutWrite}
    (hreset : s.inReset = false) (htl : s.gate.toLayout = .profile w data be :: rest) {c : Instr}
    (hc : c ∈ [Instr.profileCapture, .clockSet, .drumClear, .counterClear]) (h : c ≠ layoutCommand w) :
    exec c s = .next (finish s s) := by
  simp only [List.mem_cons, List.not_mem_nil, or_false] at hc
  rcases hc with rfl | rfl | rfl | rfl
  · have hw : isAction w = true := by
      simp only [isAction, clockSetWord, drumClearWord, counterClearWord, Bool.or_eq_true, beq_iff_eq]
      by_contra hno
      exact h (by simp only [layoutCommand]; split_ifs <;> tauto)
    refine (show execProfileCapture s = _ from live_awake _ s hreset).trans ?_
    simp only [htl, hw, if_true]
  · have hw : w ≠ clockSetWord := fun hw => h (by rw [hw]; rfl)
    refine (show execClockSet s = _ from live_awake _ s hreset).trans ?_
    simp only [htl, if_neg hw]
  · have hw : w ≠ drumClearWord := fun hw => h (by rw [hw]; rfl)
    refine (show execDrumClear s = _ from live_awake _ s hreset).trans ?_
    simp only [htl, if_neg hw]
  · have hw : w ≠ counterClearWord := fun hw => h (by rw [hw]; rfl)
    refine (show execCounterClear s = _ from live_awake _ s hreset).trans ?_
    simp only [htl, if_neg hw]

/-! ## Refusals and actions -/

section
variable {u : State} {w : Nat} {data : Word} {be : ByteEnables}

theorem State.tryAction_refused {act : Option (State → State)} {kind : CaptureRefusal}
    (h : captureForm be data = some kind) : u.tryAction w data be act = u.refuseCapture w kind := by
  simp only [State.tryAction, h]

theorem State.tryAction_range (h : captureForm be data = none) :
    u.tryAction w data be none = u.refuseCapture w .range := by
  simp only [State.tryAction, h]

theorem State.tryAction_acts {f : State → State} (h : captureForm be data = none) :
    u.tryAction w data be (some f) = f u := by
  simp only [State.tryAction, h]

end

theorem clockSetTime_eq {data : Word} {hours minutes seconds : Nat} (hh : hours = data.toNat / 65536 % 256)
    (hm : minutes = data.toNat / 256 % 256) (hs : seconds = data.toNat % 256) :
    clockSetTime data =
      if hours ≤ 23 ∧ minutes ≤ 59 ∧ seconds ≤ 59 then
        some { hours := hours, minutes := minutes, seconds := seconds, isSet := true }
      else none := by
  have h0 : field data 0 8 = seconds := by rw [hs]; simp [field]
  have h8 : field data 8 8 = minutes := by rw [hm]; simp [field]
  have h16 : field data 16 8 = hours := by rw [hh]; simp [field]
  simp only [clockSetTime, h0, h8, h16]

theorem actionField_iff (data : Word) : actionField data = true ↔ data.toNat % 2147483648 = 1 := by
  simp [actionField, field]

/-- A latched drum is stopped by the clear, and takes the SPIN it has recorded (R19). -/
theorem Drum.clear_latched {d e : Drum} (p : DrumProfile) (t : Nat) (h : d.state = .latched)
    (he : e =
      { d with
        flagStall := false, flagSlip := false, flagOvercurrent := false, retryCount := 0
        state := .stopped, duty := 0, brake := false, slipRun := 0, ocRun := 0
        stallTimer := none, spinUp := none, rest := none, sampleStart := none, sampleCount := 0
        closedSample := none, measured := 0 }) :
    (d.spinRequest = none → d.clear p t = e) ∧ ∀ v, d.spinRequest = some v → Drum.Spun p t v e (d.clear p t) := by
  constructor
  · intro hnone
    simp only [Drum.clear, h, Drum.setDuty, Drum.enterStopped, hnone, he]
    rfl
  · intro v hv
    have hclear : d.clear p t = e.spin p t v := by
      simp only [Drum.clear, h, Drum.setDuty, Drum.enterStopped, hv, he]
      rfl
    rw [hclear]
    exact Drum.spin_spun_stopped p t v e (by rw [he])

theorem Drum.clear_running {d : Drum} (p : DrumProfile) (t : Nat) (h : d.state ≠ .latched) :
    d.clear p t = { d with flagStall := false, flagSlip := false, flagOvercurrent := false, retryCount := 0 } := by
  unfold Drum.clear
  dsimp only
  split
  next h' => exact absurd h' h
  next => rfl

/-- An action word's field that is out of range. -/
theorem actionOf_none {w : Nat} {data : Word}
    (h : (w = 136 ∧ (23 < data.toNat / 65536 % 256 ∨ 59 < data.toNat / 256 % 256 ∨ 59 < data.toNat % 256)) ∨
      ((w = 137 ∨ w = 138) ∧ data.toNat % 2147483648 ≠ 1)) : actionOf w data = none := by
  rcases h with ⟨rfl, h⟩ | ⟨hw, h⟩
  · rw [actionOf, if_pos rfl, clockSetTime_eq rfl rfl rfl, if_neg (by omega)]
    rfl
  · rw [actionOf, if_neg (by omega), if_neg (fun hf => h ((actionField_iff data).mp hf))]

/-- Settles O54: refusals by kind, captures, and the three action words. -/
theorem capturesAndActionWords : Obligations.CapturesAndActionWords := by
  intro s u w ones data be rest hreset htl hu hones command hcommand
  obtain rfl : command = layoutCommand w := hcommand
  have hparity := evenParity_iff hones
  have hact := fun h : w ∈ [136, 137, 138] => exec_action hreset htl hu h
  have hvalue := fun h : holdsValue w => execProfileCapture_value hreset htl hu h
  have hcapture : holdsValue w → layoutCommand w = .profileCapture := fun h => by
    unfold holdsValue at h
    rw [layoutCommand, if_neg (by omega), if_neg (by omega), if_neg (by omega)]
  have hrefused : ∀ kind, captureForm be data = some kind → holdsValue w ∨ w ∈ [136, 137, 138] →
      exec (layoutCommand w) s = .next (finish s (u.refuseCapture w kind)) := fun kind hkind h => by
    rcases h with h | h
    · rw [hcapture h, hvalue h, State.tryCapture_refused hkind]
    · rw [hact h, State.tryAction_refused hkind]
  have hlayout : u.layout = s.layout := by rw [hu]
  refine ⟨fun h => ⟨fun hbe => ?partialBytes, fun hbe hodd => ?parity⟩, fun hno hw => ?noValue, fun c hc hne => ?others,
    fun _ => s.profile.capture_captured w data, fun hbe heven => ?whole⟩
  case partialBytes =>
    refine ⟨_, hrefused _ (captureForm_partial data hbe) h, finish_ends_of ?_⟩
    rw [← hlayout]
    rfl
  case parity =>
    have hfalse : evenParity data = false := by rw [← Bool.not_eq_true, hparity]; omega
    refine ⟨_, hrefused _ (hbe ▸ captureForm_parity hfalse) h, finish_ends_of ?_⟩
    rw [← hlayout]
    rfl
  case noValue => exact ⟨_, execProfileCapture_noValue hreset htl hu hno hw, finish_ends _ _⟩
  case others => exact ⟨_, exec_otherCommand hreset htl hc hne, finish_ends _ _⟩
  case whole =>
    have hform : captureForm be data = none := hbe ▸ captureForm_whole (hparity.mpr heven)
    have hprofile : u.profile = s.profile := by rw [hu]
    refine ⟨fun hrange => ?range, fun p h hp => ?captured,
      fun hours minutes seconds hw hh hm hs h1 h2 h3 => ?clock, fun hw hf => ?drum, fun hw hf => ?counters⟩
    case range =>
      have hexec : exec (layoutCommand w) s = .next (finish s (u.refuseCapture w .range)) := by
        rcases hrange with ⟨h, hnone⟩ | h
        · rw [hcapture h, hvalue h, State.tryCapture_range hform (hprofile ▸ hnone)]
        · have hw : w ∈ [136, 137, 138] := by
            simp only [List.mem_cons, List.not_mem_nil, or_false]
            tauto
          rw [hact hw, actionOf_none h, State.tryAction_range hform]
      refine ⟨_, hexec, finish_ends_of ?_⟩
      rw [← hlayout]
      rfl
    case captured =>
      have hexec := hvalue h
      rw [State.tryCapture_takes hform (hprofile ▸ hp)] at hexec
      refine ⟨_, _, hexec, ?_, finish_ends _ _⟩
      rw [hu]
      exact Drum.watchPolicies_watched _ _ _ _
    case clock =>
      subst hw
      have hexec := hact (by simp)
      have haction : actionOf 136 data =
          some fun s => s.withClock (s.clock.setTime
            { hours := hours, minutes := minutes, seconds := seconds, isSet := true }) := by
        rw [actionOf, if_pos rfl, clockSetTime_eq hh hm hs, if_pos ⟨h1, h2, h3⟩]
        rfl
      rw [haction, State.tryAction_acts hform] at hexec
      refine ⟨_, hexec, finish_ends_of ?_⟩
      rw [hu]
      rfl
    case drum =>
      subst hw
      have hexec := hact (by simp)
      have haction : actionOf 137 data = some State.clearDrum := by
        rw [actionOf, if_neg (by omega), if_pos ((actionField_iff data).mpr hf), if_pos rfl]
      rw [haction, State.tryAction_acts hform, hu] at hexec
      refine ⟨fun hst => ⟨_, hexec, finish_ends_of ?_⟩, fun d hst hd => ?latched⟩
      · refine (if_neg hst).trans ?_
        rw [State.mapDrum, Drum.clear_running _ _ hst, hu]
        rfl
      case latched =>
        obtain ⟨hnone, hsome⟩ := Drum.clear_latched s.profile.drum s.now hst hd
        refine ⟨_, _, _, hexec, hnone, hsome, ?_, finish_ends_of (if_pos hst)⟩
        rw [hu]
        exact State.look_looked _
    case counters =>
      subst hw
      have hexec := hact (by simp)
      have haction : actionOf 138 data = some State.clearCounters := by
        rw [actionOf, if_neg (by omega), if_pos ((actionField_iff data).mpr hf), if_neg (by omega)]
      rw [haction, State.tryAction_acts hform, hu] at hexec
      refine ⟨_, hexec, finish_ends_of ?_⟩
      rw [hu]
      rfl

end Sys2Proof.Machine
end

section
/-! PROOFS. RESET and its release, and the read that waits for it (09_the_memory_path.md, What the host sees;
10_layout_and_profile.md, Loading). -/

namespace Sys2Proof.Machine

/-! ## The word in progress at RESET (R168) -/

/-- What RESET makes of the read on the bus. -/
theorem State.gateAtReset_read (s : State) :
    (∀ r, s.gate.read = some r →
      (s.gate.port = some .hostRead → s.gateAtReset.read = none ∧ s.gateAtReset.readData = s.mem.word r.target) ∧
      (s.gate.port ≠ some .hostRead →
        s.gateAtReset.read = some { addr := r.addr, target := r.addr, held := none } ∧
        s.gateAtReset.readData = s.gate.readData)) ∧
    (s.gate.read = none → s.gateAtReset.read = none ∧ s.gateAtReset.readData = s.gate.readData) := by
  refine ⟨fun r hr => ⟨fun hp => ?_, fun hp => ?_⟩, fun hr => ?_⟩
  · simp [State.gateAtReset, hr, hp, Gate.reset]
  · simp [State.gateAtReset, hr, hp]
  · simp [State.gateAtReset, hr, Gate.reset]

theorem State.gateAtReset_rest (s : State) :
    s.gateAtReset =
      { buffer := [], waiting := s.gate.waiting, guards := List.replicate 12 none, read := s.gateAtReset.read
        readData := s.gateAtReset.readData, port := none, marks := List.replicate 64 false, dropped := 0
        droppedAddr := 0, droppedReason := none, ops := [], toMailbox := [], toLayout := [] } := by
  unfold State.gateAtReset
  dsimp only
  cases s.gate.read with
  | none => rfl
  | some r =>
    dsimp only
    split <;> rfl

theorem State.memAtReset_of {s : State} {x : Option Access} (h : s.portWrite = x) :
    s.memAtReset = (x.map s.mem.write).getD s.mem := by
  rw [State.memAtReset, h]
  cases x <;> rfl

/-- Settles O55: each block's reset values, and what the word in progress leaves. -/
theorem resetLeavesTheStatedValues : Obligations.ResetLeavesTheStatedValues := by
  intro s
  obtain ⟨hread, hnone⟩ := s.gateAtReset_read
  refine ⟨s.assertReset, rfl, rfl, rfl, rfl, rfl, rfl, rfl, rfl, rfl, rfl, rfl, rfl, rfl, rfl, rfl, rfl,
    s.gateAtReset_rest, hread, hnone, fun hp => ?quiet, fun x live hp => ?scan, fun w rest hp hb => ?host,
    fun kind x todo got rest hp hops => ?controlWrite, fun kind a todo got rest hp hops => ?controlRead,
    fun seq x todo rest hp hlog => ?slipLog⟩
  case quiet =>
    refine State.memAtReset_of (x := none) ?_
    rcases hp with h | h | ⟨a, n, b, h⟩ <;> simp [State.portWrite, h]
  case scan =>
    refine State.memAtReset_of (x := some x) ?_
    rcases hp with h | h <;> simp [State.portWrite, h]
  case host =>
    refine State.memAtReset_of (x := some { addr := w.addr, be := w.be, data := w.data }) ?_
    simp [State.portWrite, hp, hb, HostWrite.access]
  case controlWrite =>
    refine State.memAtReset_of (x := some x) ?_
    simp [State.portWrite, hp, hops]
  case controlRead =>
    refine State.memAtReset_of (x := none) ?_
    simp [State.portWrite, hp, hops]
  case slipLog =>
    refine State.memAtReset_of (x := some x) ?_
    simp [State.portWrite, hp, hlog, SlipUnit.nextLogWord]

/-! ## The read that a step's end leaves (R154, R160, R161) -/

/-- A read that is held exactly as it would be sorted now is left by the step's end. -/
theorem finish_read_still {old new : State} (h : ∀ r, new.gate.read = some r → r.held = new.sortRead r.target) :
    (finish old new).gate.read = new.gate.read := by
  rw [finish_read]
  cases hr : new.gate.read with
  | none => simp [State.resortRead, hr]
  | some r =>
    cases hheld : r.held with
    | none => simp [State.resortRead, hr, hheld]
    | some cause =>
      have hholds : new.holds r.target cause = true := by
        have hsort : new.sortRead r.target = some cause := (h r hr).symm.trans hheld
        unfold State.sortRead at hsort
        split_ifs at hsort with h1 h2
        · cases hsort
          exact h1
        · cases hsort
          exact h2
      simp [State.resortRead, hr, hheld, hholds]

/-! ## The release (R140, R150, R155, R170) -/

/-- Before a layout is in force and with no guard, nothing is covered. -/
theorem State.covered_none {s : State} {a : Nat} (hl : s.layout.inForce = none) (hg : ∀ g ∈ s.gate.guards, g = none)
    (r : DropReason) : ¬ s.covered a r := by
  have hlist : ¬ ∃ g, some g ∈ s.gate.guards ∧ g.reason = r ∧ g.base ≤ a ∧ a < g.base + g.length :=
    fun ⟨g, hmem, _⟩ => absurd (hg _ hmem) (by simp)
  cases r with
  | ring => rintro ⟨l, hl', -⟩; simp [hl] at hl'
  | history => rintro ⟨l, hl', -⟩; simp [hl] at hl'
  | statusPage => exact hlist
  | preview => exact hlist
  | tcb => exact hlist
  | toneBank => exact hlist

theorem State.acceptWaiting_posts {s : State} (hl : s.layout.inForce = none) (hb : s.gate.buffer = [])
    (hg : ∀ g ∈ s.gate.guards, g = none) :
    s.acceptWaiting = { s with gate := { s.gate with buffer := s.gate.waiting.toList, waiting := none } } := by
  unfold State.acceptWaiting
  cases hw : s.gate.waiting with
  | none =>
    have hself : { s with gate := { s.gate with buffer := [], waiting := none } } = s := by rw [← hb, ← hw]
    exact hself.symm
  | some w =>
    refine (State.acceptWrite_posted (s := { s with gate := { s.gate with waiting := none } }) (w := w)
      (State.dropReason_none (State.covered_none hl hg)) (by simp [hb])).trans ?_
    simp [hb]

/-- The state that the release leaves, with the read that it has sorted. -/
def State.released (s : State) (read : Option HostRead) : State :=
  { s with
    inReset := false
    clock := { s.clock with nextTick := some (s.now + 1000000) }
    drum := { s.drum with pwm := { s.drum.pwm with start := s.crystal } }
    slips :=
      if s.slips.paper = true then s.slips
      else
        { s.slips with
          printer := .paperOut, paperTimer := none
          txd := s.slips.txd.map fun ch => { ch with orphan := true } }
    layout := { s.layout with load := some .block }
    gate :=
      { s.gate with
        buffer := s.gate.waiting.toList, waiting := none, read := read, ops := s.gate.ops ++ [blockReadOp] } }

theorem State.examinePaper_eq (u : State) :
    u.examinePaper =
      { u with
        slips :=
          if u.slips.paper = true then u.slips
          else
            { u.slips with
              printer := .paperOut, paperTimer := none
              txd := u.slips.txd.map fun ch => { ch with orphan := true } } } := by
  by_cases hp : u.slips.paper = true
  · rw [State.examinePaper, if_pos hp, if_pos hp]
  · rw [State.examinePaper, if_neg hp, if_neg hp]
    rfl

theorem execResetRelease_released {s : State} (hreset : s.inReset = true) (hl : s.layout.inForce = none)
    (hb : s.gate.buffer = []) (hg : ∀ g ∈ s.gate.guards, g = none) :
    exec .resetRelease s =
      .next (finish s (s.released (s.gate.read.map (s.released none).sorted))) := by
  have haccept : s.startClocks.acceptWaiting =
      { s.startClocks with gate := { s.gate with buffer := s.gate.waiting.toList, waiting := none } } :=
    State.acceptWaiting_posts hl hb hg
  refine (show execResetRelease s = _ from ?_)
  rw [execResetRelease, if_pos hreset, haccept, State.beginLoad_eq, State.examinePaper_eq]
  rfl

/-- The read that the release sorts is left by the step's end. -/
theorem State.released_read (s : State) :
    (finish s (s.released (s.gate.read.map (s.released none).sorted))).gate.read =
      s.gate.read.map (s.released none).sorted := by
  refine finish_read_still fun r hr => ?_
  obtain ⟨q, -, rfl⟩ := Option.map_eq_some_iff.mp hr
  rfl

/-- Settles O56: the waiting write, the clocks, the paper, the first load and the waiting read. -/
theorem theReleaseBeginsTheFirstLoad : Obligations.TheReleaseBeginsTheFirstLoad := by
  intro s hreset hl hb hg
  refine ⟨_, execResetRelease_released hreset hl hb hg, ?_, fun r hr hw => ?_⟩
  · rw [s.released_read]
    exact finish_ends _ _
  · rw [s.released_read, hr, Option.map_some]
    simp [State.sorted, State.readTarget, State.sortRead, Gate.pendingAt, State.fillingAt, State.released, hl, hw]

/-! ## Host reads (R75, R154, R160 to R162, R164) -/

/-- The best slot among the first n for the preview: one of the frame's complete lines, none below it. -/
structure Ring.BestSlot (r : Ring) (frame n : Nat) (best : Option (Nat × Nat)) : Prop where
  found : ∀ m x, best = some (m, x) → m < n ∧ (r.slot m).frame = frame ∧ (r.slot m).state.complete = true ∧
    (r.slot m).line = x
  highest : ∀ m, m < n → (r.slot m).frame = frame → (r.slot m).state.complete = true →
    ∃ k x, best = some (k, x) ∧ (r.slot m).line ≤ x

theorem Ring.bestSlot (r : Ring) (frame n : Nat) :
    r.BestSlot frame n ((List.range n).foldl
      (fun best m =>
        let e := r.slot m
        if e.state.complete && e.frame == frame then betterSlot best m e.line else best) none) := by
  induction n with
  | zero => exact ⟨fun m x h => by simp at h, fun m hm => absurd hm (Nat.not_lt_zero m)⟩
  | succ n ih =>
    rw [List.range_succ, List.foldl_append, List.foldl_cons, List.foldl_nil]
    generalize (List.range n).foldl _ none = best at ih ⊢
    obtain ⟨hfound, hhighest⟩ := ih
    dsimp only
    split
    next hn =>
      rw [Bool.and_eq_true, beq_iff_eq] at hn
      obtain ⟨hcomplete, hframe⟩ := hn
      cases best with
      | none =>
        refine ⟨fun m x h => ?_, fun m hm hf hc => ?_⟩
        · cases h
          exact ⟨Nat.lt_succ_self n, hframe, hcomplete, rfl⟩
        · rcases Nat.lt_succ_iff_lt_or_eq.mp hm with hlt | rfl
          · obtain ⟨k, x, hk, -⟩ := hhighest m hlt hf hc
            cases hk
          · exact ⟨_, _, rfl, Nat.le_refl _⟩
      | some b =>
        obtain ⟨k, x⟩ := b
        simp only [betterSlot]
        split
        next hlt =>
          refine ⟨fun m y h => ?_, fun m hm hf hc => ?_⟩
          · cases h
            exact ⟨Nat.lt_succ_self n, hframe, hcomplete, rfl⟩
          · rcases Nat.lt_succ_iff_lt_or_eq.mp hm with hm | rfl
            · obtain ⟨k', x', hk, hle⟩ := hhighest m hm hf hc
              cases hk
              exact ⟨_, _, rfl, by omega⟩
            · exact ⟨_, _, rfl, Nat.le_refl _⟩
        next hge =>
          refine ⟨fun m y h => ?_, fun m hm hf hc => ?_⟩
          · obtain ⟨h1, h2⟩ := hfound m y h
            exact ⟨Nat.lt_succ_of_lt h1, h2⟩
          · rcases Nat.lt_succ_iff_lt_or_eq.mp hm with hm | rfl
            · exact hhighest m hm hf hc
            · exact ⟨_, _, rfl, by omega⟩
    next hn =>
      refine ⟨fun m y h => ?_, fun m hm hf hc => ?_⟩
      · obtain ⟨h1, h2⟩ := hfound m y h
        exact ⟨Nat.lt_succ_of_lt h1, h2⟩
      · rcases Nat.lt_succ_iff_lt_or_eq.mp hm with hm | rfl
        · exact hhighest m hm hf hc
        · exact absurd ((Bool.and_eq_true _ _).mpr ⟨hc, beq_iff_eq.mpr hf⟩) hn

theorem SlotState.complete_iff (st : SlotState) : st.complete = true ↔ st ∈ [SlotState.filled, .sending, .sent, .held] := by
  cases st <;> simp [SlotState.complete]

/-- The preview's slot holds the highest complete line of the frame, and there is none only when no slot does. -/
theorem Ring.previewSlot_highest (r : Ring) (frame : Nat) :
    (∀ n, r.previewSlot frame = some n → n < r.slots.length ∧ (r.slot n).frame = frame ∧
      (r.slot n).state ∈ [SlotState.filled, .sending, .sent, .held] ∧
      ∀ m < r.slots.length, (r.slot m).frame = frame → (r.slot m).state ∈ [SlotState.filled, .sending, .sent, .held] →
        (r.slot m).line ≤ (r.slot n).line) ∧
    (r.previewSlot frame = none → ∀ m < r.slots.length, (r.slot m).frame = frame →
      (r.slot m).state ∉ [SlotState.filled, .sending, .sent, .held]) := by
  obtain ⟨hfound, hhighest⟩ := r.bestSlot frame r.slots.length
  simp only [← SlotState.complete_iff]
  refine ⟨fun n hn => ?_, fun hnone m hm hf hc => ?_⟩
  · obtain ⟨⟨k, x⟩, hk, rfl⟩ := Option.map_eq_some_iff.mp hn
    obtain ⟨h1, h2, h3, h4⟩ := hfound k x hk
    refine ⟨h1, h2, h3, fun m hm hf hc => ?_⟩
    obtain ⟨k', x', hk', hle⟩ := hhighest m hm hf hc
    obtain ⟨rfl, rfl⟩ := Prod.mk.inj (Option.some.inj (hk.symm.trans hk'))
    exact h4 ▸ hle
  · obtain ⟨k, x, hk, -⟩ := hhighest m hm hf hc
    rw [Ring.previewSlot, Option.map_eq_none_iff] at hnone
    exact absurd (hk.symm.trans hnone) (by simp)

end Sys2Proof.Machine
end

section
/-! PROOFS. No operation of a block gives the memory port away or takes it, and none marks a Status Page word but the
acceptance of a layout: the word in progress goes on, though its result may no longer be wanted (09_the_memory_path.md,
The memory port, The Status Writer). -/

namespace Sys2Proof.Machine

/-! ## The word in progress (R163, R32, R66) -/

theorem PortWord.goesOnAs_refl (w : PortWord) : w.goesOnAs w := .inl rfl

theorem PortWord.goesOnAs.trans {v w x : PortWord} (h : v.goesOnAs w) (h' : w.goesOnAs x) : v.goesOnAs x := by
  rcases h with rfl | ⟨a, n, b, rfl, rfl⟩ | ⟨a, b, rfl, rfl⟩ | ⟨a, b, rfl, rfl⟩
  · exact h'
  · rcases h' with rfl | ⟨a', n', b', ha, rfl⟩ | ⟨a', b', ha, rfl⟩ | ⟨a', b', ha, rfl⟩
    · exact .inr (.inl ⟨a, n, b, rfl, rfl⟩)
    · cases ha
      exact .inr (.inl ⟨a, n, b, rfl, rfl⟩)
    · cases ha
    · cases ha
  · rcases h' with rfl | ⟨a', n', b', ha, rfl⟩ | ⟨a', b', ha, rfl⟩ | ⟨a', b', ha, rfl⟩
    · exact .inr (.inr (.inl ⟨a, b, rfl, rfl⟩))
    · cases ha
    · cases ha
      exact .inr (.inr (.inl ⟨a, b, rfl, rfl⟩))
    · cases ha
  · rcases h' with rfl | ⟨a', n', b', ha, rfl⟩ | ⟨a', b', ha, rfl⟩ | ⟨a', b', ha, rfl⟩
    · exact .inr (.inr (.inr ⟨a, b, rfl, rfl⟩))
    · cases ha
    · cases ha
    · cases ha
      exact .inr (.inr (.inr ⟨a, b, rfl, rfl⟩))

theorem PortWord.goesOnAs_dropScan (w : PortWord) : w.goesOnAs w.dropScan := by
  cases w with
  | scanEntry x b => exact .inr (.inr (.inl ⟨x, b, rfl, rfl⟩))
  | scanHeader x b => exact .inr (.inr (.inr ⟨x, b, rfl, rfl⟩))
  | prefetch _ _ _ => exact .inl rfl
  | hostRead => exact .inl rfl
  | hostWrite => exact .inl rfl
  | control => exact .inl rfl
  | slipLog => exact .inl rfl

theorem PortWord.goesOnAs_dropPrefetch (w : PortWord) : w.goesOnAs w.dropPrefetch := by
  cases w with
  | prefetch a n b => exact .inr (.inl ⟨a, n, b, rfl, rfl⟩)
  | scanEntry _ _ => exact .inl rfl
  | scanHeader _ _ => exact .inl rfl
  | hostRead => exact .inl rfl
  | hostWrite => exact .inl rfl
  | control => exact .inl rfl
  | slipLog => exact .inl rfl

/-- The Gate `h` has the marks of `g`, its host read, and its word in progress, wanted or no longer. -/
structure Gate.Runs (g h : Gate) : Prop where
  marks : h.marks = g.marks
  read : h.read = g.read
  port : Option.Rel PortWord.goesOnAs g.port h.port

theorem rel_trans_map {α : Type} {r : α → α → Prop} {f : α → α} (hf : ∀ a, r a (f a))
    (ht : ∀ a b c, r a b → r b c → r a c) {x y : Option α} (h : Option.Rel r x y) :
    Option.Rel r x (y.map f) := by
  cases h with
  | none => exact .none
  | some h => exact .some (ht _ _ _ h (hf _))

@[simp] theorem Gate.Runs.refl (g : Gate) : g.Runs g where
  marks := rfl
  read := rfl
  port := by
    cases g.port with
    | none => exact .none
    | some w => exact .some w.goesOnAs_refl

/-- The other fields of the Gate do not count. -/
theorem Gate.Runs.of_eq {g h k : Gate} (r : g.Runs h) (hm : k.marks = h.marks) (hr : k.read = h.read)
    (hp : k.port = h.port) : g.Runs k :=
  ⟨hm.trans r.marks, hr.trans r.read, hp ▸ r.port⟩

@[simp] theorem Gate.runs_mk {g : Gate} {buffer : List HostWrite} {waiting : Option HostWrite}
    {guards : List (Option Guard)} {read : Option HostRead} {readData : Word} {port : Option PortWord}
    {marks : List Bool} {dropped droppedAddr : Nat} {droppedReason : Option DropReason} {ops : List Op}
    {toMailbox : List MailboxWrite} {toLayout : List LayoutWrite} :
    g.Runs
        { buffer, waiting, guards, read, readData, port, marks, dropped, droppedAddr, droppedReason, ops, toMailbox,
          toLayout } ↔
      marks = g.marks ∧ read = g.read ∧ Option.Rel PortWord.goesOnAs g.port port :=
  ⟨fun h => ⟨h.marks, h.read, h.port⟩, fun ⟨hm, hr, hp⟩ => ⟨hm, hr, hp⟩⟩

/-! ## The Gate's own operations -/

@[simp] theorem Gate.dropScan_runs {g k : Gate} (h : g.Runs k) : g.Runs k.dropScan :=
  ⟨h.marks, h.read,
    rel_trans_map PortWord.goesOnAs_dropScan (fun _ _ _ => PortWord.goesOnAs.trans) h.port⟩

@[simp] theorem Gate.dropPrefetch_runs {g k : Gate} (h : g.Runs k) : g.Runs k.dropPrefetch :=
  ⟨h.marks, h.read,
    rel_trans_map PortWord.goesOnAs_dropPrefetch (fun _ _ _ => PortWord.goesOnAs.trans) h.port⟩

@[simp] theorem Gate.issue_runs {g k : Gate} (op : Op) (h : g.Runs k) : g.Runs (k.issue op) := by
  simp [Gate.issue, h.marks, h.port, h.read]

@[simp] theorem Gate.drop_runs {g k : Gate} (a : Nat) (why : DropReason) (h : g.Runs k) : g.Runs (k.drop a why) := by
  simp [Gate.drop, h.marks, h.port, h.read]

@[simp] theorem Gate.forgetReturns_runs {g k : Gate} (n : Nat) (h : g.Runs k) : g.Runs (k.forgetReturns n) := by
  simp [Gate.forgetReturns, h.marks, h.port, h.read]

@[simp] theorem Gate.forgetSends_runs {g k : Gate} (e : Nat) (h : g.Runs k) : g.Runs (k.forgetSends e) := by
  simp [Gate.forgetSends, h.marks, h.port, h.read]

@[simp] theorem Gate.clearCounters_runs {g k : Gate} (h : g.Runs k) : g.Runs k.clearCounters := by
  simp [Gate.clearCounters, h.marks, h.port, h.read]

@[simp] theorem Gate.placeGuards_runs {g k : Gate} (gs : List Guard) (h : g.Runs k) : g.Runs (k.placeGuards gs) := by
  simp [Gate.placeGuards, h.marks, h.port, h.read]

/-! ## The operations of the blocks -/

@[simp] theorem State.issue_runs {g : Gate} {s : State} (kind : OpKind) (todo : List OpWord) (h : g.Runs s.gate) :
    g.Runs (s.issue kind todo).gate := by
  simp [State.issue, h]

@[simp] theorem State.issueAll_runs {g : Gate} {s : State} (ops : List (OpKind × List OpWord)) (h : g.Runs s.gate) :
    g.Runs (s.issueAll ops).gate := by
  unfold State.issueAll
  induction ops generalizing s with
  | nil => exact h
  | cons op ops ih => exact ih (State.issue_runs _ _ h)

@[simp] theorem State.slideLast_runs {g : Gate} {s : State} (base ahead : Nat) (h : g.Runs s.gate) :
    g.Runs (s.slideLast base ahead).gate := by
  simp [State.slideLast, h.marks, h.port, h.read]

@[simp] theorem State.acceptWrite_runs {g : Gate} {s : State} (w : HostWrite) (h : g.Runs s.gate) :
    g.Runs (s.acceptWrite w).gate := by
  unfold State.acceptWrite
  (repeat' split) <;> simp [h, h.marks, h.port, h.read]

@[simp] theorem State.acceptWaiting_runs {g : Gate} {s : State} (h : g.Runs s.gate) :
    g.Runs s.acceptWaiting.gate := by
  unfold State.acceptWaiting
  split
  · exact State.acceptWrite_runs _ (h.of_eq rfl rfl rfl)
  · exact h

@[simp] theorem State.post_runs {g : Gate} {s : State} (c : Completion) (h : g.Runs s.gate) :
    g.Runs (s.post c).gate := by
  unfold State.post
  exact State.issue_runs _ _ h

@[simp] theorem State.handOn_runs {g : Gate} {s : State} (c : Completion) (h : g.Runs s.gate) :
    g.Runs (s.handOn c).gate := by
  unfold State.handOn
  split <;> simp [h]

@[simp] theorem State.handOnAll_runs {g : Gate} {s : State} (cs : List Completion) (h : g.Runs s.gate) :
    g.Runs (s.handOnAll cs).gate := by
  unfold State.handOnAll
  induction cs generalizing s with
  | nil => exact h
  | cons c cs ih => exact ih (State.handOn_runs c h)

@[simp] theorem State.postBacklog_runs {g : Gate} {s : State} (cs : List Completion) (h : g.Runs s.gate) :
    g.Runs (State.postBacklog cs s).gate := by
  induction cs generalizing s with
  | nil => exact h
  | cons c cs ih =>
    unfold State.postBacklog
    split
    · exact ih (State.post_runs c h)
    · exact h

@[simp] theorem State.posted_runs {g : Gate} {s : State} (slot : Option Nat) (quiet : Bool) (h : g.Runs s.gate) :
    g.Runs (s.posted slot quiet).gate := by
  unfold State.posted
  split <;> simp [h]

@[simp] theorem State.beginTake_runs {g : Gate} {s : State} (h : g.Runs s.gate) : g.Runs s.beginTake.gate := by
  unfold State.beginTake
  exact State.issue_runs _ _ h

@[simp] theorem State.entryRead_runs {g : Gate} {s : State} (e : Nat) (h : g.Runs s.gate) :
    g.Runs (s.entryRead e).gate := by
  unfold State.entryRead
  split <;> simp [h]

@[simp] theorem State.endTake_runs {g : Gate} {s : State} (h : g.Runs s.gate) : g.Runs s.endTake.gate := by
  unfold State.endTake
  split
  · exact h
  · exact State.issue_runs _ _ h

@[simp] theorem State.endTakeAmong_runs {g : Gate} {s : State} (base ahead : Nat) (h : g.Runs s.gate) :
    g.Runs (s.endTakeAmong base ahead).gate := by
  simp [State.endTakeAmong, h]

@[simp] theorem State.popMailbox_runs {g : Gate} {s : State} (h : g.Runs s.gate) : g.Runs s.popMailbox.gate := by
  simp [State.popMailbox, h.marks, h.port, h.read]

@[simp] theorem State.popLayout_runs {g : Gate} {s : State} (h : g.Runs s.gate) : g.Runs s.popLayout.gate := by
  simp [State.popLayout, h.marks, h.port, h.read]

@[simp] theorem State.beginLoad_runs {g : Gate} {s : State} (h : g.Runs s.gate) : g.Runs s.beginLoad.gate := by
  unfold State.beginLoad
  exact State.issue_runs _ _ h

@[simp] theorem State.endLoad_runs {g : Gate} {s : State} (result : LoadResult) (reason : Option LoadReason)
    (h : g.Runs s.gate) :
    g.Runs (s.endLoad result reason).gate := by
  unfold State.endLoad
  extract_lets _ ended
  have same : g.Runs ended.gate := h
  split
  · exact State.beginLoad_runs same
  · exact same

@[simp] theorem State.blockArrived_runs {g : Gate} {s : State} (words : List Word) (h : g.Runs s.gate) :
    g.Runs (s.blockArrived words).gate := by
  unfold State.blockArrived
  split
  · exact State.endLoad_runs _ _ h
  · exact State.issue_runs _ _ h

@[simp] theorem State.generationWritten_runs {g : Gate} {s : State} (h : g.Runs s.gate) :
    g.Runs s.generationWritten.gate := by
  unfold State.generationWritten
  split <;> simp [h]

@[simp] theorem State.clearCounters_runs {g : Gate} {s : State} (h : g.Runs s.gate) :
    g.Runs s.clearCounters.gate := by
  simp [State.clearCounters, h]

@[simp] theorem State.nextCurrent_runs {g : Gate} {s : State} (h : g.Runs s.gate) : g.Runs s.nextCurrent.gate := by
  unfold State.nextCurrent
  split <;> simp [h]

@[simp] theorem State.queueChain_runs {g : Gate} {s : State} (j : Job) (h : g.Runs s.gate) :
    g.Runs (s.queueChain j).gate := by
  unfold State.queueChain
  exact State.nextCurrent_runs h

@[simp] theorem State.startAttempt_runs {g : Gate} {s : State} (n : Nat) (h : g.Runs s.gate) :
    g.Runs (s.startAttempt n).gate := by
  unfold State.startAttempt
  exact State.issue_runs _ _ h

@[simp] theorem State.look_runs {g : Gate} {s : State} (h : g.Runs s.gate) : g.Runs s.look.gate := by
  unfold State.look
  (repeat' split) <;> simp [h]

@[simp] theorem State.leaveMountWait_runs {g : Gate} {s : State} (h : g.Runs s.gate) :
    g.Runs s.leaveMountWait.gate := by
  unfold State.leaveMountWait
  split
  · exact State.look_runs h
  · exact h

@[simp] theorem State.serveBacklog_runs {g : Gate} {s : State} (h : g.Runs s.gate) : g.Runs s.serveBacklog.gate := by
  unfold State.serveBacklog
  dsimp only
  (repeat' split) <;> simp [h]

@[simp] theorem State.enterFinishing_runs {g : Gate} {s : State} (h : g.Runs s.gate) :
    g.Runs s.enterFinishing.gate := by
  unfold State.enterFinishing
  split
  · exact State.issueAll_runs _ h
  · exact h

@[simp] theorem State.scanStop_runs {g : Gate} {s : State} (h : g.Runs s.gate) : g.Runs s.scanStop.gate := by
  unfold State.scanStop
  split <;> simp [h]

@[simp] theorem State.lampOff_runs {g : Gate} {s : State} (h : g.Runs s.gate) : g.Runs s.lampOff.gate := by
  simp [State.lampOff, h]

@[simp] theorem State.truncateFrame_runs {g : Gate} {s : State} (h : g.Runs s.gate) :
    g.Runs s.truncateFrame.gate := by
  unfold State.truncateFrame
  (repeat' split) <;> simp [h]

@[simp] theorem State.takeTruncation_runs {g : Gate} {s : State} (h : g.Runs s.gate) :
    g.Runs s.takeTruncation.gate := by
  unfold State.takeTruncation
  split
  · exact State.truncateFrame_runs h
  · exact h

@[simp] theorem State.finalizeJob_runs {g : Gate} {s : State} (cause : Cause) (h : g.Runs s.gate) :
    g.Runs (s.finalizeJob cause).gate := by
  have off := State.lampOff_runs h
  exact State.enterFinishing_runs (off.of_eq rfl rfl rfl)

@[simp] theorem State.endLate_runs {g : Gate} {s : State} (base : Nat) (cause : Cause) (h : g.Runs s.gate) :
    g.Runs (s.endLate base cause).gate := by
  have final : ∀ u : State, g.Runs u.gate → g.Runs (u.finalizeJob cause).gate := fun _ =>
    State.finalizeJob_runs cause
  unfold State.endLate
  dsimp only
  (repeat' split)
  · exact State.endTakeAmong_runs _ _ (final _ (by simpa using h))
  · exact State.endTakeAmong_runs _ _ (final _ h)
  · exact final _ (by simpa using h)
  · exact final _ h

@[simp] theorem State.issueHistory_runs {g : Gate} {s : State} (h : g.Runs s.gate) : g.Runs s.issueHistory.gate := by
  simp [State.issueHistory, h]

@[simp] theorem State.settle_runs {g : Gate} {s : State} (h : g.Runs s.gate) : g.Runs s.settle.gate := by
  unfold State.settle
  dsimp only
  split
  · split
    · exact State.lampOff_runs h
    · exact h
  · split
    · exact State.lampOff_runs h
    · exact h

@[simp] theorem State.afterRecord_runs {g : Gate} {s : State} (base : Nat) (o : AttemptOutcome) (h : g.Runs s.gate) :
    g.Runs (s.afterRecord base o).gate := by
  unfold State.afterRecord
  split
  · split
    · exact State.endLate_runs _ _ h
    · exact h
  · split
    · exact State.finalizeJob_runs _ h
    · split
      · exact State.enterFinishing_runs h
      · exact State.look_runs (State.settle_runs h)

@[simp] theorem State.takeRecord_runs {g : Gate} {s : State} (h : g.Runs s.gate) : g.Runs s.takeRecord.gate := by
  unfold State.takeRecord
  split
  · exact State.afterRecord_runs _ _ (State.issueHistory_runs (State.scanStop_runs h))
  · exact h

@[simp] theorem State.finishJob_runs {g : Gate} {s : State} (h : g.Runs s.gate) : g.Runs s.finishJob.gate := by
  unfold State.finishJob
  split
  · next j _ =>
    have on := State.handOnAll_runs (j.completions s.jobs.endCause s.jobs.progress) h
    refine State.nextCurrent_runs ?_
    have off := State.lampOff_runs (s := (s.handOnAll (j.completions s.jobs.endCause s.jobs.progress)).withGate
      ((s.handOnAll (j.completions s.jobs.endCause s.jobs.progress)).gate.placeGuards [])) (Gate.placeGuards_runs [] on)
    simpa using off
  · exact h

@[simp] theorem State.closeTurn_runs {g : Gate} {s : State} (h : g.Runs s.gate) : g.Runs s.closeTurn.gate := by
  simp [State.closeTurn, h]

@[simp] theorem State.endAttempt_runs {g : Gate} {s : State} (o : AttemptOutcome) (d : Detail) (tone : Bool)
    (h : g.Runs s.gate) :
    g.Runs (s.endAttempt o d tone).gate := by
  simp [State.endAttempt, h]

@[simp] theorem State.cut_runs {g : Gate} {s : State} (cause : Cause) (h : g.Runs s.gate) :
    g.Runs (s.cut cause).gate := by
  unfold State.cut
  (repeat' split) <;> simp [h]

@[simp] theorem State.takeBandLost_runs {g : Gate} {s : State} (h : g.Runs s.gate) : g.Runs s.takeBandLost.gate := by
  unfold State.takeBandLost
  split
  · split
    · exact State.endAttempt_runs _ _ _ h
    · exact h
  · exact h

/-- The state to which `endJob` gives its cut: the cause set, and the loss of the band taken where it is first. -/
def State.endedFirst (cause : Cause) (bandLostFirst : Bool) (s : State) : State :=
  let s := s.mapJobs fun j => { j with endCause := some cause }
  if bandLostFirst then s.takeBandLost else s

@[simp] theorem State.endJob_runs {g : Gate} {s : State} (cause : Cause) (bandLostFirst : Bool) (h : g.Runs s.gate) :
    g.Runs (s.endJob cause bandLostFirst).gate := by
  have first : g.Runs (State.endedFirst cause bandLostFirst s).gate := by
    unfold State.endedFirst
    split
    · exact State.takeBandLost_runs h
    · exact h
  refine State.finalizeJob_runs cause ?_
  change g.Runs (if (State.endedFirst cause bandLostFirst s).jobs.attemptInProgress then
    (State.endedFirst cause bandLostFirst s).cut cause else State.endedFirst cause bandLostFirst s).gate
  split
  · exact State.cut_runs cause first
  · exact first

@[simp] theorem State.endJobAs_runs {g : Gate} {s : State} (late : Bool) (cause : Cause) (h : g.Runs s.gate) :
    g.Runs (s.endJobAs late cause).gate := by
  unfold State.endJobAs
  split <;> simp [h]

@[simp] theorem State.completeEnd_runs {g : Gate} {s : State} (h : g.Runs s.gate) : g.Runs s.completeEnd.gate := by
  unfold State.completeEnd
  dsimp only
  (repeat' split) <;> simp [h]

@[simp] theorem State.takeCarriageFault_runs {g : Gate} {s : State} (h : g.Runs s.gate) :
    g.Runs s.takeCarriageFault.gate := by
  unfold State.takeCarriageFault
  split
  · dsimp only
    split
    · exact State.endJobAs_runs _ _ h
    · exact h
  · exact h

@[simp] theorem State.deliver_runs {g : Gate} {s : State} (h : g.Runs s.gate) : g.Runs s.deliver.gate := by
  have arrival : g.Runs s.takeTruncation.takeArrival.gate := by simpa using State.takeTruncation_runs h
  exact State.takeCarriageFault_runs (State.takeBandLost_runs arrival)

@[simp] theorem State.drumFault_runs {g : Gate} {s : State} (kind : DrumFault) (h : g.Runs s.gate) :
    g.Runs (s.drumFault kind).gate := by
  unfold State.drumFault
  dsimp only
  split
  · exact State.endAttempt_runs _ _ _ h
  · exact h

@[simp] theorem State.drumNotReady_runs {g : Gate} {s : State} (h : g.Runs s.gate) : g.Runs s.drumNotReady.gate := by
  simp [State.drumNotReady, h]

@[simp] theorem State.sendTurn_runs {g : Gate} {s : State} (h : g.Runs s.gate) : g.Runs s.sendTurn.gate := by
  unfold State.sendTurn
  (repeat' split) <;> simp [h]

@[simp] theorem State.whiteTurn_runs {g : Gate} {s : State} (b : Bool) (h : g.Runs s.gate) :
    g.Runs (s.whiteTurn b).gate := by
  unfold State.whiteTurn
  split <;> simp [h]

@[simp] theorem State.askFrames_runs {g : Gate} {s : State} (b : Bool) (n : Nat) (h : g.Runs s.gate) :
    g.Runs (State.askFrames b n s).gate := by
  induction n generalizing s with
  | zero => exact h
  | succ n ih =>
    unfold State.askFrames
    split
    · dsimp only
      split
      · exact State.endAttempt_runs _ _ _ h
      · exact ih h
    · split
      · split
        · exact State.sendTurn_runs h
        · exact State.drumNotReady_runs h
      · exact State.whiteTurn_runs _ h
    · exact State.whiteTurn_runs _ h

@[simp] theorem State.enterSeparator_runs {g : Gate} {s : State} (h : g.Runs s.gate) :
    g.Runs s.enterSeparator.gate := by
  unfold State.enterSeparator
  exact State.askFrames_runs _ _ h

@[simp] theorem State.pictureTurn_runs {g : Gate} {s : State} (h : g.Runs s.gate) : g.Runs s.pictureTurn.gate := by
  unfold State.pictureTurn
  dsimp only
  (repeat' split) <;> simp [h]

@[simp] theorem State.nextPhasingTurn_runs {g : Gate} {s : State} (h : g.Runs s.gate) :
    g.Runs s.nextPhasingTurn.gate := by
  unfold State.nextPhasingTurn
  dsimp only
  (repeat' split)
  · exact h
  · simpa using h
  · exact State.drumNotReady_runs h

@[simp] theorem State.lineIndex_runs {g : Gate} {s : State} (h : g.Runs s.gate) : g.Runs s.lineIndex.gate := by
  unfold State.lineIndex
  dsimp only
  (repeat' split) <;> simp [h]

@[simp] theorem State.endPhasing_runs {g : Gate} {s : State} (h : g.Runs s.gate) : g.Runs s.endPhasing.gate := by
  unfold State.endPhasing
  split
  · exact State.pictureTurn_runs h
  · exact State.drumNotReady_runs h

@[simp] theorem State.index_runs {g : Gate} {s : State} (b : Bool) (h : g.Runs s.gate) : g.Runs (s.index b).gate := by
  unfold State.index
  (repeat' split) <;> simp [h]

@[simp] theorem State.tachEvent_runs {g : Gate} {s : State} (cells : Cells) (b : Bool) (h : g.Runs s.gate) :
    g.Runs (s.tachEvent cells b).gate := by
  unfold State.tachEvent
  dsimp only
  (repeat' split) <;> simp [h]

@[simp] theorem State.actOnTone_runs {g : Gate} {s : State} (tone : Tone) (h : g.Runs s.gate) :
    g.Runs (s.actOnTone tone).gate := by
  unfold State.actOnTone
  split <;> simp [h]

@[simp] theorem State.refuseChain_runs {g : Gate} {s : State} (head : Nat) (reason : RefusalReason)
    (h : g.Runs s.gate) :
    g.Runs (s.refuseChain head reason).gate := by
  unfold State.refuseChain
  exact State.endTake_runs (State.handOn_runs _ h)

@[simp] theorem State.fetchMember_runs {g : Gate} {s : State} (head : Option ChainHead) (members : List Member)
    (a : Nat) (h : g.Runs s.gate) :
    g.Runs (s.fetchMember head members a).gate := by
  unfold State.fetchMember
  split
  · exact State.issue_runs _ _ h
  · exact State.refuseChain_runs _ _ h

@[simp] theorem State.endChain_runs {g : Gate} {s : State} (head : ChainHead) (members : List Member)
    (h : g.Runs s.gate) :
    g.Runs (s.endChain head members).gate := by
  unfold State.endChain
  split <;> simp [h]

@[simp] theorem State.memberArrived_runs {g : Gate} {s : State} (words : List Word) (h : g.Runs s.gate) :
    g.Runs (s.memberArrived words).gate := by
  unfold State.memberArrived
  dsimp only
  (repeat' split) <;> simp [h]

@[simp] theorem State.abortNotFound_runs {g : Gate} {s : State} (a : Nat) (h : g.Runs s.gate) :
    g.Runs (s.abortNotFound a).gate := by
  simp [State.abortNotFound, h]

@[simp] theorem State.abort_runs {g : Gate} {s : State} (late : Bool) (ahead a : Nat) (h : g.Runs s.gate) :
    g.Runs (s.abort late ahead a).gate := by
  unfold State.abort
  split
  · exact State.issueAll_runs _ h
  · split
    · split
      · exact State.abortNotFound_runs _ h
      · split
        · exact h
        · exact State.endTakeAmong_runs _ _ (State.endJob_runs _ _ h)
    · exact State.abortNotFound_runs _ h

@[simp] theorem State.abortedWritten_runs {g : Gate} {s : State} (j : Job) (h : g.Runs s.gate) :
    g.Runs (s.abortedWritten j).gate := by
  simp [State.abortedWritten, h]

@[simp] theorem State.clampOpen_runs {g : Gate} {s : State} (b late : Bool) (h : g.Runs s.gate) :
    g.Runs (s.clampOpen b late).gate := by
  unfold State.clampOpen
  dsimp only
  (repeat' split) <;> simp [h]

@[simp] theorem State.tick_runs {g : Gate} {s : State} (h : g.Runs s.gate) : g.Runs s.tick.gate := by
  simp [State.tick, h]

@[simp] theorem State.loseLine_runs {g : Gate} {s : State} (h : g.Runs s.gate) : g.Runs s.loseLine.gate := by
  unfold State.loseLine
  (repeat' split) <;> simp [h]

@[simp] theorem State.lineRests_runs {g : Gate} {s : State} (h : g.Runs s.gate) : g.Runs s.lineRests.gate := by
  unfold State.lineRests
  exact State.look_runs h

@[simp] theorem State.clearDrum_runs {g : Gate} {s : State} (h : g.Runs s.gate) : g.Runs s.clearDrum.gate := by
  unfold State.clearDrum
  dsimp only
  split
  · exact State.look_runs h
  · exact h
end Sys2Proof.Machine
end

section
/-! PROOFS. What every command does, in the form that every step's end needs: it ends in `finish`, the word in
progress on the memory port goes on unless the command reports it done, the marks of the Status Page are set by an
accepted layout alone, and the host's read is left to the two commands that take and answer it
(09_the_memory_path.md). -/

namespace Sys2Proof.Machine

/-- The port has been given back. -/
def Gate.freed (g : Gate) : Gate := { g with port := none }

/-! ## The form -/

theorem eq_none_of_rel {α : Type} {r : α → α → Prop} {x : Option α} (h : Option.Rel r none x) : x = none := by
  cases h
  rfl

/-- The command has accepted a layout: a load has ended, and its result is ACCEPTED. -/
def State.Accepts (c : Instr) (s new : State) : Prop :=
  c = .loadProfileWord ∧ s.layout.load ≠ new.layout.load ∧ new.layout.lastResult = some .accepted

/-- `new` is what the command `c` makes of `s` before the end of its step. -/
structure State.Leads (c : Instr) (s new : State) : Prop where
  timeless : s.Timeless new
  port : Option.Rel PortWord.goesOnAs s.gate.port new.gate.port ∨
    (new.gate.port = none ∧ ∃ v, s.gate.port = some v ∧ v.endedBy c = true)
  marked : s.Accepts c new → new.gate.marks = List.replicate 64 true
  unmarked : ¬ s.Accepts c new → new.gate.marks = s.gate.marks
  read : s.inReset = false → (c = .hostReadData → s.gate.port ≠ some .hostRead) →
    (∀ addr, c = .hostRead addr → s.gate.busFree = false) → new.gate.read = s.gate.read

/-- The outcome of a command: a state under RESET, or one that the end of a step has made. -/
def State.Follows (c : Instr) (s : State) (o : Host.Outcome State Fault Refusal) : Prop :=
  ∃ t, o = .next t ∧ (t.inReset = true ∨ ∃ new, t = finish s new ∧ s.Leads c new)

/-- A command that accepts no layout and leaves the word in progress. -/
theorem State.Leads.of_runs {c : Instr} {s t : State} (ht : s.Timeless t) (h : s.gate.Runs t.gate)
    (hc : ¬ s.Accepts c t) : s.Leads c t where
  timeless := ht
  port := .inl h.port
  marked ha := absurd ha hc
  unmarked _ := h.marks
  read _ _ _ := h.read

/-- A command that accepts no layout and reports the word in progress done. -/
theorem State.Leads.of_freed {c : Instr} {s t : State} {v : PortWord} (ht : s.Timeless t)
    (hp : s.gate.port = some v) (hv : v.endedBy c = true) (h : s.gate.freed.Runs t.gate) (hc : ¬ s.Accepts c t) :
    s.Leads c t where
  timeless := ht
  port := .inr ⟨eq_none_of_rel h.port, v, hp, hv⟩
  marked ha := absurd ha hc
  unmarked _ := h.marks
  read _ _ _ := h.read

theorem State.not_accepts {c : Instr} {s t : State} (h : c ≠ .loadProfileWord) : ¬ s.Accepts c t := fun ha => h ha.1

/-- An effect that leaves memory, the queue and the count alone, and the word in progress and the marks. -/
theorem State.Leads.of_frames {c : Instr} {s t : State}
    (h : t.pending = s.pending ∧ t.crystal = s.crystal ∧ t.mem = s.mem) (hg : s.gate.Runs t.gate)
    (hc : c ≠ .loadProfileWord := by decide) : s.Leads c t :=
  .of_runs (.of_frames h) hg (State.not_accepts hc)

theorem State.Leads.refl (c : Instr) (s : State) : s.Leads c s :=
  .of_runs (.refl s) (.refl s.gate) fun ha => ha.2.1 rfl

/-- The events that a command gives to other blocks are taken with it. -/
theorem State.Leads.deliver {c : Instr} {s t : State} (h : s.Leads c t) (hc : c ≠ .loadProfileWord := by decide) :
    s.Leads c t.deliver := by
  have runs : t.gate.Runs t.deliver.gate := State.deliver_runs (.refl _)
  refine ⟨h.timeless.trans t.deliver_timeless, ?_, fun ha => absurd ha (State.not_accepts hc), fun _ => ?_,
    fun hr hd ha => ?_⟩
  · rcases h.port with hgoes | ⟨hfree, hv⟩
    · left
      have hon := runs.port
      revert hgoes hon
      generalize s.gate.port = x
      generalize t.gate.port = y
      generalize t.deliver.gate.port = z
      intro hgoes hon
      cases hgoes with
      | none => exact hon
      | some hvw =>
        cases hon with
        | some hwx => exact .some (hvw.trans hwx)
    · right
      have hon := runs.port
      rw [hfree] at hon
      exact ⟨eq_none_of_rel hon, hv⟩
  · exact runs.marks.trans (h.unmarked (State.not_accepts hc))
  · exact runs.read.trans (h.read hr hd ha)

/-! ## The forms of a meaning -/

theorem live_follows {c : Instr} {f : State → State} {s : State} (h : s.Leads c (f s)) : s.Follows c (live f s) := by
  refine ⟨_, rfl, ?_⟩
  split
  · next hreset => exact .inl hreset
  · exact .inr ⟨_, rfl, h⟩

theorem when_follows {c : Instr} {due : State → Bool} {f : State → State} {s : State}
    (h : due s = true → s.Leads c (f s)) : s.Follows c (when due f s) := by
  apply live_follows
  split
  · next hdue => exact h hdue
  · exact .refl c s

theorem whenDeliver_follows {c : Instr} {due : State → Bool} {f : State → State} {s : State}
    (h : due s = true → s.Leads c (f s)) (hc : c ≠ .loadProfileWord := by decide) :
    s.Follows c (whenDeliver due f s) :=
  when_follows fun hdue => (h hdue).deliver hc

theorem whenLevel_follows {c : Instr} {level : State → State} {due : State → Bool} {f : State → State} {s : State}
    (hl : (level s).inReset = s.inReset) (h : due s = true → s.Leads c (f s))
    (hc : c ≠ .loadProfileWord := by decide) :
    s.Follows c (whenLevel level due f s) := by
  unfold whenLevel
  split
  · next hreset => exact ⟨_, rfl, .inl (hl.trans hreset)⟩
  · exact whenDeliver_follows h hc

/-! ## The control requester's word -/

theorem Gate.controlOp_none {g : Gate} (h : g.port ≠ some .control) : g.controlOp = none := by
  unfold Gate.controlOp
  split
  · next hp _ => exact absurd hp h
  · rfl

theorem State.resultsDue_port {s : State} (h : s.resultsDue = true) : s.gate.port = some .control := by
  by_contra hp
  simp [State.resultsDue, Gate.controlOp_none hp] at h

theorem State.memberDue_port {s : State} (h : s.memberDue = true) : s.gate.port = some .control := by
  by_contra hp
  simp [State.memberDue, Gate.controlOp_none hp] at h

theorem State.blockDue_port {s : State} (h : s.blockDue = true) : s.gate.port = some .control := by
  by_contra hp
  simp [State.blockDue, Gate.controlOp_none hp] at h

theorem State.plainControlDue_port {s : State} (h : s.plainControlDue = true) : s.gate.port = some .control := by
  by_contra hp
  simp [State.plainControlDue, Gate.controlOp_none hp] at h

theorem State.abortedDue_port {s : State} {j : Job} (h : s.abortedDue = some j) : s.gate.port = some .control := by
  by_contra hp
  simp [State.abortedDue, Gate.controlOp_none hp] at h

theorem State.directoryDue_port {s : State} {b : Bool} (h : s.directoryDue = some b) :
    s.gate.port = some .control := by
  by_contra hp
  simp [State.directoryDue, Gate.controlOp_none hp] at h

theorem State.historyDue_port {s : State} {op : Op} (h : s.historyDue = some op) : s.gate.port = some .control := by
  by_contra hp
  simp [State.historyDue, Gate.controlOp_none hp] at h

theorem State.postingDue_port {s : State} {p : Option Nat × Bool} (h : s.postingDue = some p) :
    s.gate.port = some .control := by
  by_contra hp
  simp [State.postingDue, Gate.controlOp_none hp] at h

theorem State.sendEntry_port {s : State} {e : Nat × Nat × Nat} (h : s.sendEntry = some e) :
    s.gate.port = some .control := by
  by_contra hp
  simp [State.sendEntry, Gate.controlOp_none hp] at h

theorem State.loadWord_port {s : State} {w : Nat × Bool} (h : s.loadWord = some w) : s.gate.port = some .control := by
  by_contra hp
  simp [State.loadWord, Gate.controlOp_none hp] at h

theorem State.controlStep_runs (s : State) : s.gate.freed.Runs s.controlStep.gate := by
  unfold State.controlStep
  split <;> exact ⟨rfl, rfl, .none⟩

theorem State.takeEntry_runs (e : Nat) (s : State) : s.gate.freed.Runs (s.takeEntry e).gate :=
  State.entryRead_runs e s.controlStep_runs

/-- What the control requester's word gives is done in the same step, and the port is free. -/
theorem State.Leads.of_control {c : Instr} {s t : State} (hp : s.gate.port = some .control)
    (hm : t.pending = s.pending ∧ t.crystal = s.crystal ∧ t.mem = s.controlStep.mem)
    (h : s.gate.freed.Runs t.gate) (hv : PortWord.control.endedBy c = true := by decide)
    (hc : c ≠ .loadProfileWord := by decide) : s.Leads c t := by
  obtain ⟨hpending, hcrystal, hmem⟩ := hm
  exact .of_freed (s.timeless_of_controlStep hpending hcrystal hmem) hp hv h (State.not_accepts hc)

/-! ## The words that reach memory -/

theorem State.drain_runs (w : HostWrite) (rest : List HostWrite) (s : State) :
    s.gate.freed.Runs (s.drain w rest).gate :=
  State.acceptWaiting_runs ⟨rfl, rfl, .none⟩

theorem State.entryWritten_runs (x : Access) (b : Bool) (s : State) : s.gate.freed.Runs (s.entryWritten x b).gate := by
  cases b <;> exact ⟨rfl, rfl, .none⟩

theorem State.lineComplete_runs {g : Gate} {s : State} (h : g.Runs s.gate) : g.Runs s.lineComplete.gate := by
  unfold State.lineComplete
  dsimp only
  split
  · exact h
  · split <;> simp [h]

theorem State.headerWritten_runs (x : Access) (b : Bool) (s : State) :
    s.gate.freed.Runs (s.headerWritten x b).gate := by
  have freed : s.gate.freed.Runs ((s.scanWrote x).withScan (s.scanWrote x).scan.headerStep).gate :=
    ⟨rfl, rfl, .none⟩
  unfold State.headerWritten
  dsimp only
  split
  · split
    · exact State.lineComplete_runs freed
    · exact freed
  · exact ⟨rfl, rfl, .none⟩

/-! ## The commands that branch on what they find -/

theorem State.tryAction_leads {c : Instr} {s u : State} (w : Nat) (data : Word) (be : ByteEnables)
    (act : Option (State → State)) (hr : ∀ why, s.Leads c (u.refuseCapture w why))
    (h : ∀ f, act = some f → s.Leads c (f u)) : s.Leads c (u.tryAction w data be act) := by
  unfold State.tryAction
  split
  · exact hr _
  · split
    · exact h _ rfl
    · exact hr _

theorem State.refuseCapture_leads {c : Instr} {s : State} (w : Nat) (why : CaptureRefusal)
    (hc : c ≠ .loadProfileWord := by decide) : s.Leads c (s.popLayout.refuseCapture w why) :=
  .of_frames ⟨rfl, rfl, rfl⟩ ⟨rfl, rfl, (Gate.Runs.refl s.gate).port⟩ hc

/-- What the release does after it has accepted the waiting write leaves the port and the marks alone. -/
theorem State.releaseEnd_port_marks (u : State) :
    u.releaseRead.examinePaper.beginLoad.gate.port = u.gate.port ∧
      u.releaseRead.examinePaper.beginLoad.gate.marks = u.gate.marks := by
  rw [State.examinePaper_eq]
  exact ⟨rfl, rfl⟩

theorem execResetRelease_follows (s : State) : s.Follows .resetRelease (execResetRelease s) := by
  unfold execResetRelease
  split
  · next hreset =>
    have runs : s.gate.Runs s.startClocks.acceptWaiting.gate := State.acceptWaiting_runs (.refl _)
    refine ⟨_, rfl, .inr ⟨_, rfl, ?_⟩⟩
    refine { timeless := ?_, port := .inl ?_, marked := ?_, unmarked := ?_, read := ?_ }
    · exact .of_mem (by simp) (by simp) (by simp [State.startClocks])
    · rw [(State.releaseEnd_port_marks _).1]
      exact runs.port
    · exact fun ha => absurd ha (State.not_accepts (by decide))
    · intro _
      rw [(State.releaseEnd_port_marks _).2]
      exact runs.marks
    · exact fun hawake => absurd (hreset.symm.trans hawake) (by decide)
  · exact ⟨_, rfl, .inr ⟨_, rfl, .refl _ s⟩⟩

theorem execScanWordWritten_follows (s : State) : s.Follows .scanWordWritten (execScanWordWritten s) := by
  apply live_follows
  split
  · next x b hp =>
    exact .of_freed (s.entryWritten_timeless x b) hp rfl (s.entryWritten_runs x b) (State.not_accepts (by decide))
  · next x b hp =>
    have leads : s.Leads .scanWordWritten (s.headerWritten x b) :=
      .of_freed (s.headerWritten_timeless x b) hp rfl (s.headerWritten_runs x b) (State.not_accepts (by decide))
    exact leads.deliver
  · exact .refl _ s

theorem execPrefetchWordArrived_follows (s : State) : s.Follows .prefetchWordArrived (execPrefetchWordArrived s) := by
  apply live_follows
  split
  · next a word b hp =>
    refine .of_freed (.of_frames ?_) hp rfl ?_ (State.not_accepts (by decide))
    · cases b <;> exact ⟨rfl, rfl, rfl⟩
    · cases b <;> exact ⟨rfl, rfl, .none⟩
  · exact .refl _ s

theorem State.takeRead_port_marks (a : Nat) (s : State) :
    (s.takeRead a).gate.port = s.gate.port ∧ (s.takeRead a).gate.marks = s.gate.marks := by
  unfold State.takeRead
  split <;> exact ⟨rfl, rfl⟩

theorem execHostRead_follows (addr : Addr) (s : State) : s.Follows (.hostRead addr) (execHostRead addr s) := by
  unfold execHostRead
  split
  · next hreset =>
    refine ⟨_, rfl, .inl ?_⟩
    split <;> exact hreset
  · refine when_follows fun hfree => ?_
    refine { timeless := .of_mem (by simp) (by simp) (by simp), port := .inl ?_, marked := ?_, unmarked := ?_,
             read := ?_ }
    · rw [(State.takeRead_port_marks _ s).1]
      exact (Gate.Runs.refl s.gate).port
    · exact fun ha => absurd ha (State.not_accepts (by simp))
    · exact fun _ => (State.takeRead_port_marks _ s).2
    · exact fun _ _ hbusy => absurd (hfree.symm.trans (hbusy addr rfl)) (by decide)

theorem execHostReadData_follows (s : State) : s.Follows .hostReadData (execHostReadData s) := by
  apply live_follows
  split
  · next r hr =>
    have hp : s.gate.port = some .hostRead := by
      by_contra hne
      simp [State.readDue, hne] at hr
    exact
      { timeless := .of_mem rfl rfl rfl
        port := .inr ⟨rfl, _, hp, rfl⟩
        marked := fun ha => absurd ha (State.not_accepts (by decide))
        unmarked := fun _ => rfl
        read := fun _ hnot _ => absurd hp (hnot rfl) }
  · exact .refl _ s

theorem execHostWrite_follows (addr : Addr) (data : Word) (be : ByteEnables) (s : State) :
    s.Follows (.hostWrite addr data be) (execHostWrite addr data be s) := by
  unfold execHostWrite
  split
  · next hreset =>
    refine ⟨_, rfl, .inl ?_⟩
    split <;> exact hreset
  · exact when_follows fun _ => .of_frames (by simp) (State.acceptWrite_runs _ (.refl _)) (by simp)

theorem execHostWriteDrain_follows (s : State) : s.Follows .hostWriteDrain (execHostWriteDrain s) := by
  apply live_follows
  split
  · next w rest hp _ =>
    exact .of_freed (s.drain_timeless w rest) hp rfl (s.drain_runs w rest) (State.not_accepts (by decide))
  · exact .refl _ s

theorem execSlipLogWordWritten_follows (s : State) : s.Follows .slipLogWordWritten (execSlipLogWordWritten s) := by
  apply live_follows
  split
  · next x hx =>
    have hp : s.gate.port = some .slipLog := by
      by_contra hne
      simp [State.logWord, hne] at hx
    exact .of_freed ⟨rfl, rfl, Memory.write_wf _ _⟩ hp rfl ⟨rfl, rfl, .none⟩ (State.not_accepts (by decide))
  · exact .refl _ s

theorem execAbortedResultsWritten_follows (s : State) :
    s.Follows .abortedResultsWritten (execAbortedResultsWritten s) := by
  apply live_follows
  split
  · next j hj =>
    exact .of_control (State.abortedDue_port hj) (by simp) (State.abortedWritten_runs j s.controlStep_runs)
  · exact .refl _ s

theorem execHistoryReadDone_follows (s : State) : s.Follows .historyReadDone (execHistoryReadDone s) := by
  apply live_follows
  split
  · next op hop =>
    exact .of_control (State.historyDue_port hop) (by simp) (s.controlStep_runs.of_eq rfl rfl rfl)
  · exact .refl _ s

theorem execReturnPostingDone_follows (s : State) : s.Follows .returnPostingDone (execReturnPostingDone s) := by
  apply live_follows
  split
  · next slot quiet hdue =>
    exact .of_control (State.postingDue_port hdue) (by simp) (State.posted_runs slot quiet s.controlStep_runs)
  · exact .refl _ s

theorem execDirectoryReadDone_follows (s : State) : s.Follows .directoryReadDone (execDirectoryReadDone s) := by
  apply live_follows
  split
  · next hdue =>
    have leads : s.Leads .directoryReadDone (s.controlStep.beginAttempt s.wordsRead) :=
      .of_control (State.directoryDue_port hdue) (by simp) (by simpa using s.controlStep_runs)
    exact leads.deliver
  · next hdue => exact .of_control (State.directoryDue_port hdue) (by simp) s.controlStep_runs
  · exact .refl _ s

theorem execStartEntry_follows (s : State) : s.Follows .startEntry (execStartEntry s) := by
  apply live_follows
  split
  · next e a action he =>
    split
    · exact .of_control (State.sendEntry_port he) (by simp [State.takeEntry])
        (State.fetchMember_runs _ _ _ (s.takeEntry_runs e))
    · exact .refl _ s
  · exact .refl _ s

theorem execAbortEntry_follows (late : Bool) (ahead : Nat) (s : State) :
    s.Follows (.abortEntry late ahead) (execAbortEntry late ahead s) := by
  apply live_follows
  split
  · next e a action he =>
    split
    · have leads : s.Leads (.abortEntry late ahead) ((s.takeEntry e).abort late ahead a) :=
        .of_control (State.sendEntry_port he) (by simp [State.takeEntry])
          (State.abort_runs _ _ _ (s.takeEntry_runs e)) rfl (by simp)
      exact leads.deliver (by simp)
    · exact .refl _ s
  · exact .refl _ s

theorem execFreeEntry_follows (s : State) : s.Follows .freeEntry (execFreeEntry s) := by
  apply live_follows
  split
  · next e a action he =>
    split
    · exact .of_control (State.sendEntry_port he) (by simp [State.takeEntry])
        (State.endTake_runs (s.takeEntry_runs e))
    · exact .refl _ s
  · exact .refl _ s

theorem execBadActionEntry_follows (s : State) : s.Follows .badActionEntry (execBadActionEntry s) := by
  apply live_follows
  split
  · next e a action he =>
    split
    · exact .of_control (State.sendEntry_port he) (by simp [State.takeEntry])
        (State.endTake_runs (State.handOn_runs _ (s.takeEntry_runs e)))
    · exact .refl _ s
  · exact .refl _ s

theorem execRegulationSample_follows (s : State) : s.Follows .regulationSample (execRegulationSample s) := by
  apply live_follows
  split
  · exact .of_frames (by simp) (by simp)
  · exact .refl _ s

theorem execSlotEvent_follows (cell : Sample) (s : State) : s.Follows (.slotEvent cell) (execSlotEvent cell s) := by
  apply live_follows
  split
  · split
    · exact .of_frames (by simp) (by simp) (by simp)
    · exact .refl _ s
  · exact .refl _ s

theorem execToneRecognised_follows (s : State) : s.Follows .toneRecognised (execToneRecognised s) := by
  apply live_follows
  split
  · next tone _ =>
    have leads : s.Leads .toneRecognised ((s.mapLine (·.noteTone tone)).actOnTone tone) :=
      .of_frames (by simp) (State.actOnTone_runs tone (.refl s.gate))
    exact leads.deliver
  · exact .refl _ s

theorem execSendActionWrite_follows (s : State) : s.Follows .sendActionWrite (execSendActionWrite s) := by
  apply live_follows
  split
  · exact .of_frames (by simp [State.popMailbox]) (State.popMailbox_runs (.refl s.gate))
  · exact .refl _ s

theorem execReturnFreeWrite_follows (ahead : Nat) (s : State) :
    s.Follows (.returnFreeWrite ahead) (execReturnFreeWrite ahead s) := by
  apply live_follows
  split
  · exact .of_frames (by simp [State.popMailbox])
      (State.slideLast_runs _ _ (State.serveBacklog_runs (State.popMailbox_runs (.refl s.gate)))) (by simp)
  · exact .refl _ s

theorem execLayoutGenerationWrite_follows (s : State) :
    s.Follows .layoutGenerationWrite (execLayoutGenerationWrite s) := by
  apply live_follows
  split
  · exact .of_frames (by simp [State.popLayout]) (State.generationWritten_runs (State.popLayout_runs (.refl s.gate)))
  · exact .refl _ s

theorem State.tryCapture_runs {g : Gate} {s : State} (w : Nat) (data : Word) (be : ByteEnables) (h : g.Runs s.gate) :
    g.Runs (s.tryCapture w data be).gate := by
  simpa using h

theorem execProfileCapture_follows (s : State) : s.Follows .profileCapture (execProfileCapture s) := by
  apply live_follows
  split
  · split
    · exact .refl _ s
    · split
      · exact .of_frames (by simp [State.popLayout])
          (State.tryCapture_runs _ _ _ (State.popLayout_runs (.refl s.gate)))
      · exact .of_frames ⟨rfl, rfl, rfl⟩ (State.popLayout_runs (.refl s.gate))
  · exact .refl _ s

theorem execSlipCharacterEnd_follows (busy : Bool) (s : State) :
    s.Follows (.slipCharacterEnd busy) (execSlipCharacterEnd busy s) := by
  unfold execSlipCharacterEnd
  split
  · next hreset => exact ⟨_, rfl, .inl hreset⟩
  · exact live_follows (.of_frames ⟨rfl, rfl, rfl⟩ (.refl s.gate) (by simp))

theorem execClockSet_follows (s : State) : s.Follows .clockSet (execClockSet s) := by
  apply live_follows
  split
  · split
    · have refused := fun w why => State.refuseCapture_leads (c := .clockSet) (s := s) w why
      refine State.tryAction_leads _ _ _ _ (refused _) fun f hf => ?_
      obtain ⟨time, -, rfl⟩ := Option.map_eq_some_iff.mp hf
      exact .of_frames ⟨rfl, rfl, rfl⟩ (State.popLayout_runs (.refl s.gate))
    · exact .refl _ s
  · exact .refl _ s

theorem execDrumClear_follows (s : State) : s.Follows .drumClear (execDrumClear s) := by
  apply live_follows
  split
  · split
    · have refused := fun w why => State.refuseCapture_leads (c := .drumClear) (s := s) w why
      refine State.tryAction_leads _ _ _ _ (refused _) fun f hf => ?_
      obtain ⟨-, hf⟩ := Option.ite_none_right_eq_some.mp hf
      cases hf
      exact .of_frames (by simp [State.popLayout]) (State.clearDrum_runs (State.popLayout_runs (.refl s.gate)))
    · exact .refl _ s
  · exact .refl _ s

theorem execCounterClear_follows (s : State) : s.Follows .counterClear (execCounterClear s) := by
  apply live_follows
  split
  · split
    · have refused := fun w why => State.refuseCapture_leads (c := .counterClear) (s := s) w why
      refine State.tryAction_leads _ _ _ _ (refused _) fun f hf => ?_
      obtain ⟨-, hf⟩ := Option.ite_none_right_eq_some.mp hf
      cases hf
      exact .of_frames ⟨rfl, rfl, rfl⟩ (State.clearCounters_runs (State.popLayout_runs (.refl s.gate)))
    · exact .refl _ s
  · exact .refl _ s

theorem execJobResultsWritten_follows (s : State) : s.Follows .jobResultsWritten (execJobResultsWritten s) :=
  whenDeliver_follows fun hdue => .of_control (State.resultsDue_port hdue) (by simp)
    (State.finishJob_runs s.controlStep_runs)

theorem execTcbMemberRead_follows (s : State) : s.Follows .tcbMemberRead (execTcbMemberRead s) :=
  when_follows fun hdue => .of_control (State.memberDue_port hdue) (by simp)
    (State.memberArrived_runs _ s.controlStep_runs)

theorem execLayoutBlockRead_follows (s : State) : s.Follows .layoutBlockRead (execLayoutBlockRead s) :=
  when_follows fun hdue => .of_control (State.blockDue_port hdue) (by simp)
    (State.blockArrived_runs _ s.controlStep_runs)

theorem execControlWordDone_follows (s : State) : s.Follows .controlWordDone (execControlWordDone s) :=
  when_follows fun hdue => .of_control (State.plainControlDue_port hdue) (by simp) s.controlStep_runs

theorem execTachEvent_follows (cells : Cells) (scanFirst : Bool) (s : State) :
    s.Follows (.tachEvent cells scanFirst) (execTachEvent cells scanFirst s) := by
  have leads : s.Leads (.tachEvent cells scanFirst) (s.tachEvent cells scanFirst) :=
    .of_frames (by simp) (State.tachEvent_runs _ _ (.refl s.gate)) (by simp)
  exact live_follows (leads.deliver (by simp))

theorem execIndexPulse_follows (s : State) : s.Follows .indexPulse (execIndexPulse s) :=
  live_follows (.of_frames ⟨rfl, rfl, rfl⟩ (.refl s.gate))

/-! ## A word of a load's Profile Area (R172 to R174) -/

theorem State.profileArrived_runs {g : Gate} {s : State} (w : Nat) (data : Word) (h : g.Runs s.gate) :
    g.Runs (s.profileArrived w data).gate := by
  unfold State.profileArrived
  split
  · exact State.tryCapture_runs _ _ _ h
  · exact h

theorem State.profileArrived_load (w : Nat) (data : Word) (s : State) :
    (s.profileArrived w data).layout.load = s.layout.load := by
  unfold State.profileArrived State.tryCapture
  split
  · split
    · rfl
    · split <;> rfl
  · rfl

/-- A load that ends accepts its layout, and marks all sixty-four words, or is refused and marks none. -/
theorem State.endOfProfile_leads {s u : State} (hp : s.gate.port = some .control) (hu : s.gate.freed.Runs u.gate)
    (ht : s.Timeless u) (hl : u.layout.load = s.layout.load) : s.Leads .loadProfileWord u.endOfProfile := by
  have plain : s.Leads .loadProfileWord u :=
    .of_freed ht hp rfl hu fun ⟨_, hne, _⟩ => hne hl.symm
  unfold State.endOfProfile
  split
  · next l hload =>
    unfold State.endProfileLoad
    split
    · refine { timeless := ht.trans (.of_mem (by simp) (by simp) (by simp)), port := .inr ⟨?_, _, hp, rfl⟩,
               marked := ?_, unmarked := ?_, read := ?_ }
      · rw [State.endLoad_eq]
        exact eq_none_of_rel hu.port
      · intro _
        rw [State.endLoad_eq]
        rfl
      · refine fun hn => absurd ⟨rfl, ?_, ?_⟩ hn
        · rw [State.endLoad_eq, ← hl, hload]
          dsimp only
          split <;> simp
        · rw [State.endLoad_eq]
      · intro _ _ _
        rw [State.endLoad_eq]
        exact hu.read
    · refine .of_freed (ht.trans (.of_mem (by simp) (by simp) (by simp))) hp rfl (State.endLoad_runs _ _ hu) ?_
      rintro ⟨-, -, hr⟩
      rw [State.endLoad_eq] at hr
      cases hr
  · exact plain

theorem execLoadProfileWord_follows (s : State) : s.Follows .loadProfileWord (execLoadProfileWord s) := by
  apply live_follows
  split
  · next w last hw =>
    have hp := State.loadWord_port hw
    have runs := State.profileArrived_runs w (wordAt s.wordsRead w) s.controlStep_runs
    have timeless : s.Timeless (s.controlStep.profileArrived w (wordAt s.wordsRead w)) :=
      s.timeless_of_controlStep (by simp) (by simp) (by simp)
    have hload : (s.controlStep.profileArrived w (wordAt s.wordsRead w)).layout.load = s.layout.load :=
      (State.profileArrived_load _ _ _).trans (by simp)
    dsimp only
    split
    · exact State.endOfProfile_leads hp runs timeless hload
    · exact .of_freed timeless hp rfl runs fun ⟨_, hne, _⟩ => hne hload.symm
  · exact .refl _ s

/-! ## Every command -/

theorem exec_follows (c : Instr) (s : State) : s.Follows c (exec c s) := by
  cases c with
  | reset => exact ⟨_, rfl, .inl rfl⟩
  | resetRelease => exact execResetRelease_follows s
  | indexPulse => exact execIndexPulse_follows s
  | tachEvent cells scanFirst => exact execTachEvent_follows cells scanFirst s
  | slipDetected =>
    exact show s.Follows .slipDetected (execSlipDetected s) from
      whenDeliver_follows fun _ => .of_frames (by simp) (State.drumFault_runs _ (.refl s.gate))
  | regulationSample => exact execRegulationSample_follows s
  | bandEntry =>
    exact show s.Follows .bandEntry (execBandEntry s) from when_follows fun _ => .of_frames (by simp) (by simp)
  | bandLost =>
    exact show s.Follows .bandLost (execBandLost s) from whenDeliver_follows fun _ => .of_frames (by simp) (by simp)
  | parkRestExpiry =>
    exact show s.Follows .parkRestExpiry (execParkRestExpiry s) from
      when_follows fun _ => .of_frames (by simp) (by simp)
  | rampTick =>
    exact show s.Follows .rampTick (execRampTick s) from when_follows fun _ => .of_frames (by simp) (by simp)
  | spinupTimeout =>
    exact show s.Follows .spinupTimeout (execSpinupTimeout s) from
      whenDeliver_follows fun _ => .of_frames (by simp) (State.drumFault_runs _ (.refl s.gate))
  | stallTimeout =>
    exact show s.Follows .stallTimeout (execStallTimeout s) from
      whenDeliver_follows fun _ => .of_frames (by simp) (State.drumFault_runs _ (.refl s.gate))
  | ilimTrip =>
    exact show s.Follows .ilimTrip (execIlimTrip s) from when_follows fun _ => .of_frames (by simp) (by simp)
  | overcurrentDetected =>
    exact show s.Follows .overcurrentDetected (execOvercurrentDetected s) from
      whenDeliver_follows fun _ => .of_frames (by simp) (State.drumFault_runs _ (.refl s.gate))
  | faultWaitExpiry =>
    exact show s.Follows .faultWaitExpiry (execFaultWaitExpiry s) from
      when_follows fun _ => .of_frames (by simp) (by simp)
  | drumClear => exact execDrumClear_follows s
  | counterClear => exact execCounterClear_follows s
  | clockSet => exact execClockSet_follows s
  | homingStep =>
    exact show s.Follows .homingStep (execHomingStep s) from
      whenDeliver_follows fun _ => .of_frames (by simp) (by simp)
  | homingFault =>
    exact show s.Follows .homingFault (execHomingFault s) from
      whenDeliver_follows fun _ => .of_frames (by simp) (by simp)
  | positionStep =>
    exact show s.Follows .positionStep (execPositionStep s) from
      whenDeliver_follows fun _ => .of_frames (by simp) (by simp)
  | arrival =>
    exact show s.Follows .arrival (execArrival s) from whenDeliver_follows fun _ => .of_frames (by simp) (by simp)
  | limitAsserted =>
    exact show s.Follows .limitAsserted (execLimitAsserted s) from
      whenLevel_follows rfl (fun _ => .of_frames (by simp) (by simp))
  | homeAsserted =>
    exact show s.Follows .homeAsserted (execHomeAsserted s) from
      whenLevel_follows rfl (fun _ => .of_frames (by simp) (by simp))
  | trackStep =>
    exact show s.Follows .trackStep (execTrackStep s) from whenDeliver_follows fun _ => .of_frames (by simp) (by simp)
  | warmUpExpiry =>
    exact show s.Follows .warmUpExpiry (execWarmUpExpiry s) from when_follows fun _ => .of_frames (by simp) (by simp)
  | referenceSample cell =>
    exact show s.Follows (.referenceSample cell) (execReferenceSample cell s) from
      when_follows fun _ => .of_frames (by simp) (by simp) (by simp)
  | slotEvent cell => exact execSlotEvent_follows cell s
  | scanWordWritten => exact execScanWordWritten_follows s
  | prefetchWordArrived => exact execPrefetchWordArrived_follows s
  | carrierToggle =>
    exact show s.Follows .carrierToggle (execCarrierToggle s) from
      when_follows fun _ => .of_frames (by simp) (by simp)
  | seizeWaitExpiry =>
    exact show s.Follows .seizeWaitExpiry (execSeizeWaitExpiry s) from
      when_follows fun _ => .of_frames (by simp) (by simp)
  | dialBreakEnd =>
    exact show s.Follows .dialBreakEnd (execDialBreakEnd s) from when_follows fun _ => .of_frames (by simp) (by simp)
  | dialMakeEnd =>
    exact show s.Follows .dialMakeEnd (execDialMakeEnd s) from when_follows fun _ => .of_frames (by simp) (by simp)
  | loopChange present =>
    exact show s.Follows (.loopChange present) (execLoopChange present s) from
      whenLevel_follows rfl (fun _ => .of_frames (by simp) (by simp) (by simp)) (by simp)
  | loopLoss =>
    exact show s.Follows .loopLoss (execLoopLoss s) from whenDeliver_follows fun _ => .of_frames (by simp) (by simp)
  | toneWindowEnd crossings =>
    exact show s.Follows (.toneWindowEnd crossings) (execToneWindowEnd crossings s) from
      when_follows fun _ => .of_frames (by simp) (by simp) (by simp)
  | toneRecognised => exact execToneRecognised_follows s
  | answerTimeout =>
    exact show s.Follows .answerTimeout (execAnswerTimeout s) from
      whenDeliver_follows fun _ => .of_frames (by simp) (by simp)
  | startToneExpiry =>
    exact show s.Follows .startToneExpiry (execStartToneExpiry s) from
      when_follows fun _ => .of_frames (by simp) (by simp)
  | readyWaitExpiry =>
    exact show s.Follows .readyWaitExpiry (execReadyWaitExpiry s) from
      whenDeliver_follows fun _ => .of_frames (by simp) (by simp)
  | phasingEnd =>
    exact show s.Follows .phasingEnd (execPhasingEnd s) from
      whenDeliver_follows fun _ => .of_frames (by simp) (by simp)
  | stopToneExpiry =>
    exact show s.Follows .stopToneExpiry (execStopToneExpiry s) from
      when_follows fun _ => .of_frames (by simp) (by simp)
  | releaseGuardExpiry =>
    exact show s.Follows .releaseGuardExpiry (execReleaseGuardExpiry s) from
      when_follows fun _ => .of_frames (by simp) (by simp)
  | startEntry => exact execStartEntry_follows s
  | abortEntry late ahead => exact execAbortEntry_follows late ahead s
  | freeEntry => exact execFreeEntry_follows s
  | badActionEntry => exact execBadActionEntry_follows s
  | tcbMemberRead => exact execTcbMemberRead_follows s
  | clampOpen bandLostFirst late =>
    exact show s.Follows (.clampOpen bandLostFirst late) (execClampOpen bandLostFirst late s) from
      whenLevel_follows rfl (fun _ => .of_frames (by simp) (by simp) (by simp)) (by simp)
  | clampClose =>
    exact show s.Follows .clampClose (execClampClose s) from
      whenLevel_follows rfl (fun _ => .of_frames (by simp) (State.leaveMountWait_runs (.refl s.gate)))
  | stopKey late =>
    exact show s.Follows (.stopKey late) (execStopKey late s) from
      whenDeliver_follows (fun _ => .of_frames (by simp) (by simp) (by simp)) (by simp)
  | jobResultsWritten => exact execJobResultsWritten_follows s
  | abortedResultsWritten => exact execAbortedResultsWritten_follows s
  | parkDelayExpiry =>
    exact show s.Follows .parkDelayExpiry (execParkDelayExpiry s) from
      whenDeliver_follows fun _ => .of_frames (by simp) (by simp)
  | directoryReadDone => exact execDirectoryReadDone_follows s
  | historyReadDone => exact execHistoryReadDone_follows s
  | clockTick =>
    exact show s.Follows .clockTick (execClockTick s) from when_follows fun _ => .of_frames (by simp) (by simp)
  | slipLogWordWritten => exact execSlipLogWordWritten_follows s
  | slipCharacterEnd busy => exact execSlipCharacterEnd_follows busy s
  | slipBusyRelease =>
    exact show s.Follows .slipBusyRelease (execSlipBusyRelease s) from
      whenLevel_follows rfl (fun _ => .of_frames (by simp) (by simp))
  | paperOut =>
    exact show s.Follows .paperOut (execPaperOut s) from
      whenLevel_follows rfl (fun _ => .of_frames (by simp) (by simp))
  | paperPresent =>
    exact show s.Follows .paperPresent (execPaperPresent s) from
      whenLevel_follows rfl (fun _ => .of_frames (by simp) (by simp))
  | paperReturnExpiry =>
    exact show s.Follows .paperReturnExpiry (execPaperReturnExpiry s) from
      when_follows fun _ => .of_frames (by simp) (by simp)
  | hostRead addr => exact execHostRead_follows addr s
  | hostReadData => exact execHostReadData_follows s
  | hostWrite addr data be => exact execHostWrite_follows addr data be s
  | hostWriteDrain => exact execHostWriteDrain_follows s
  | controlWordDone => exact execControlWordDone_follows s
  | sendActionWrite => exact execSendActionWrite_follows s
  | takeStart =>
    exact show s.Follows .takeStart (execTakeStart s) from when_follows fun _ => .of_frames (by simp) (by simp)
  | returnFreeWrite ahead => exact execReturnFreeWrite_follows ahead s
  | returnPostingDone => exact execReturnPostingDone_follows s
  | layoutGenerationWrite => exact execLayoutGenerationWrite_follows s
  | layoutBlockRead => exact execLayoutBlockRead_follows s
  | loadProfileWord => exact execLoadProfileWord_follows s
  | profileCapture => exact execProfileCapture_follows s
  | pwmPeriodEnd =>
    exact show s.Follows .pwmPeriodEnd (execPwmPeriodEnd s) from when_follows fun _ => .of_frames (by simp) (by simp)


end Sys2Proof.Machine
end

section
/-! PROOFS. Host reads: how a read is taken and sorted, what a step's end makes of it, and its data
(09_the_memory_path.md, Host cycles and Holding reads; 04_the_line_ring.md, The Preview Window). -/

namespace Sys2Proof.Machine

/-! ## The sorting looks at the layout, the ring and the posted writes alone -/

theorem State.touchesFilling_congr {s u : State} (hl : u.layout.inForce = s.layout.inForce)
    (hslots : u.ring.slots = s.ring.slots) (a : Nat) : u.touchesFilling a ↔ s.touchesFilling a := by
  simp only [State.touchesFilling, Ring.slot, hl, hslots]

theorem State.ReadSorted.congr {s u : State} {a : Nat} {q : HostRead} (h : s.ReadSorted a q)
    (hl : u.layout.inForce = s.layout.inForce) (hring : u.ring = s.ring) (hb : u.gate.buffer = s.gate.buffer) :
    u.ReadSorted a q := by
  have hfilling := fun x => State.touchesFilling_congr hl (congrArg Ring.slots hring) x
  refine ⟨h.addr, ?_, ?_, ?_, ?_, ?_⟩
  · rw [hl, hring]
    exact h.redirected
  · rw [hl, hring]
    exact h.direct
  · rw [hb]
    exact h.pending
  · rw [hb, hfilling]
    exact h.filling
  · rw [hb, hfilling]
    exact h.free

theorem State.ReadSettled.congr {s u t : State} (h : s.ReadSettled t) (hread : u.gate.read = s.gate.read)
    (hl : u.layout.inForce = s.layout.inForce) (hring : u.ring = s.ring) (hb : u.gate.buffer = s.gate.buffer) :
    u.ReadSettled t := by
  have hfilling := fun x => State.touchesFilling_congr hl (congrArg Ring.slots hring) x
  refine ⟨?_, ?_, fun r hr => ?_⟩
  · rw [hread]
    exact h.served
  · simp only [hread, hb, hfilling]
    exact h.held
  · rw [hread] at hr
    simp only [hb, hfilling]
    intro hended
    obtain ⟨q, hq, hsorted⟩ := h.released r hr hended
    exact ⟨q, hq, hsorted.congr hl hring hb⟩

/-! ## The taking of a read -/

theorem State.previewFirst_iff (s : State) (a : Nat) :
    s.previewFirst a = true ↔ ∃ l, s.layout.inForce = some l ∧ l.previewBase ≤ a ∧ a < l.previewBase + 4 := by
  unfold State.previewFirst
  cases s.layout.inForce with
  | none => simp
  | some l => simp [inWindow_iff]

/-- The latch that a read of the word at `a` leaves: a read of the Preview Window's first word sets it. -/
theorem State.takeRead_eq {s u : State} {a : Nat} {latch : Option Nat}
    (hfirst : (∃ l, s.layout.inForce = some l ∧ l.previewBase ≤ a ∧ a < l.previewBase + 4) →
      latch = s.ring.previewSlot s.scan.current)
    (hother : (∀ l, s.layout.inForce = some l → a < l.previewBase ∨ l.previewBase + 4 ≤ a) →
      latch = s.ring.latch)
    (hu : u = { s with ring := { s.ring with latch := latch } }) :
    s.takeRead a =
      { u with gate := { s.gate with read := some (u.sorted { addr := a, target := a, held := none }) } } := by
  subst hu
  unfold State.takeRead
  by_cases h : s.previewFirst a = true
  · rw [if_pos h, hfirst ((s.previewFirst_iff a).mp h)]
    rfl
  · have hnot : ∀ l, s.layout.inForce = some l → a < l.previewBase ∨ l.previewBase + 4 ≤ a := by
      intro l hl
      by_contra hin
      exact h ((s.previewFirst_iff a).mpr ⟨l, hl, by omega, by omega⟩)
    rw [if_neg h, hother hnot]
    rfl

theorem exec_hostRead_taken {s : State} (addr : Addr) (hreset : s.inReset = false) (hr : s.gate.read = none)
    (hw : s.gate.waiting = none) :
    exec (.hostRead addr) s = .next (finish s (s.takeRead (addr.toNat - addr.toNat % 4))) := by
  refine (show execHostRead addr s = _ from ?_)
  rw [execHostRead, if_neg (by simp [hreset])]
  exact when_due _ _ s hreset (Gate.busFree_of hr hw)

theorem exec_hostRead_busy {s : State} (addr : Addr) (hreset : s.inReset = false)
    (hbusy : s.gate.read ≠ none ∨ s.gate.waiting ≠ none) : exec (.hostRead addr) s = .next (finish s s) := by
  refine (show execHostRead addr s = _ from ?_)
  rw [execHostRead, if_neg (by simp [hreset])]
  exact when_idle _ _ s hreset (Gate.busFree_false hbusy)

theorem exec_hostReadData_done {s : State} {r : HostRead} (hreset : s.inReset = false)
    (hp : s.gate.port = some .hostRead) (hr : s.gate.read = some r) :
    exec .hostReadData s =
      .next (finish s
        { s with gate := { s.gate with port := none, read := none, readData := s.mem.word r.target } }) := by
  have hdue : s.readDue = some r := by simp [State.readDue, hp, hr]
  refine (show execHostReadData s = _ from live_awake _ s hreset).trans ?_
  simp only [hdue]
  rfl

/-- Every command but the two of a read leaves the read as it is, and the step's end settles it. -/
theorem exec_read_settled {c : Instr} {s t : State} (hreset : s.inReset = false) (ht : exec c s = .next t)
    (hawake : t.inReset = false) (hdata : c = .hostReadData → s.gate.port ≠ some .hostRead)
    (htake : ∀ addr, c = .hostRead addr → s.gate.read ≠ none ∨ s.gate.waiting ≠ none) :
    State.ReadSettled { t with gate := { t.gate with read := s.gate.read } } t := by
  obtain ⟨x, hx, hfollows⟩ := exec_follows c s
  obtain rfl : x = t := Host.Outcome.next.inj (hx.symm.trans ht)
  rcases hfollows with hasleep | ⟨new, rfl, hleads⟩
  · exact absurd (hasleep.symm.trans hawake) (by decide)
  · have hread : new.gate.read = s.gate.read :=
      hleads.read hreset hdata fun addr hc => Gate.busFree_false (htake addr hc)
    exact (finish_reads s new).congr hread.symm (by simp) (by simp) (by simp)

/-- Settles O44: the taking of a read, the latch, a busy bus, the holds and their ends, and the data. -/
theorem hostReadsAndTheirData : Obligations.HostReadsAndTheirData := by
  refine ⟨?_, fun s => s.ring.previewSlot_highest s.scan.current, ?_, ?_, ?_⟩
  · intro s u addr a latch hreset hr hw ha hfirst hother hu
    have htaken := State.takeRead_eq hfirst hother hu
    refine ⟨u.sorted { addr := a, target := a, held := none }, _, exec_hostRead_taken addr hreset hr hw, ?_, ?_, ?_⟩
    · exact u.sorted_sorted { addr := a, target := a, held := none }
    · rw [← ha, htaken, finish_read_still]
      intro r hr'
      cases hr'
      subst hu
      rfl
    · rw [← ha, htaken]
      exact finish_ends _ _
  · exact fun s addr hreset hbusy => ⟨_, exec_hostRead_busy addr hreset hbusy, finish_ends _ _⟩
  · exact fun c s t hreset ht hawake hdata htake => exec_read_settled hreset ht hawake hdata htake
  · exact fun s r hreset hp hr => ⟨_, exec_hostReadData_done hreset hp hr, finish_ends _ _⟩

end Sys2Proof.Machine
end

section
/-! PROOFS. The arbiter: who asks for the memory port, and to whom a step grants it (09_the_memory_path.md, The memory
port; 04_the_line_ring.md, Send prefetch). -/

namespace Sys2Proof.Machine

/-! ## The requests (R37, R66, R144, R163) -/

theorem State.prefetchWord_eq {s : State} {n : Nat} {call : CallInfo} {l : Layout} (hn : s.ring.picked = some n)
    (hcall : s.line.call = some call) (hl : s.layout.inForce = some l) :
    s.prefetchWord =
      if max s.ring.fetch (s.nextPosition call.k / 4) < 60 * call.k ∧ s.ring.buffer.length < 16 then
        some (.prefetch (l.ringBase + 1456 * n + 16 + 4 * max s.ring.fetch (s.nextPosition call.k / 4))
          (max s.ring.fetch (s.nextPosition call.k / 4)) true)
      else none := by
  simp only [State.prefetchWord, hn, hcall, State.levelAddr, State.slotAddr, hl, Option.map_some, Option.getD_some,
    Layout.slotAddr, slotBytes]

theorem State.prefetchWord_none {s : State} (h : s.ring.picked = none ∨ s.line.call = none) :
    s.prefetchWord = none := by
  unfold State.prefetchWord
  split
  · next hn hcall => rcases h with h | h <;> simp_all
  · rfl

theorem Gate.hostRequest_eq (g : Gate) :
    g.hostRequest =
      if g.read.any (fun r => decide (r.held = none)) = true then some .hostRead
      else if g.buffer ≠ [] then some .hostWrite else none := by
  have writes : (if g.buffer = [] then none else some PortWord.hostWrite) =
      if g.buffer ≠ [] then some .hostWrite else none := by
    by_cases h : g.buffer = [] <;> simp [h]
  unfold Gate.hostRequest
  rw [writes]
  cases g.read <;> simp

/-- The Slip Log writer asks while its first record has a word to write. -/
theorem SlipUnit.nextLogWord_isSome (u : SlipUnit) :
    u.nextLogWord.isSome = u.logList.head?.any fun x => !x.todo.isEmpty := by
  unfold SlipUnit.nextLogWord
  cases u.logList with
  | nil => rfl
  | cons x l => cases h : x.todo <;> simp [h]

theorem whenAsked_decide (p : Prop) [Decidable p] (r : Option PortWord) :
    whenAsked (decide p) r = if p then r else none := by
  by_cases h : p <;> simp [whenAsked, h]

/-- The seven requests in their order. -/
theorem State.requests_eq (s : State) :
    s.requests =
      [ if 12 ≤ (s.scan.fifo.filter fun e => e.closed).length then s.scanRequest else none
      , if s.ring.buffer.length ≤ 4 then s.prefetchWord else none
      , if s.gate.read.any (fun r => decide (r.held = none)) = true then some .hostRead
        else if s.gate.buffer ≠ [] then some .hostWrite else none
      , s.scanRequest
      , s.prefetchWord
      , if s.gate.ops ≠ [] then some .control else none
      , if s.slips.logList.head?.any (fun x => !x.todo.isEmpty) = true then some .slipLog else none ] := by
  have closed : whenAsked (decide (12 ≤ s.scan.closedEntries)) s.scanRequest =
      if 12 ≤ (s.scan.fifo.filter fun e => e.closed).length then s.scanRequest else none := whenAsked_decide _ _
  rw [State.requests, closed, whenAsked_decide, Gate.hostRequest_eq]
  simp [whenAsked, SlipUnit.nextLogWord_isSome]

/-- What the requests look at. -/
structure State.AsksAs (s t : State) : Prop where
  drum : t.drum = s.drum
  scan : t.scan = s.scan
  ring : t.ring = s.ring
  line : t.line = s.line
  slips : t.slips = s.slips
  layout : t.layout = s.layout
  read : t.gate.read = s.gate.read
  buffer : t.gate.buffer = s.gate.buffer
  ops : t.gate.ops = s.gate.ops

theorem State.AsksAs.requests {s t : State} (h : s.AsksAs t) : t.requests = s.requests := by
  have haddr : t.slotAddr = s.slotAddr := by
    funext n
    simp only [State.slotAddr, h.layout]
  have hscan : t.scanRequest = s.scanRequest := by simp only [State.scanRequest, h.scan, haddr]
  have hnext : t.nextPosition = s.nextPosition := by
    funext k
    unfold State.nextPosition
    rw [h.drum, h.line]
  have hprefetch : t.prefetchWord = s.prefetchWord := by
    unfold State.prefetchWord
    simp only [State.levelAddr, haddr, hnext, h.ring, h.line]
  simp only [State.requests_eq, hscan, hprefetch, h.scan, h.ring, h.read, h.buffer, h.ops, h.slips]

/-! ## The grant (R163, R164) -/

/-- The word is the first that asks. -/
def State.FirstAsked (s : State) (w : PortWord) : Prop :=
  ∃ before after, s.requests = before ++ some w :: after ∧ ∀ r ∈ before, r = none

theorem State.grantee_first {s : State} {w : PortWord} (h : s.grantee = some w) : s.FirstAsked w := by
  obtain ⟨x, hfind, rfl⟩ := Option.bind_eq_some_iff.mp h
  obtain ⟨-, before, after, hsplit, hbefore⟩ := List.find?_eq_some_iff_append.mp hfind
  exact ⟨before, after, hsplit, fun r hr => by simpa using hbefore r hr⟩

theorem State.grantee_none {s : State} (h : s.grantee = none) : ∀ r ∈ s.requests, r = none := by
  intro r hr
  cases hfind : s.requests.find? Option.isSome with
  | none => simpa using List.find?_eq_none.mp hfind r hr
  | some x =>
    have hsome := List.find?_some hfind
    have hx : x = none := by simpa [State.grantee, hfind] using h
    simp [hx] at hsome

/-- What the arbiter makes of a port (R163, R164). -/
structure State.Granted (s t : State) : Prop where
  asks : s.AsksAs t
  goesOn : ∀ v, s.gate.port = some v → t.gate.port = some v
  idle : t.gate.port = none → ∀ r ∈ s.requests, r = none
  granted : ∀ w, t.gate.port = some w → s.gate.port = some w ∨ s.FirstAsked w

theorem State.arbitrate_granted {s : State} (hreset : s.inReset = false) : s.Granted s.arbitrate := by
  unfold State.arbitrate
  cases hp : s.gate.port with
  | some v =>
    rw [if_pos (by simp)]
    exact ⟨⟨rfl, rfl, rfl, rfl, rfl, rfl, rfl, rfl, rfl⟩, fun _ h => h,
      fun h => absurd (hp.symm.trans h) (by simp), fun w h => .inl h⟩
  | none =>
    rw [if_neg (by simp [hreset])]
    split
    · next w hw =>
      refine ⟨⟨rfl, rfl, rfl, rfl, rfl, rfl, rfl, rfl, rfl⟩, fun v h => absurd (hp.symm.trans h) (by simp),
        fun h => absurd h (by simp [State.withGate]), fun x h => .inr ?_⟩
      cases h
      exact State.grantee_first hw
    · next hnone =>
      split
      · exact ⟨⟨rfl, rfl, rfl, rfl, rfl, rfl, rfl, rfl, rfl⟩, fun v h => absurd (hp.symm.trans h) (by simp),
          fun _ => State.grantee_none hnone, fun w h => .inl h⟩
      · exact ⟨⟨rfl, rfl, rfl, rfl, rfl, rfl, rfl, rfl, rfl⟩, fun v h => absurd (hp.symm.trans h) (by simp),
          fun _ => State.grantee_none hnone, fun w h => .inl h⟩

/-- The state that a step's end gives to the arbiter. -/
def toArbiter (old new : State) : State := old.markChanged new.resortRead

theorem State.resortRead_port (s : State) : s.resortRead.gate.port = s.gate.port := by
  unfold State.resortRead
  (repeat' split) <;> rfl

theorem toArbiter_port (old new : State) : (toArbiter old new).gate.port = new.gate.port := by
  unfold toArbiter State.markChanged
  split <;> exact new.resortRead_port

/-- What a step's end makes of the port, by the requests that it leaves. -/
structure State.Arbitrated (new t : State) : Prop where
  goesOn : ∀ v, new.gate.port = some v → t.gate.port = some v
  idle : t.gate.port = none → ∀ r ∈ t.requests, r = none
  granted : ∀ w, t.gate.port = some w → new.gate.port = some w ∨ t.FirstAsked w

theorem finish_arbitrated {old new : State} (hawake : (finish old new).inReset = false) :
    new.Arbitrated (finish old new) := by
  have hreset : (toArbiter old new).inReset = false := by simpa [toArbiter] using hawake
  have grant := State.arbitrate_granted hreset
  have hrequests : (finish old new).requests = (toArbiter old new).requests := grant.asks.requests
  refine ⟨fun v hv => grant.goesOn v ((toArbiter_port old new).trans hv), fun hp => ?_, fun w hw => ?_⟩
  · rw [hrequests]
    exact grant.idle hp
  · refine (grant.granted w hw).imp (fun h => (toArbiter_port old new).symm.trans h) ?_
    rintro ⟨before, after, hsplit, hbefore⟩
    exact ⟨before, after, hrequests.trans hsplit, hbefore⟩

/-! ## A count of the crystal -/

theorem State.holds_congr {s t : State} (hl : t.layout = s.layout) (hring : t.ring = s.ring)
    (hb : t.gate.buffer = s.gate.buffer) (a : Nat) (c : HoldCause) : t.holds a c = s.holds a c := by
  cases c with
  | pendingWrite => simp only [State.holds, Gate.pendingAt, hb]
  | fillingSlot => simp only [State.holds, State.fillingAt, hl, hring]

/-- A read that the sorting again leaves held has the ground of its hold. -/
theorem State.resortRead_holds {s : State} {r : HostRead} {c : HoldCause} (hr : s.resortRead.gate.read = some r)
    (hc : r.held = some c) : s.holds r.target c = true := by
  unfold State.resortRead at hr
  split at hr
  · next q hq =>
    split at hr
    · next cause hcause =>
      split at hr
      · next hholds =>
        obtain rfl : q = r := Option.some.inj (hq.symm.trans hr)
        obtain rfl : cause = c := Option.some.inj (hcause.symm.trans hc)
        exact hholds
      · obtain rfl : s.sorted q = r := Option.some.inj hr
        have hsort : s.sortRead (s.sorted q).target = some c := hc
        unfold State.sortRead at hsort
        split_ifs at hsort with hpending hfilling
        · cases hsort
          exact hpending
        · cases hsort
          exact hfilling
    · next hnone =>
      obtain rfl : q = r := Option.some.inj (hq.symm.trans hr)
      exact absurd (hnone.symm.trans hc) (by simp)
  · next hnone => exact absurd (hnone.symm.trans hr) (by simp)

/-- A read whose hold has its ground is left as it is. -/
theorem State.resortRead_still {s : State}
    (h : ∀ r c, s.gate.read = some r → r.held = some c → s.holds r.target c = true) : s.resortRead = s := by
  unfold State.resortRead
  split
  · next r hr =>
    split
    · next c hc => rw [if_pos (h r c hr hc)]
    · rfl
  · rfl

/-- A read that a step's end has settled is left by the next one. -/
theorem finish_resorted (old new : State) (n : Nat) :
    { finish old new with crystal := n }.resortRead = { finish old new with crystal := n } := by
  refine State.resortRead_still fun r c hr hc => ?_
  have hnew : new.resortRead.gate.read = some r := (finish_read old new).symm.trans hr
  rw [State.holds_congr (s := new) (by simp) (by simp) (by simp)]
  exact State.resortRead_holds hnew hc

/-- The crystal's count asks for nothing: what asked at the end of the moment asks still. -/
theorem finish_count_asksAs (old new s : State) (n : Nat) :
    (finish old new).AsksAs (finish s { finish old new with crystal := n }) := by
  refine ⟨by simp, by simp, by simp, by simp, by simp, by simp, ?_, by simp, by simp⟩
  rw [finish_read, finish_resorted]

/-! ## A step -/

/-- What a step makes of the port, by the command that it runs. -/
structure State.PortStep (s t : State) : Prop where
  idle : t.gate.port = none → ∀ r ∈ t.requests, r = none
  granted : ∀ w, t.gate.port = some w → (∃ v, s.gate.port = some v ∧ v.goesOnAs w) ∨ t.FirstAsked w
  goesOn : ∀ v, s.gate.port = some v → (∀ c q, s.pending = c :: q → v.endedBy c = false) →
    ∃ w, t.gate.port = some w ∧ v.goesOnAs w

/-- A word that goes on up to the step's end goes on, and else the first that asks has the port. -/
theorem State.Arbitrated.portStep {s new t : State} (h : new.Arbitrated t)
    (hrel : Option.Rel PortWord.goesOnAs s.gate.port new.gate.port) : s.PortStep t := by
  refine ⟨h.idle, fun w hw => (h.granted w hw).imp_left fun hnew => ?_, fun v hv _ => ?_⟩
  · rw [hnew] at hrel
    cases hp : s.gate.port with
    | none => rw [hp] at hrel; cases hrel
    | some v =>
      rw [hp] at hrel
      cases hrel with
      | some hvw => exact ⟨v, rfl, hvw⟩
  · rw [hv] at hrel
    cases hnew : new.gate.port with
    | none => rw [hnew] at hrel; cases hrel
    | some w =>
      rw [hnew] at hrel
      cases hrel with
      | some hvw => exact ⟨w, h.goesOn w hnew, hvw⟩

/-- A word that the command reports done leaves the port to the first that asks. -/
theorem State.Arbitrated.portStep_of_done {s new t : State} {c : Instr} {q : List Instr} {x : PortWord}
    (h : new.Arbitrated t) (hq : s.pending = c :: q) (hfree : new.gate.port = none) (hx : s.gate.port = some x)
    (hended : x.endedBy c = true) : s.PortStep t := by
  refine ⟨h.idle, fun w hw => .inr ((h.granted w hw).resolve_left fun hnew => ?_), fun v hv hends => ?_⟩
  · exact absurd (hfree.symm.trans hnew) (by simp)
  · obtain rfl : x = v := Option.some.inj (hx.symm.trans hv)
    exact absurd (hended.symm.trans (hends c q hq)) (by decide)

/-- Two ends of a step, with only a count of the crystal between them, are as one for the port. -/
theorem finish_count_arbitrated {old new s : State} {n : Nat} (hawake : (finish old new).inReset = false) :
    new.Arbitrated (finish s { finish old new with crystal := n }) := by
  have first := finish_arbitrated hawake
  have second : State.Arbitrated { finish old new with crystal := n } (finish s { finish old new with crystal := n }) :=
    finish_arbitrated (by simpa using hawake)
  have hasks := (finish_count_asksAs old new s n).requests
  refine ⟨fun v hv => second.goesOn v (first.goesOn v hv), second.idle, fun w hw => ?_⟩
  rcases second.granted w hw with hp | hasked
  · refine (first.granted w hp).imp_right ?_
    rintro ⟨before, after, hsplit, hbefore⟩
    exact ⟨before, after, hasks.trans hsplit, hbefore⟩
  · exact .inr hasked

theorem State.crystalTick_portStep {s : State} (hawake : s.crystalTick.inReset = false) :
    s.PortStep s.crystalTick := by
  have refl := (Gate.Runs.refl s.gate).port
  by_cases hdue : s.jobs.requestsDue.isSome = true
  · have hend : s.endMoment = finish s s.completeEnd.deliver := by rw [State.endMoment, if_pos hdue]
    have runs : s.gate.Runs s.completeEnd.deliver.gate := State.deliver_runs (State.completeEnd_runs (.refl s.gate))
    rw [State.crystalTick, hend] at hawake ⊢
    exact (finish_count_arbitrated (by simpa using hawake)).portStep runs.port
  · have hend : s.endMoment = s := by rw [State.endMoment, if_neg hdue]
    rw [State.crystalTick, hend] at hawake ⊢
    exact (finish_arbitrated hawake).portStep refl

theorem step_portStep {s t : State} (h : step s = .next t) (hawake : t.inReset = false) : s.PortStep t := by
  cases hq : s.pending with
  | nil =>
    rw [step_of_nil hq] at h
    cases h
    exact State.crystalTick_portStep hawake
  | cons c q =>
    rw [step_of_cons hq] at h
    obtain ⟨x, hx, hfollows⟩ := exec_follows c { s with pending := q }
    obtain rfl : x = t := Host.Outcome.next.inj (hx.symm.trans h)
    rcases hfollows with hasleep | ⟨new, rfl, hleads⟩
    · exact absurd (hasleep.symm.trans hawake) (by decide)
    · have arbitrated := finish_arbitrated hawake
      rcases hleads.port with hrel | ⟨hfree, v, hv, hended⟩
      · exact arbitrated.portStep hrel
      · exact arbitrated.portStep_of_done hq hfree hv hended

/-- Settles O47: the prefetch's word, and the port after every step. -/
theorem theArbiterGrantsThePort : Obligations.TheArbiterGrantsThePort := by
  refine ⟨?_, fun s h => State.prefetchWord_none h, ?_⟩
  · rintro s n next word call l hn hcall hl rfl rfl
    exact State.prefetchWord_eq hn hcall hl
  · rintro s t order ht hawake rfl
    obtain ⟨hidle, hgranted, hgoesOn⟩ := step_portStep ht hawake
    rw [← State.requests_eq]
    exact ⟨hidle, hgranted, hgoesOn⟩


end Sys2Proof.Machine
end

section
/-! PROOFS. The words of the Status Page field by field, as the table of Memory Formats gives them
(12_memory_formats.md, Status Page, Code values, Unused fields and narrow fields). -/

namespace Sys2Proof.Machine

/-! ## The codes by their places in their sets (12, Code values) -/

theorem LoadResult.codeOr_eq (x : Option LoadResult) :
    codeOr LoadResult.code x =
      [none, some .accepted, some .refusedInvalid, some .refusedBusy].idxOf x := by
  cases x with
  | none => rfl
  | some y => cases y <;> rfl

theorem LoadReason.codeOr_eq (x : Option LoadReason) :
    codeOr LoadReason.code x =
      [none, some .badVersion, some .badCount, some .misaligned, some .outsideTop, some .overlap, some
        .busy].idxOf x := by
  cases x with
  | none => rfl
  | some y => cases y <;> rfl

theorem CaptureRefusal.codeOr_eq (x : Option CaptureRefusal) :
    codeOr CaptureRefusal.code x =
      [none, some .partialBytes, some .parity, some .range].idxOf x := by
  cases x with
  | none => rfl
  | some y => cases y <;> rfl

theorem DropReason.codeOr_eq (x : Option DropReason) :
    codeOr DropReason.code x =
      [none, some .statusPage, some .preview, some .ring, some .history, some .tcb, some .toneBank].idxOf x := by
  cases x with
  | none => rfl
  | some y => cases y <;> rfl

theorem RepeatRefusal.codeOr_eq (x : Option RepeatRefusal) :
    codeOr RepeatRefusal.code x =
      [none, some .queueBusy, some .limitReached, some .emptyRange, some .linesGone].idxOf x := by
  cases x with
  | none => rfl
  | some y => cases y <;> rfl

theorem AttemptOutcome.codeOr_eq (x : Option AttemptOutcome) :
    codeOr AttemptOutcome.code x =
      [none, some .sent, some .noAnswer, some .notReady, some .lineLost, some .drumFault, some .halted,
        some .carriageFault, some .aborted, some .operatorStop, some .mediaRemoved].idxOf x := by
  cases x with
  | none => rfl
  | some y => cases y <;> rfl

theorem RefusalReason.codeOr_eq (x : Option RefusalReason) :
    codeOr RefusalReason.code x =
      [none, some .badAddress, some .frameOutOfRange, some .badSpeed, some .badSlots, some .badPitch, some
        .badReferences, some .badDestination, some .ringTooSmall, some .chainTooLong, some .chainMismatch,
        some .duplicate, some .busy, some .badAction].idxOf x := by
  cases x with
  | none => rfl
  | some y => cases y <;> rfl

theorem DrumState.code_eq (x : DrumState) :
    x.code =
      [DrumState.stopped, .ramping, .settling, .inBand, .bandWarning, .faultWait, .latched, .parking].idxOf x := by
  cases x <;> rfl

theorem CarriageState.code_eq (x : CarriageState) :
    x.code =
      [CarriageState.unhomed, .homing, .positioning, .atFrame, .tracking, .fault].idxOf x := by
  cases x <;> rfl

theorem ScannerState.code_eq (x : ScannerState) :
    x.code =
      [ScannerState.idle, .warming, .ready, .scanning, .frameDone].idxOf x := by
  cases x <;> rfl

theorem Detail.code_eq (x : Detail) :
    x.code =
      [Detail.none, .bandLost, .stall, .slip, .overcurrent, .drumNotReady, .noIndex, .carriageNotReady,
        .scannerNotReady, .carriageEvent].idxOf x := by
  cases x <;> rfl

theorem JobState.code_eq (x : JobState) :
    x.code =
      [JobState.idle, .mountWait, .attempting, .retryWait, .finishing].idxOf x := by
  cases x <;> rfl

theorem Mount.code_eq (x : Mount) :
    x.code =
      [Mount.fresh, .opened, .stale].idxOf x := by
  cases x <;> rfl

theorem PrinterState.code_eq (x : PrinterState) :
    x.code =
      [PrinterState.idle, .printing, .paperOut].idxOf x := by
  cases x <;> rfl

theorem LineState.code_eq (x : LineState) : x.code = State.statusFields.lineStates.idxOf x := by
  cases x <;> rfl

/-- Of a tone the codes are shown from 1 on, 0 standing for none. -/
theorem Tone.codeOr_eq (x : Option (Tone × LineState)) :
    codeOr (fun p => Tone.code p.1) x =
      [none, some .ready, some .notReady, some .repeatLines, some .halt].idxOf (x.map fun p => p.1) := by
  cases x with
  | none => rfl
  | some p =>
    obtain ⟨tone, state⟩ := p
    cases tone <;> rfl

theorem LineState.codeOr_eq (x : Option (Tone × LineState)) :
    codeOr (fun p => LineState.code p.2) x =
      (x.map fun p => State.statusFields.lineStates.idxOf p.2).getD 0 := by
  cases x with
  | none => rfl
  | some p => exact LineState.code_eq p.2

/-! ## Words by the widths of their fields (R191, R192) -/

theorem fieldsValue_nil : fieldsValue [] = 0 := rfl

theorem fieldsValue_cons (lo width v : Nat) (fields : List (Nat × Nat × Nat)) :
    fieldsValue ((lo, width, v) :: fields) = 2 ^ lo * min v (2 ^ width - 1) + fieldsValue fields := by
  simp [fieldsValue]

theorem min_bitOf_toNat (b : Bool) : min (bitOf b) 255 = b.toNat := by cases b <;> rfl

theorem min_toNat_bit (b : Bool) : min b.toNat (2 ^ 1 - 1) = b.toNat := by cases b <;> rfl

theorem fromField_fields (n : Nat) : (fromField n).toNat = fieldsValue [(0, 32, n)] := by
  simp only [fromField, BitVec.toNat_ofNat, fieldsValue_cons, fieldsValue_nil]
  omega

theorem word_fields (w : Word) : w.toNat = fieldsValue [(0, 32, w.toNat)] := by
  simp only [fieldsValue_cons, fieldsValue_nil]
  omega

theorem fromHalves_fields (lo hi : Nat) : (fromHalves lo hi).toNat = fieldsValue [(0, 16, lo), (16, 16, hi)] := by
  simp only [fromHalves_toNat, fieldsValue_cons, fieldsValue_nil]
  omega

theorem fromBytes_fields (a b c d : Nat) :
    (fromBytes a b c d).toNat = fieldsValue [(0, 8, a), (8, 8, b), (16, 8, c), (24, 8, d)] := by
  simp only [fromBytes_toNat, fieldsValue_cons, fieldsValue_nil]
  omega

theorem fromBytes_three_fields (a b c : Nat) :
    (fromBytes a b c 0).toNat = fieldsValue [(0, 8, a), (8, 8, b), (16, 8, c)] := by
  simp only [fromBytes_toNat, fieldsValue_cons, fieldsValue_nil]
  omega

theorem fromBytes_flag_fields (a b c : Nat) (d : Bool) :
    (fromBytes a b c (bitOf d)).toNat = fieldsValue [(0, 8, a), (8, 8, b), (16, 8, c), (24, 1, d.toNat)] := by
  simp only [fromBytes_toNat, fieldsValue_cons, fieldsValue_nil, min_bitOf_toNat, min_toNat_bit]
  omega

theorem fromBytes_flag1_flag3_fields (a c : Nat) (b d : Bool) :
    (fromBytes a (bitOf b) c (bitOf d)).toNat =
      fieldsValue [(0, 8, a), (8, 1, b.toNat), (16, 8, c), (24, 1, d.toNat)] := by
  simp only [fromBytes_toNat, fieldsValue_cons, fieldsValue_nil, min_bitOf_toNat, min_toNat_bit]
  omega

theorem fromBytes_flag2_fields (a b d : Nat) (c : Bool) :
    (fromBytes a b (bitOf c) d).toNat = fieldsValue [(0, 8, a), (8, 8, b), (16, 1, c.toNat), (24, 8, d)] := by
  simp only [fromBytes_toNat, fieldsValue_cons, fieldsValue_nil, min_bitOf_toNat, min_toNat_bit]
  omega

theorem fromBytes_flag1_fields (a c d : Nat) (b : Bool) :
    (fromBytes a (bitOf b) c d).toNat = fieldsValue [(0, 8, a), (8, 1, b.toNat), (16, 8, c), (24, 8, d)] := by
  simp only [fromBytes_toNat, fieldsValue_cons, fieldsValue_nil, min_bitOf_toNat, min_toNat_bit]
  omega

theorem fromBytes_flag2_flag3_fields (a b : Nat) (c d : Bool) :
    (fromBytes a b (bitOf c) (bitOf d)).toNat =
      fieldsValue [(0, 8, a), (8, 8, b), (16, 1, c.toNat), (24, 1, d.toNat)] := by
  simp only [fromBytes_toNat, fieldsValue_cons, fieldsValue_nil, min_bitOf_toNat, min_toNat_bit]
  omega

theorem fromHalfBytes_fields (lo b : Nat) : (fromHalfBytes lo b 0).toNat = fieldsValue [(0, 16, lo), (16, 8, b)] := by
  simp only [fromHalfBytes_toNat, fieldsValue_cons, fieldsValue_nil]
  omega

theorem fromBytesHalf_fields (a b hi : Nat) :
    (fromBytesHalf a b hi).toNat = fieldsValue [(0, 8, a), (8, 8, b), (16, 16, hi)] := by
  simp only [fromBytesHalf_toNat, fieldsValue_cons, fieldsValue_nil]
  omega

theorem fromBytesHalf_flag_fields (a hi : Nat) (b : Bool) :
    (fromBytesHalf a (bitOf b) hi).toNat = fieldsValue [(0, 8, a), (8, 1, b.toNat), (16, 16, hi)] := by
  simp only [fromBytesHalf_toNat, fieldsValue_cons, fieldsValue_nil, min_bitOf_toNat, min_toNat_bit]
  omega

/-! ## The words whose fields are neither numbers nor codes alone -/

theorem LayoutUnit.stateCode_eq (l : LayoutUnit) :
    l.stateCode = if l.load ≠ none then 1 else if l.inForce = none then 0 else 2 := by
  unfold LayoutUnit.stateCode
  cases l.load <;> cases l.inForce <;> rfl

theorem Speed.codeOr_eq (x : Option Speed) :
    codeOr Speed.code x =
      (match x with
        | none => 0
        | some .rpm60 => 60
        | some .rpm90 => 90
        | some .rpm120 => 120) := by
  cases x with
  | none => rfl
  | some y => cases y <;> rfl

theorem Cause.codeOr_eq (x : Option Cause) :
    codeOr Cause.code x =
      (match x with
        | none => 0
        | some .carriageFault => 7
        | some .aborted => 8
        | some .operatorStop => 9
        | some .mediaRemoved => 10) := by
  cases x with
  | none => rfl
  | some y => cases y <;> rfl

/-- Five flags in a byte of their own. -/
theorem fromBytes_flags_fields (a b c : Nat) (f0 f1 f2 f3 f4 : Bool) :
    (fromBytes a b c (bitsByte [f0, f1, f2, f3, f4])).toNat =
      fieldsValue [(0, 8, a), (8, 8, b), (16, 8, c), (24, 1, f0.toNat), (25, 1, f1.toNat), (26, 1, f2.toNat),
        (27, 1, f3.toNat), (28, 1, f4.toNat)] := by
  have hflags : min (bitsByte [f0, f1, f2, f3, f4]) 255 =
      f0.toNat + 2 * f1.toNat + 4 * f2.toNat + 8 * f3.toNat + 16 * f4.toNat := by
    revert f0 f1 f2 f3 f4
    decide
  simp only [fromBytes_toNat, fieldsValue_cons, fieldsValue_nil, hflags, min_toNat_bit]
  omega

/-- The mount state in two bits, and the clamp. -/
theorem fromBytes_mount_fields (a b c : Nat) (m : Mount) (clamp : Bool) :
    (fromBytes a b c (m.code + 4 * bitOf clamp)).toNat =
      fieldsValue [(0, 8, a), (8, 8, b), (16, 8, c), (24, 2, m.code), (26, 1, clamp.toNat)] := by
  have hbyte : min (m.code + 4 * bitOf clamp) 255 = min m.code 3 + 4 * clamp.toNat := by
    cases m <;> cases clamp <;> rfl
  simp only [fromBytes_toNat, fieldsValue_cons, fieldsValue_nil, hbyte, min_toNat_bit]
  omega

theorem Job.headAddr_of_current (x : Option Job) :
    (x.map Job.headAddr).getD 0 = ((x.bind fun j => j.members.head?).map fun m => m.addr).getD 0 := by
  cases x <;> rfl

/-- A SPIN recorded by a drum in LATCHED. -/
theorem Drum.spinRecorded_toNat (d : Drum) :
    (d.state == .latched && d.spinRequest.isSome).toNat =
      if d.state = .latched ∧ d.spinRequest ≠ none then 1 else 0 := by
  by_cases h : d.state = .latched <;> cases hr : d.spinRequest <;> simp [h]

/-- The last pair, each of its values FFFFh while there is none. -/
theorem State.lastPair_fields (s : State) : (s.statusWord 18).toNat = fieldsValue (s.statusFields 18) := by
  have hword : s.statusWord 18 =
      fromHalves ((s.scan.lastPair.map fun x => x.1).getD 65535) ((s.scan.lastPair.map fun x => x.2).getD 65535) := by
    show (match s.scan.lastPair with
      | some (b, w) => fromHalves b w
      | none => fromHalves 65535 65535) = _
    cases s.scan.lastPair <;> rfl
  rw [hword]
  exact fromHalves_fields _ _

/-- The generation of the layout in force, 0 while there is none. -/
theorem State.generation_fields (s : State) : (s.statusWord 3).toNat = fieldsValue (s.statusFields 3) := by
  have hword : (s.statusWord 3).toNat = (s.layout.inForce.map fun l => l.generation.toNat).getD 0 := by
    show ((s.layout.inForce.map Layout.generation).getD 0).toNat = _
    cases s.layout.inForce <;> rfl
  refine (word_fields _).trans ?_
  rw [hword]
  rfl

/-! ## The page -/

/-- Each word of the page is its fields' value. -/
theorem State.statusWord_fields (s : State) : ∀ w, (s.statusWord w).toNat = fieldsValue (s.statusFields w)
  | 0 => fromBytes_flag_fields _ _ _ _
  | 1 => fromField_fields _
  | 2 => (fromBytes_flag_fields _ _ _ _).trans (by
    rw [LayoutUnit.stateCode_eq, LoadResult.codeOr_eq, LoadReason.codeOr_eq]
    rfl)
  | 3 => s.generation_fields
  | 4 => word_fields _
  | 5 => fromHalves_fields _ _
  | 6 => fromHalves_fields _ _
  | 7 => (fromHalfBytes_fields _ _).trans (by rw [CaptureRefusal.codeOr_eq]; rfl)
  | 8 => (fromHalfBytes_fields _ _).trans (by rw [DropReason.codeOr_eq]; rfl)
  | 9 => fromField_fields _
  | 10 => (fromBytes_flags_fields _ _ _ _ _ _ _ _).trans (by
    rw [DrumState.code_eq, Speed.codeOr_eq, Drum.spinRecorded_toNat]
    rfl)
  | 11 => fromHalves_fields _ _
  | 12 => fromHalves_fields _ _
  | 13 => fromHalves_fields _ _
  | 14 => (fromBytesHalf_flag_fields _ _ _).trans (by rw [CarriageState.code_eq]; rfl)
  | 15 => (fromBytes_flag1_flag3_fields _ _ _ _).trans (by rw [ScannerState.code_eq]; rfl)
  | 16 => fromHalves_fields _ _
  | 17 => fromHalves_fields _ _
  | 18 => s.lastPair_fields
  | 19 => fromHalves_fields _ _
  | 20 => fromBytesHalf_fields _ _ _
  | 21 => (fromBytes_three_fields _ _ _).trans (by rw [RepeatRefusal.codeOr_eq]; rfl)
  | 22 => fromHalves_fields _ _
  | 23 => fromHalves_fields _ _
  | 24 => (fromBytes_flag2_fields _ _ _ _).trans (by rw [LineState.code_eq]; rfl)
  | 25 => (fromBytes_fields _ _ _ _).trans (by
    rw [Tone.codeOr_eq, LineState.codeOr_eq, AttemptOutcome.codeOr_eq, Detail.code_eq]
    rfl)
  | 26 => (fromBytes_mount_fields _ _ _ _ _).trans (by
    rw [JobState.code_eq, Cause.codeOr_eq, Mount.code_eq]
    rfl)
  | 27 => (fromField_fields _).trans (by rw [Job.headAddr_of_current]; rfl)
  | 28 => (fromHalfBytes_fields _ _).trans (by rw [RefusalReason.codeOr_eq]; rfl)
  | 29 => fromBytes_fields _ _ _ _
  | 30 => fromBytesHalf_flag_fields _ _ _
  | 31 => fromField_fields _
  | 32 => (fromBytes_three_fields _ _ _).trans (by rw [PrinterState.code_eq]; rfl)
  | 33 => fromHalves_fields _ _
  | 34 => fromHalves_fields _ _
  | 35 => fromHalves_fields _ _
  | 36 => fromBytes_flag1_fields _ _ _ _
  | 37 => fromBytes_flag2_flag3_fields _ _ _ _
  | _ + 38 => rfl

/-! ## The marks that a step sets (R166) -/

theorem getD_zipWith {α β γ : Type} (f : α → β → γ) (x : α) (y : β) (xs : List α) (ys : List β)
    (h : xs.length = ys.length) (w : Nat) :
    (List.zipWith f xs ys).getD w (f x y) = f (xs.getD w x) (ys.getD w y) := by
  by_cases hw : w < xs.length
  · have hw' : w < ys.length := h ▸ hw
    simp [List.getD_eq_getElem?_getD, hw, hw']
  · have hw' : ¬ w < ys.length := h ▸ hw
    simp [List.getD_eq_getElem?_getD, List.getElem?_zipWith, List.getElem?_eq_none (Nat.le_of_not_lt hw),
      List.getElem?_eq_none (Nat.le_of_not_lt hw')]

theorem State.statusPage_length (s : State) : s.statusPage.length = 64 := rfl

theorem State.statusPage_getD (s : State) (w : Nat) : s.statusPage.getD w 0 = s.statusWord w := by
  have hlength : s.statusWords.length = 38 := rfl
  unfold State.statusPage State.statusWord
  by_cases h : w < 38
  · rw [List.getD_append _ _ _ _ (by omega)]
  · rw [List.getD_append_right _ _ _ _ (by omega), List.getD_eq_default s.statusWords _ (by omega),
      List.getD_eq_getElem?_getD, List.getElem?_replicate]
    split <;> rfl

theorem State.resortRead_marks (s : State) : s.resortRead.gate.marks = s.gate.marks := by
  unfold State.resortRead
  (repeat' split) <;> rfl

theorem State.resortRead_dropped (s : State) :
    s.resortRead.gate.dropped = s.gate.dropped ∧ s.resortRead.gate.droppedAddr = s.gate.droppedAddr ∧
      s.resortRead.gate.droppedReason = s.gate.droppedReason := by
  unfold State.resortRead
  (repeat' split) <;> exact ⟨rfl, rfl, rfl⟩

/-- The sorting of the read changes no word of the page. -/
theorem State.resortRead_statusWord (s : State) : s.resortRead.statusWord = s.statusWord := by
  obtain ⟨hdropped, haddr, hreason⟩ := s.resortRead_dropped
  funext w
  simp [hdropped, haddr, hreason, State.statusWord, State.statusWords, State.statusLow, State.statusDrive,
    State.statusLine, State.statusJobs, State.statusMail]

theorem finish_statusWord (old new : State) : (finish old new).statusWord = new.statusWord := by
  funext w
  simp [State.statusWord, State.statusWords, State.statusLow, State.statusDrive, State.statusLine, State.statusJobs,
    State.statusMail]

/-- A word is marked when it was, or when its value has changed, while a layout is in force. -/
theorem toArbiter_marks {old new : State} {l : Layout} (hl : new.layout.inForce = some l)
    (hlength : new.gate.marks.length = 64) :
    (toArbiter old new).gate.marks.length = 64 ∧
      ∀ w, (toArbiter old new).gate.marks.getD w false =
        (new.gate.marks.getD w false || decide (old.statusWord w ≠ new.statusWord w)) := by
  have hmarks : (toArbiter old new).gate.marks =
      List.zipWith (· || ·) new.gate.marks (List.zipWith (· != ·) old.statusPage new.resortRead.statusPage) := by
    rw [toArbiter, State.markChanged, if_pos (by simp [hl]), ← new.resortRead_marks]
    rfl
  have hchanged : (List.zipWith (· != ·) old.statusPage new.resortRead.statusPage).length = 64 := by
    simp [State.statusPage_length]
  refine ⟨by simp [hmarks, hlength, hchanged], fun w => ?_⟩
  have hpage : old.statusPage.length = new.resortRead.statusPage.length := by
    rw [State.statusPage_length, State.statusPage_length]
  have hword : (List.zipWith (· != ·) old.statusPage new.resortRead.statusPage).getD w false =
      decide (old.statusWord w ≠ new.statusWord w) := by
    rw [show false = ((0 : Word) != 0) from rfl, getD_zipWith _ _ _ _ _ hpage, State.statusPage_getD,
      State.statusPage_getD, State.resortRead_statusWord]
    by_cases h : old.statusWord w = new.statusWord w <;> simp [h]
  rw [hmarks, ← hword]
  exact getD_zipWith (· || ·) false false _ _ (hlength.trans hchanged.symm) w

/-! ## The Status Writer (R163, R166) -/

/-- The lowest mark, by the marks below it. -/
theorem Gate.lowestMark_of {g : Gate} {m : Nat} (hlength : g.marks.length = 64) (hm : m < 64)
    (hmarked : g.marks.getD m false = true) (hbelow : ∀ w < m, g.marks.getD w false = false) :
    g.lowestMark = some m := by
  have htake : g.marks.take 64 = g.marks := List.take_of_length_le (by omega)
  rw [Gate.lowestMark, htake, List.findIdx?_eq_some_iff_getElem]
  refine ⟨by omega, ?_, fun w hw => ?_⟩
  · rw [List.getD_eq_getElem _ _ (show m < g.marks.length by omega)] at hmarked
    simp [hmarked]
  · have hlt : w < g.marks.length := by omega
    have hfalse := hbelow w hw
    rw [List.getD_eq_getElem _ _ hlt] at hfalse
    simp [hfalse]

theorem State.arbitrate_marks_busy {s : State} (h : s.arbitrate.gate.port ≠ none) :
    s.arbitrate.gate.marks = s.gate.marks := by
  unfold State.arbitrate at h ⊢
  split
  · rfl
  · next hfree =>
    rw [if_neg hfree] at h
    split
    · rfl
    · next hnone =>
      have hp : s.gate.port = none := by
        rw [Bool.or_eq_true, not_or] at hfree
        simpa using hfree.2
      rw [hnone] at h
      dsimp only at h
      split at h
      · exact absurd hp h
      · exact absurd hp h

/-- With no requester left at the port, the lowest marked word is written. -/
theorem State.arbitrate_writes {s : State} {l : Layout} {m : Nat} (hreset : s.inReset = false)
    (hl : s.layout.inForce = some l) (hidle : s.arbitrate.gate.port = none) (hm : s.gate.lowestMark = some m) :
    s.arbitrate = s.writeStatus l m := by
  have hp : s.gate.port = none := by
    cases hp : s.gate.port with
    | none => rfl
    | some v => exact absurd ((State.arbitrate_granted hreset).goesOn v hp) (by simp [hidle])
  unfold State.arbitrate at hidle ⊢
  rw [if_neg (by simp [hreset, hp])] at hidle ⊢
  cases hgrant : s.grantee with
  | some w =>
    rw [hgrant] at hidle
    exact absurd hidle (by simp [State.withGate])
  | none => simp only [hl, hm]

theorem State.arbitrate_marks_length (s : State) : s.arbitrate.gate.marks.length = s.gate.marks.length := by
  unfold State.arbitrate
  (repeat' split) <;> simp [State.writeStatus]

theorem State.markChanged_wf (old new : State) (h : new.mem.wf = true) : (toArbiter old new).mem.wf = true := by
  simpa [toArbiter] using h

/-- What a step's end makes of the page: the marks, and the word that the Status Writer writes. -/
theorem finish_page {old new : State} {l : Layout} {marked : Nat → Bool} (hawake : (finish old new).inReset = false)
    (hl : (finish old new).layout.inForce = some l) (hlength : new.gate.marks.length = 64) (hwf : new.mem.wf = true)
    (hmarked : ∀ w < 64,
      marked w = (new.gate.marks.getD w false || decide (old.statusWord w ≠ (finish old new).statusWord w))) :
    (finish old new).gate.marks.length = 64 ∧
    ((finish old new).gate.port ≠ none → ∀ w < 64, (finish old new).gate.marks.getD w false = marked w) ∧
    ((finish old new).gate.port = none → ∀ m < 64, marked m = true → (∀ w < m, marked w = false) →
      (∀ w < 64, (finish old new).gate.marks.getD w false = (marked w && decide (w ≠ m))) ∧
      (finish old new).mem.word (l.statusBase + 4 * m) = (finish old new).statusWord m) := by
  have hl' : new.layout.inForce = some l := by simpa using hl
  obtain ⟨hlen, hmarks⟩ := toArbiter_marks (old := old) hl' hlength
  have hall : ∀ w < 64, (toArbiter old new).gate.marks.getD w false = marked w := fun w hw => by
    rw [hmarked w hw, hmarks w, finish_statusWord]
  refine ⟨(State.arbitrate_marks_length _).trans hlen, fun hbusy w hw => ?_, fun hidle m hm hset hbelow => ?_⟩
  · rw [finish, State.arbitrate_marks_busy hbusy]
    exact hall w hw
  · have hlow : (toArbiter old new).gate.lowestMark = some m :=
      Gate.lowestMark_of hlen hm ((hall m hm).trans hset) fun w hw => (hall w (by omega)).trans (hbelow w hw)
    have hwritten : finish old new = (toArbiter old new).writeStatus l m :=
      State.arbitrate_writes (by simpa [toArbiter] using hawake) (by simpa [toArbiter] using hl') hidle hlow
    refine ⟨fun w hw => ?_, ?_⟩
    · rw [hwritten]
      show ((toArbiter old new).gate.marks.set m false).getD w false = _
      by_cases hwm : w = m
      · subst hwm
        simp [List.getD_eq_getElem?_getD, hlen, hw]
      · rw [← hall w hw]
        simp [List.getD_eq_getElem?_getD, hwm, Ne.symm hwm]
    · have hsame : (toArbiter old new).statusWord m = (finish old new).statusWord m := by
        rw [hwritten]
        rfl
      rw [← hsame, hwritten]
      exact Memory.word_write _ _ _ (State.markChanged_wf old new hwf)

/-! ## A command and a count of the crystal -/

theorem State.Leads.marks_length {c : Instr} {s new : State} (h : s.Leads c new) (hlength : s.gate.marks.length = 64) :
    new.gate.marks.length = 64 := by
  by_cases ha : s.Accepts c new
  · rw [h.marked ha, List.length_replicate]
  · rw [h.unmarked ha, hlength]

/-- A command marks all sixty-four words when it accepts a layout, and none otherwise. -/
theorem State.Leads.marks_getD {c : Instr} {s new : State} {w : Nat} (h : s.Leads c new) (hw : w < 64) :
    new.gate.marks.getD w false =
      (c == .loadProfileWord &&
        decide (s.layout.load ≠ new.layout.load ∧ new.layout.lastResult = some .accepted) ||
        s.gate.marks.getD w false) := by
  have haccepts : (c == .loadProfileWord &&
      decide (s.layout.load ≠ new.layout.load ∧ new.layout.lastResult = some .accepted)) = true ↔
      s.Accepts c new := by
    rw [Bool.and_eq_true, beq_iff_eq, decide_eq_true_eq]
    rfl
  by_cases ha : s.Accepts c new
  · rw [h.marked ha, haccepts.mpr ha, Bool.true_or, List.getD_eq_getElem _ _ (by rw [List.length_replicate]; exact hw)]
    exact List.getElem_replicate _
  · rw [h.unmarked ha, Bool.eq_false_iff.mpr (haccepts.not.mpr ha), Bool.false_or]

/-- Settles O48: the page after a command, after a count of the crystal, and its words field by field. -/
theorem theStatusWriterKeepsThePage : Obligations.TheStatusWriterKeepsThePage := by
  refine ⟨?_, ?_, fun s w => s.statusWord_fields w⟩
  · intro c s t l marked ht hreset hawake hlength hwf hl hmarked
    obtain ⟨x, hx, hfollows⟩ := exec_follows c s
    obtain rfl : x = t := Host.Outcome.next.inj (hx.symm.trans ht)
    rcases hfollows with hasleep | ⟨new, rfl, hleads⟩
    · exact absurd (hasleep.symm.trans hawake) (by decide)
    · have hlayout : (finish s new).layout = new.layout := by simp
      refine finish_page hawake hl (hleads.marks_length hlength) (hleads.timeless.mem hwf) fun w hw => ?_
      rw [hmarked, hleads.marks_getD hw, hlayout]
  · intro s t hq hquiet ht hreset hlength hwf l m hl hidle hm hset hbelow
    have hend : s.endMoment = s := by simp [State.endMoment, hquiet]
    rw [step_of_nil hq, State.crystalTick, hend] at ht
    obtain rfl := Host.Outcome.next.inj ht
    have hword : (finish s { s with crystal := s.crystal + 1 }).statusWord = s.statusWord := finish_statusWord _ _
    obtain ⟨hlen, -, hwritten⟩ := finish_page (old := s) (new := { s with crystal := s.crystal + 1 })
      (marked := fun w => s.gate.marks.getD w false) (by simpa using hreset) (by simpa using hl) hlength hwf
      (fun w _ => by simp [hword])
    have hbelow' : ∀ w < m, s.gate.marks.getD w false = false := fun w hw => by
      simp [List.getD_eq_getElem?_getD, hbelow w hw]
    obtain ⟨hmarks, hmem⟩ := hwritten hidle m hm (by simp [List.getD_eq_getElem?_getD, hset]) hbelow'
    refine ⟨List.ext_getElem (by simp [hlen, hlength]) fun w hw hw' => ?_, hmem.trans (congrFun hword m)⟩
    have hgetD := hmarks w (by omega)
    have hws : w < s.gate.marks.length := by omega
    rw [List.getD_eq_getElem _ _ hw, List.getD_eq_getElem _ _ hws] at hgetD
    rw [hgetD, List.getElem_set]
    by_cases hwm : w = m
    · simp [hwm]
    · simp [hwm, Ne.symm hwm]


end Sys2Proof.Machine
end

section
/-! PROOFS. What O58 asks of the free value of log entry 25. Its last clause has no premise that no event waits, so a
carriage-fault event left over from an earlier step is taken by any command that delivers events, and the free value
then says whether the requests of the cause go on their way (R93, R114). -/

namespace Sys2Proof.Machine

/-- At count `n` the paper runs out with an attempt in progress and a carriage-fault event waiting. Every step takes the
events that it gives, so no run reaches it. -/
def State.faultLeft (n : Nat) : State :=
  { State.reset with
    crystal := n, inReset := false, pending := [.paperOut]
    carriage := { Carriage.reset with faultEvent := true }
    jobs := { Jobs.reset with state := .attempting, attemptInProgress := true } }

theorem exec_paperOut {s : State} (h : s.inReset = false) (hpaper : s.slips.paper = true) :
    exec .paperOut s =
      .next (finish s (s.mapSlips fun u => { u with paper := false }.enterPaperOut).deliver) :=
  show execPaperOut s = _ from whenLevel_due _ _ _ s h hpaper

/-- With no other event waiting, a carriage-fault is the one that is taken. -/
theorem State.deliver_fault {s : State} (ht : s.carriage.truncationEvent = false)
    (ha : s.carriage.arrivalEvent = false) (hb : s.drum.bandLostSignal = false) :
    s.deliver = s.takeCarriageFault := by
  simp [State.deliver, State.takeTruncation, State.takeArrival, State.takeBandLost, ht, ha, hb]

theorem State.faultLeft_step (n : Nat) : ∃ t, step (State.faultLeft n) = .next t ∧
    (Config.faultRequestsLate n = true → t.jobs.requestsDue = some { freeAhead := none }) := by
  refine ⟨_, (step_of_cons (q := []) rfl).trans (exec_paperOut rfl rfl), fun hlate => ?_⟩
  rw [State.deliver_fault rfl rfl rfl,
    ((State.takeCarriageFault_delivered _ _).goesOut rfl rfl rfl hlate rfl).rest]

/-- O58 would fix the free value of log entry 25, which the model leaves open: no proof of O58 can reach that value, an
opaque constant. -/
theorem faultRequestsLate_of_stateLegal (h : Obligations.EveryStepKeepsTheStateLegal) (n : Nat) :
    Config.faultRequestsLate n = false := by
  obtain ⟨t, ht, hlate⟩ := State.faultLeft_step n
  obtain ⟨-, -, -, -, -, -, -, -, -, hrequests⟩ := h _ t ht
  have hnone : t.jobs.requestsDue = none := hrequests rfl fun c q hq => by
    obtain ⟨rfl, -⟩ := List.cons.inj hq
    rfl
  by_contra hn
  simp [hlate (Bool.eq_true_of_not_eq_false hn)] at hnone

end Sys2Proof.Machine
end

section
/-! PROOFS. The invariants of O58 by the block that each is about, and what the Memory Gate, the Mailbox Unit, the Scan
Unit and the Job Controller make of them: the relay and the SEND lamp (R79, R96), the MOUNT lamp and the queue (R121,
R106), ATTN (R188), the posted-write buffer and the marks (09), the uptime (R140) and the Profile Shadow (R177). -/

-- The proofs of this part are elaborated one after another: at once, their threads take too much memory.
set_option Elab.async false

namespace Sys2Proof.Machine

/-! ## The parts of the invariants -/

/-- The states in which the relay is open (R96). -/
def LineState.atRest : LineState → Bool
  | .onHook | .releaseGuard => true
  | _ => false

/-- The relay is closed exactly outside ON_HOOK and RELEASE_GUARD, and the SEND lamp is lit with it (R79, R96). -/
def Line.Legal (l : Line) : Prop := l.relay = !l.state.atRest ∧ l.sendLamp = l.relay

/-- The MOUNT lamp is lit exactly in MOUNT_WAIT (R121). -/
def Jobs.LampLegal (j : Jobs) : Prop := j.mountLamp = (j.state == .mountWait)

/-- ATTN is asserted exactly when some Return slot is FULL (R188). -/
def Mailbox.Legal (m : Mailbox) : Prop := m.attn = m.slots.any (· == .full)

theorem State.relayLegal_and_sendLampLegal_iff (s : State) :
    s.relayLegal = true ∧ s.sendLampLegal = true ↔ s.line.Legal := by
  have hrest : (s.line.state == .onHook || s.line.state == .releaseGuard) = s.line.state.atRest := by
    cases s.line.state <;> rfl
  simp [State.relayLegal, State.sendLampLegal, Line.Legal, hrest]

theorem State.lampLegal_iff (s : State) : s.lampLegal = true ↔ s.jobs.LampLegal := by
  simp [State.lampLegal, Jobs.LampLegal]

theorem State.attnLegal_iff (s : State) : s.attnLegal = true ↔ s.mailbox.Legal := by
  simp [State.attnLegal, Mailbox.Legal]

theorem State.bufferLegal_iff (s : State) : s.bufferLegal = true ↔ s.gate.buffer.length ≤ 2 := by
  simp [State.bufferLegal]

theorem State.uptimeLegal_iff (s : State) : s.uptimeLegal = true ↔ s.clock.uptime ≤ 4294967295 := by
  simp [State.uptimeLegal]

/-! ## What a block keeps -/

/-- From `j` to `k` the lamp and the length of the queue stay legal. `settled` says that nothing but a carriage-fault
puts the requests of an end cause on their way; where the free value of log entry 25 takes those at once, none are. -/
structure Jobs.KeepsLegal (settled : Bool) (j k : Jobs) : Prop where
  lamp : j.LampLegal → k.LampLegal
  queue : j.queue.length ≤ 16 → k.queue.length ≤ 16
  requests : settled = true → (∀ n, Config.faultRequestsLate n = false) → j.requestsDue = none → k.requestsDue = none

/-- From `g` to `h` the posted-write buffer holds at most two writes, and a mark stands for each Status Page word. -/
structure Gate.KeepsLegal (g h : Gate) : Prop where
  buffer : g.buffer.length ≤ 2 → h.buffer.length ≤ 2
  marks : g.marks.length = 64 → h.marks.length = 64

/-- What is legal in `s` is legal in `t`, block by block. -/
structure State.KeepsLegal (settled : Bool) (s t : State) : Prop where
  line : s.line.Legal → t.line.Legal
  jobs : s.jobs.KeepsLegal settled t.jobs
  mailbox : s.mailbox.Legal → t.mailbox.Legal
  gate : s.gate.KeepsLegal t.gate
  uptime : s.clock.uptime ≤ 4294967295 → t.clock.uptime ≤ 4294967295
  profile : s.profile.Legal → t.profile.Legal

variable {b : Bool} {u s t : State}

theorem Jobs.KeepsLegal.of_eq {j k : Jobs} (hstate : k.state = j.state) (hlamp : k.mountLamp = j.mountLamp)
    (hqueue : k.queue = j.queue) (hrequests : k.requestsDue = j.requestsDue) : j.KeepsLegal b k where
  lamp h := by rw [Jobs.LampLegal, hstate, hlamp]; exact h
  queue h := by rw [hqueue]; exact h
  requests _ _ h := hrequests.trans h

@[simp] theorem Jobs.KeepsLegal.refl (j : Jobs) : j.KeepsLegal b j := .of_eq rfl rfl rfl rfl

theorem Jobs.KeepsLegal.trans {j k l : Jobs} (h : j.KeepsLegal b k) (h' : k.KeepsLegal b l) : j.KeepsLegal b l :=
  ⟨h'.lamp ∘ h.lamp, h'.queue ∘ h.queue, fun hb hlate => h'.requests hb hlate ∘ h.requests hb hlate⟩

theorem Gate.KeepsLegal.of_eq {g h : Gate} (hbuffer : h.buffer = g.buffer) (hmarks : h.marks = g.marks) :
    g.KeepsLegal h :=
  ⟨fun hl => by rw [hbuffer]; exact hl, fun hl => by rw [hmarks]; exact hl⟩

@[simp] theorem Gate.KeepsLegal.refl (g : Gate) : g.KeepsLegal g := .of_eq rfl rfl

theorem Gate.KeepsLegal.trans {g h k : Gate} (hg : g.KeepsLegal h) (hh : h.KeepsLegal k) : g.KeepsLegal k :=
  ⟨hh.buffer ∘ hg.buffer, hh.marks ∘ hg.marks⟩

theorem State.KeepsLegal.refl (s : State) : s.KeepsLegal b s := ⟨id, .refl _, id, .refl _, id, id⟩

/-- After `s` has come `t`: of a block that an operation's frame leaves alone nothing has to be said. -/
theorem State.KeepsLegal.next (h : u.KeepsLegal b s) (line : s.line.Legal → t.line.Legal := by simp)
    (jobs : s.jobs.KeepsLegal b t.jobs := by simp) (mailbox : s.mailbox.Legal → t.mailbox.Legal := by simp)
    (gate : s.gate.KeepsLegal t.gate := by simp)
    (uptime : s.clock.uptime ≤ 4294967295 → t.clock.uptime ≤ 4294967295 := by simp)
    (profile : s.profile.Legal → t.profile.Legal := by simp) : u.KeepsLegal b t :=
  ⟨line ∘ h.line, h.jobs.trans jobs, mailbox ∘ h.mailbox, h.gate.trans gate, uptime ∘ h.uptime, profile ∘ h.profile⟩

/-! ## The Memory Gate (09) -/

@[simp] theorem Gate.issue_keepsLegal (op : Op) (g : Gate) : g.KeepsLegal (g.issue op) := .of_eq rfl rfl

@[simp] theorem Gate.dropScan_keepsLegal (g : Gate) : g.KeepsLegal g.dropScan := .of_eq rfl rfl

@[simp] theorem Gate.dropPrefetch_keepsLegal (g : Gate) : g.KeepsLegal g.dropPrefetch := .of_eq rfl rfl

@[simp] theorem Gate.placeGuards_keepsLegal (gs : List Guard) (g : Gate) : g.KeepsLegal (g.placeGuards gs) :=
  .of_eq rfl rfl

theorem State.issue_keepsLegal (kind : OpKind) (todo : List OpWord) (h : u.KeepsLegal b s) :
    u.KeepsLegal b (s.issue kind todo) :=
  h.next (gate := .of_eq rfl rfl)

theorem State.issueAll_keepsLegal (ops : List (OpKind × List OpWord)) (h : u.KeepsLegal b s) :
    u.KeepsLegal b (s.issueAll ops) := by
  unfold State.issueAll
  induction ops generalizing s with
  | nil => exact h
  | cons op ops ih => exact ih (State.issue_keepsLegal _ _ h)

theorem State.slideLast_keepsLegal (base ahead : Nat) (h : u.KeepsLegal b s) :
    u.KeepsLegal b (s.slideLast base ahead) :=
  h.next (gate := .of_eq rfl rfl)

/-- A write is posted only where the buffer holds fewer than two (R155). -/
theorem State.acceptWrite_keepsLegal (w : HostWrite) (h : u.KeepsLegal b s) :
    u.KeepsLegal b (s.acceptWrite w) := by
  refine h.next (gate := ?_)
  unfold State.acceptWrite
  split
  · exact .of_eq rfl rfl
  · split
    · next hroom =>
      refine ⟨fun _ => ?_, id⟩
      simp only [State.withGate_gate, List.length_append, List.length_singleton]
      omega
    · exact .of_eq rfl rfl

theorem State.acceptWaiting_keepsLegal (h : u.KeepsLegal b s) : u.KeepsLegal b s.acceptWaiting := by
  unfold State.acceptWaiting
  split
  · exact State.acceptWrite_keepsLegal _ (h.next (gate := .of_eq rfl rfl))
  · exact h

theorem State.drain_keepsLegal {w : HostWrite} {rest : List HostWrite} (hbuffer : s.gate.buffer = w :: rest)
    (h : u.KeepsLegal b s) : u.KeepsLegal b (s.drain w rest) := by
  refine State.acceptWaiting_keepsLegal (h.next (gate := ⟨fun hl => ?_, id⟩))
  rw [hbuffer, List.length_cons] at hl
  exact Nat.le_of_succ_le hl

theorem State.controlStep_keepsLegal (h : u.KeepsLegal b s) : u.KeepsLegal b s.controlStep := by
  refine h.next (gate := ?_)
  unfold State.controlStep
  split <;> exact .of_eq rfl rfl

theorem State.popMailbox_keepsLegal (h : u.KeepsLegal b s) : u.KeepsLegal b s.popMailbox :=
  h.next (gate := .of_eq rfl rfl)

theorem State.popLayout_keepsLegal (h : u.KeepsLegal b s) : u.KeepsLegal b s.popLayout :=
  h.next (gate := .of_eq rfl rfl)

/-- A step's end marks words, and clears marks, in a list of the same length. -/
theorem finish_marks_length (old new : State) (h : new.gate.marks.length = 64) :
    (finish old new).gate.marks.length = 64 := by
  rw [finish, State.arbitrate_marks_length]
  unfold State.markChanged
  split
  · simp [State.resortRead_marks, State.statusPage_length, h]
  · rw [State.resortRead_marks, h]

theorem finish_keepsLegal (old : State) (h : u.KeepsLegal b s) : u.KeepsLegal b (finish old s) :=
  h.next (gate := ⟨by simp, finish_marks_length old s⟩)

/-! ## The Mailbox Unit (11) -/

theorem Mailbox.driveAttn_legal (m : Mailbox) : m.driveAttn.Legal := rfl

theorem Mailbox.setSlot_legal (n : Nat) (st : ReturnState) (m : Mailbox) : (m.setSlot n st).Legal :=
  Mailbox.driveAttn_legal _

theorem State.post_keepsLegal (c : Completion) (h : u.KeepsLegal b s) : u.KeepsLegal b (s.post c) :=
  State.issue_keepsLegal _ _ (h.next (mailbox := fun _ => Mailbox.setSlot_legal _ _ _))

theorem State.handOn_keepsLegal (c : Completion) (h : u.KeepsLegal b s) : u.KeepsLegal b (s.handOn c) := by
  unfold State.handOn
  split
  · exact State.post_keepsLegal c h
  · exact h.next (mailbox := id)

theorem State.handOnAll_keepsLegal (cs : List Completion) (h : u.KeepsLegal b s) :
    u.KeepsLegal b (s.handOnAll cs) := by
  unfold State.handOnAll
  induction cs generalizing s with
  | nil => exact h
  | cons c cs ih => exact ih (State.handOn_keepsLegal c h)

theorem State.postBacklog_keepsLegal (cs : List Completion) (h : u.KeepsLegal b s) :
    u.KeepsLegal b (State.postBacklog cs s) := by
  induction cs generalizing s with
  | nil => exact h.next (mailbox := id) (gate := .refl _)
  | cons c cs ih =>
    unfold State.postBacklog
    split
    · exact ih (State.post_keepsLegal c h)
    · exact h.next (mailbox := id)

theorem State.posted_keepsLegal (slot : Option Nat) (quiet : Bool) (h : u.KeepsLegal b s) :
    u.KeepsLegal b (s.posted slot quiet) := by
  unfold State.posted
  split
  · exact h.next (mailbox := fun _ => Mailbox.setSlot_legal _ _ _) (gate := .of_eq rfl rfl)
  · exact h

theorem Mailbox.hostFree_legal (n : Nat) (action : Byte) {m : Mailbox} (h : m.Legal) : (m.hostFree n action).Legal := by
  have freed (slot : Nat) : (if action.toNat = returnFree then m.setSlot slot .free else m).Legal := by
    split
    · exact Mailbox.setSlot_legal _ _ _
    · exact h
  unfold Mailbox.hostFree
  split
  · exact freed n
  · exact freed n
  · exact h

/-- An accepted layout frees every Return slot (R189). -/
theorem Mailbox.takeLayout_legal (n : Nat) (m : Mailbox) : (m.takeLayout n).Legal := by
  simp [Mailbox.Legal, Mailbox.takeLayout]

theorem State.beginTake_keepsLegal (h : u.KeepsLegal b s) : u.KeepsLegal b s.beginTake :=
  State.issue_keepsLegal _ _ (h.next (mailbox := id))

theorem State.entryRead_keepsLegal (e : Nat) (h : u.KeepsLegal b s) : u.KeepsLegal b (s.entryRead e) := by
  unfold State.entryRead
  split
  · exact h
  · exact h.next (mailbox := id) (gate := .of_eq rfl rfl)

theorem State.takeEntry_keepsLegal (e : Nat) (h : u.KeepsLegal b s) : u.KeepsLegal b (s.takeEntry e) :=
  State.entryRead_keepsLegal e (State.controlStep_keepsLegal h)

theorem State.endTake_keepsLegal (h : u.KeepsLegal b s) : u.KeepsLegal b s.endTake := by
  unfold State.endTake
  split
  · exact h
  · exact State.issue_keepsLegal _ _ (h.next (mailbox := id))

theorem State.endTakeAmong_keepsLegal (base ahead : Nat) (h : u.KeepsLegal b s) :
    u.KeepsLegal b (s.endTakeAmong base ahead) :=
  State.slideLast_keepsLegal _ _ (State.endTake_keepsLegal h)

/-! ## The Scan Unit (02) -/

@[simp] theorem Jobs.keepSig_keepsLegal (f : Nat) (sig : Sig) (j : Jobs) : j.KeepsLegal b (j.keepSig f sig) :=
  .of_eq rfl rfl rfl rfl

theorem State.scanStop_keepsLegal (h : u.KeepsLegal b s) : u.KeepsLegal b s.scanStop := by
  unfold State.scanStop
  split
  · exact h.next
  · exact h.next
  · exact h

theorem State.lampOff_keepsLegal (h : u.KeepsLegal b s) : u.KeepsLegal b s.lampOff :=
  (State.scanStop_keepsLegal h).next (jobs := .refl _) (gate := .refl _)

theorem State.endFrame_keepsLegal (h : u.KeepsLegal b s) : u.KeepsLegal b s.endFrame := by
  refine h.next (jobs := ?_)
  simp [State.endFrame]

theorem State.lineComplete_keepsLegal (h : u.KeepsLegal b s) : u.KeepsLegal b s.lineComplete := by
  unfold State.lineComplete
  split
  · exact h
  · dsimp only
    split
    · exact State.endFrame_keepsLegal h.next
    · exact h.next

theorem State.truncateFrame_keepsLegal (h : u.KeepsLegal b s) : u.KeepsLegal b s.truncateFrame := by
  unfold State.truncateFrame
  split
  · split
    · exact State.endFrame_keepsLegal h
    · split
      · exact State.endFrame_keepsLegal h.next
      · exact h.next
  · exact h

theorem State.takeTruncation_keepsLegal (h : u.KeepsLegal b s) : u.KeepsLegal b s.takeTruncation := by
  unfold State.takeTruncation
  split
  · exact State.truncateFrame_keepsLegal h.next
  · exact h

/-! ## The Job Controller (06, 07) -/

/-- A running job's MOUNT lamp is dark. -/
theorem Jobs.LampLegal.dark {j : Jobs} (h : j.LampLegal) (hrun : j.state.running = true) : j.mountLamp = false := by
  unfold Jobs.LampLegal at h
  rw [h]
  cases hs : j.state <;> simp [hs, JobState.running] at hrun ⊢

/-- Between the running states the lamp stays dark. -/
theorem Jobs.KeepsLegal.of_running {j k : Jobs} (hrun : j.state.running = true) (hrun' : k.state.running = true)
    (hlamp : k.mountLamp = j.mountLamp) (hqueue : k.queue = j.queue) (hrequests : k.requestsDue = j.requestsDue) :
    j.KeepsLegal b k where
  lamp h := by
    rw [Jobs.LampLegal, hlamp, h.dark hrun]
    cases hs : k.state <;> simp [hs, JobState.running] at hrun' ⊢
  queue h := by rw [hqueue]; exact h
  requests _ _ h := hrequests.trans h

theorem queueJob_length (j : Job) (q : List Job) : (queueJob j q).length = q.length + 1 := by
  unfold queueJob
  split
  · simp only [List.length_append, List.length_cons, List.length_take, List.length_drop]
    omega
  · simp

theorem State.nextCurrent_keepsLegal (h : u.KeepsLegal b s) : u.KeepsLegal b s.nextCurrent := by
  unfold State.nextCurrent
  split
  · next hqueue =>
    refine h.next (jobs := ⟨fun _ => rfl, fun hl => ?_, fun _ _ => id⟩)
    rw [hqueue, List.length_cons] at hl
    exact Nat.le_of_succ_le hl
  · exact h

theorem State.queueChain_keepsLegal (j : Job) (hroom : s.jobs.queue.length < 16) (h : u.KeepsLegal b s) :
    u.KeepsLegal b (s.queueChain j) := by
  refine State.nextCurrent_keepsLegal (h.next (jobs := ⟨id, fun _ => ?_, fun _ _ => id⟩))
  show (queueJob j s.jobs.queue).length ≤ 16
  rw [queueJob_length]
  exact hroom

theorem State.startAttempt_keepsLegal (n : Nat) (hrun : s.jobs.state.running = true) (h : u.KeepsLegal b s) :
    u.KeepsLegal b (s.startAttempt n) :=
  State.issue_keepsLegal _ _ (h.next (jobs := .of_running hrun rfl rfl rfl rfl))

theorem State.look_keepsLegal (h : u.KeepsLegal b s) : u.KeepsLegal b s.look := by
  unfold State.look
  split
  · next hstart =>
    have hrun : s.jobs.state.running = true := by
      simp only [State.mayStart, Bool.and_eq_true] at hstart
      tauto
    split
    · exact State.startAttempt_keepsLegal _ hrun h
    · exact h
  · exact h

theorem State.retryDue_keepsLegal (h : u.KeepsLegal b s) : u.KeepsLegal b s.retryDue := by
  unfold State.retryDue
  split
  · next hdue => exact h.next (jobs := .of_running (by rw [hdue.1]; rfl) rfl rfl rfl rfl)
  · exact h

theorem State.leaveMountWait_keepsLegal (h : u.KeepsLegal b s) : u.KeepsLegal b s.leaveMountWait := by
  unfold State.leaveMountWait
  split
  · exact State.look_keepsLegal (h.next (jobs := ⟨fun _ => rfl, id, fun _ _ => id⟩))
  · exact h

theorem State.serveBacklog_keepsLegal (h : u.KeepsLegal b s) : u.KeepsLegal b s.serveBacklog := by
  have posted := State.postBacklog_keepsLegal s.mailbox.backlog h
  unfold State.serveBacklog
  dsimp only
  split
  · exact h
  · split
    · exact State.leaveMountWait_keepsLegal posted
    · exact posted

theorem State.spin_keepsLegal (v : Speed) (h : u.KeepsLegal b s) : u.KeepsLegal b (s.spin v) :=
  h.next (jobs := .of_eq rfl rfl rfl rfl)

theorem State.park_keepsLegal (mode : ParkMode) (h : u.KeepsLegal b s) : u.KeepsLegal b (s.park mode) :=
  h.next

/-- The seizure of a CALL closes the relay and lights the lamp (R79). -/
theorem State.call_keepsLegal (info : CallInfo) (h : u.KeepsLegal b s) : u.KeepsLegal b (s.call info) := by
  unfold State.call
  split
  · exact h.next (line := fun _ => ⟨rfl, rfl⟩)
  · exact h

theorem State.noteStart_keepsLegal (n : Nat) (e : DirEntry) (j : Job) (d : Dest) (h : u.KeepsLegal b s) :
    u.KeepsLegal b (s.noteStart n e j d) :=
  h.next (jobs := .of_eq rfl rfl rfl rfl)

theorem State.beginAttempt_keepsLegal (words : List Word) (h : u.KeepsLegal b s) :
    u.KeepsLegal b (s.beginAttempt words) := by
  unfold State.beginAttempt
  split
  · next n j _ _ =>
    split
    · next d _ =>
      have spun := State.spin_keepsLegal j.speed
        (State.noteStart_keepsLegal n (readDirEntry words) j { d with attempts := d.attempts + 1 } h)
      exact State.call_keepsLegal _ spun.next
    · exact h
  · exact h

theorem State.enterFinishing_keepsLegal (h : u.KeepsLegal b s) : u.KeepsLegal b s.enterFinishing := by
  unfold State.enterFinishing
  split
  · exact State.issueAll_keepsLegal _ (h.next (jobs := ⟨fun _ => rfl, id, fun _ _ => id⟩))
  · exact h

theorem State.finalizeJob_keepsLegal (cause : Cause) (h : u.KeepsLegal b s) :
    u.KeepsLegal b (s.finalizeJob cause) :=
  State.enterFinishing_keepsLegal
    ((State.lampOff_keepsLegal h).next (jobs := .of_eq rfl rfl rfl rfl) (gate := .of_eq rfl rfl))

theorem State.endLate_keepsLegal (base : Nat) (cause : Cause) (h : u.KeepsLegal b s) :
    u.KeepsLegal b (s.endLate base cause) := by
  have reached {v : State} (hv : u.KeepsLegal b v) :
      u.KeepsLegal b ((v.mapJobs fun j => { j with requestsDue := none }).finalizeJob cause) :=
    State.finalizeJob_keepsLegal cause (hv.next (jobs := ⟨id, id, fun _ _ _ => rfl⟩))
  have parked : u.KeepsLegal b (if cause = .mediaRemoved then s.park .brake else s) := by
    split
    · exact State.park_keepsLegal _ h
    · exact h
  unfold State.endLate
  dsimp only
  split
  · exact State.endTakeAmong_keepsLegal _ _ (reached parked)
  · exact reached parked

theorem Jobs.decide_keepsLegal (n uptime : Nat) (o : AttemptOutcome) (j : Jobs) :
    j.KeepsLegal b (j.decide n uptime o) := by
  unfold Jobs.decide
  split
  · exact .of_eq rfl rfl rfl rfl
  · exact .of_eq rfl rfl rfl rfl
  · exact .of_eq rfl rfl rfl rfl
  · split
    · split <;> exact .of_eq rfl rfl rfl rfl
    · exact .of_eq rfl rfl rfl rfl

theorem State.issueHistory_keepsLegal (h : u.KeepsLegal b s) : u.KeepsLegal b s.issueHistory :=
  State.issue_keepsLegal _ _ h

theorem State.runState_ne_mountWait (s : State) : (s.runState == .mountWait) = false := by
  unfold State.runState
  split <;> rfl

theorem State.settle_keepsLegal (h : u.KeepsLegal b s) : u.KeepsLegal b s.settle := by
  have set : u.KeepsLegal b (s.mapJobs fun j => { j with state := s.runState, mountLamp := false }) :=
    h.next (jobs := ⟨fun _ => s.runState_ne_mountWait.symm, id, fun _ _ => id⟩)
  unfold State.settle
  dsimp only
  split
  · split
    · exact State.park_keepsLegal _ (State.lampOff_keepsLegal set)
    · exact set
  · split
    · exact State.lampOff_keepsLegal set
    · exact set

theorem State.afterRecord_keepsLegal (base : Nat) (o : AttemptOutcome) (h : u.KeepsLegal b s) :
    u.KeepsLegal b (s.afterRecord base o) := by
  unfold State.afterRecord
  split
  · split
    · exact State.endLate_keepsLegal _ _ h
    · exact h
  · split
    · exact State.finalizeJob_keepsLegal _ (h.next (jobs := .of_eq rfl rfl rfl rfl))
    · split
      · exact State.enterFinishing_keepsLegal h
      · exact State.look_keepsLegal (State.settle_keepsLegal h)

theorem State.takeRecord_keepsLegal (h : u.KeepsLegal b s) : u.KeepsLegal b s.takeRecord := by
  unfold State.takeRecord
  split
  · refine State.afterRecord_keepsLegal _ _ (State.issueHistory_keepsLegal ?_)
    have stopped := State.scanStop_keepsLegal
      (h.next (t := s.mapJobs (·.mapDest s.record.destSlot (Dest.takeFigures s.record)))
        (jobs := .of_eq rfl rfl rfl rfl))
    exact stopped.next (jobs := (Jobs.decide_keepsLegal _ _ _ _).trans (.of_eq rfl rfl rfl rfl))
  · exact h

theorem State.settleDrum_keepsLegal (h : u.KeepsLegal b s) : u.KeepsLegal b s.settleDrum := by
  have stopped : u.KeepsLegal b (s.mapJobs fun j => { j with parkTimer := none }) :=
    h.next (jobs := .of_eq rfl rfl rfl rfl)
  unfold State.settleDrum
  split
  · exact h
  · split
    · exact State.park_keepsLegal _ stopped
    · split
      · exact State.park_keepsLegal _ stopped
      · exact h.next (jobs := .of_eq rfl rfl rfl rfl)

theorem State.finishJob_keepsLegal (h : u.KeepsLegal b s) : u.KeepsLegal b s.finishJob := by
  unfold State.finishJob
  split
  · next j _ =>
    have placed := (State.handOnAll_keepsLegal (j.completions s.jobs.endCause s.jobs.progress) h).next
      (t := (s.handOnAll (j.completions s.jobs.endCause s.jobs.progress)).withGate
        ((s.handOnAll (j.completions s.jobs.endCause s.jobs.progress)).gate.placeGuards []))
    exact State.nextCurrent_keepsLegal
      ((State.settleDrum_keepsLegal (State.lampOff_keepsLegal placed)).next
        (jobs := ⟨fun _ => rfl, id, fun _ _ _ => rfl⟩))
  · exact h

theorem removeJob_length {a : Nat} {q r : List Job} {j : Job} (h : removeJob a q = some (j, r)) :
    r.length ≤ q.length := by
  induction q generalizing j r with
  | nil => simp [removeJob] at h
  | cons k q ih =>
    unfold removeJob at h
    split at h
    · cases h
      exact Nat.le_succ _
    · obtain ⟨⟨i, p⟩, hp, heq⟩ := Option.map_eq_some_iff.mp h
      cases heq
      exact Nat.succ_le_succ (ih hp)

end Sys2Proof.Machine
end

section
/-! PROOFS. What the Line Unit, the ends of attempts and of jobs, and the chains make of the invariants of O58. The
relay is kept because STOP_TONE, PICTURE and the states between are entered only off the hook (R94, R96). -/

-- The proofs of this part are elaborated one after another: at once, their threads take too much memory.
set_option Elab.async false

namespace Sys2Proof.Machine

variable {b : Bool} {u s t : State}

/-! ## The Line Unit (05) -/

/-- A change of state outside ON_HOOK and RELEASE_GUARD leaves the relay and the lamp as they are. -/
theorem Line.Legal.of_closed {l m : Line} (h : l.Legal) (hl : l.state.atRest = false) (hm : m.state.atRest = false)
    (hrelay : m.relay = l.relay) (hlamp : m.sendLamp = l.sendLamp) : m.Legal := by
  obtain ⟨hclosed, hlit⟩ := h
  exact ⟨by rw [hrelay, hclosed, hl, hm], by rw [hlamp, hlit, hrelay]⟩

theorem LineState.atRest_of_sending {st : LineState} (h : st.sending = true) : st.atRest = false := by
  cases st <;> simp [LineState.sending, LineState.atRest] at h ⊢

theorem LineState.atRest_of_answered {st : LineState} (h : st.answered = true) : st.atRest = false := by
  cases st <;> simp [LineState.answered, LineState.sending, LineState.atRest] at h ⊢

theorem Line.openRelay_legal (t : Nat) (l : Line) : (l.openRelay t).Legal := ⟨rfl, rfl⟩

theorem Line.endCall_legal (c t : Nat) (o : AttemptOutcome) (d : Detail) (tone : Bool) {l : Line}
    (hclosed : tone = true → l.state.atRest = false) (h : l.Legal) : (l.endCall c t o d tone).Legal := by
  cases tone with
  | false => exact Line.openRelay_legal t l
  | true => exact h.of_closed (hclosed rfl) rfl rfl rfl

theorem State.tone_keepsLegal (n : Nat) (h : u.KeepsLegal b s) : u.KeepsLegal b (s.tone n) :=
  h.next (line := id)

theorem State.closeTurn_keepsLegal (h : u.KeepsLegal b s) : u.KeepsLegal b s.closeTurn :=
  h.next (line := id) (gate := .of_eq rfl rfl)

theorem State.sendSlot_keepsLegal (n : Nat) (first : Bool) (h : u.KeepsLegal b s) :
    u.KeepsLegal b (s.sendSlot n first) :=
  State.tone_keepsLegal _ h.next

theorem State.gapTurn_keepsLegal (h : u.KeepsLegal b s) : u.KeepsLegal b s.gapTurn :=
  State.tone_keepsLegal _ h.next

theorem State.endSending_keepsLegal (d : FrameDone) (h : u.KeepsLegal b s) :
    u.KeepsLegal b (s.endSending d) :=
  h.next

theorem State.scanStart_keepsLegal (h : u.KeepsLegal b s) : u.KeepsLegal b s.scanStart := h.next

theorem State.scanIndex_keepsLegal (h : u.KeepsLegal b s) : u.KeepsLegal b s.scanIndex := h.next

theorem State.phasingTurn_keepsLegal (h : u.KeepsLegal b s) : u.KeepsLegal b s.phasingTurn := by
  unfold State.phasingTurn
  dsimp only
  split
  · split
    · exact State.scanStart_keepsLegal (State.tone_keepsLegal _ h)
    · exact State.tone_keepsLegal _ h
  · exact State.tone_keepsLegal _ h

theorem State.enterPhasing_keepsLegal (hclosed : s.line.state.atRest = false) (h : u.KeepsLegal b s) :
    u.KeepsLegal b s.enterPhasing :=
  State.phasingTurn_keepsLegal (h.next (line := fun hl => hl.of_closed hclosed rfl rfl rfl))

theorem State.fallSlot_keepsLegal (n k i : Nat) (cell : Sample) (h : u.KeepsLegal b s) :
    u.KeepsLegal b (s.fallSlot n k i cell) := by
  have scanned : u.KeepsLegal b (s.scanSlot ((n - 16) * k + i) cell) := h.next
  have sent : u.KeepsLegal b ((s.scanSlot ((n - 16) * k + i) cell).sendSlotEvent ((n - 16) * k + i)) := by
    unfold State.sendSlotEvent
    split
    · dsimp only
      split
      · exact scanned.next (line := id)
      · exact scanned.next (line := id)
    · exact scanned
  exact sent.next (line := id)

theorem State.lateSlots_keepsLegal (n k : Nat) (cells : Cells) (is : List Nat) (h : u.KeepsLegal b s) :
    u.KeepsLegal b (State.lateSlots n k cells is s) := by
  induction is generalizing s with
  | nil => exact h
  | cons i is ih => exact ih (State.fallSlot_keepsLegal _ _ _ _ h)

theorem State.closeInterval_keepsLegal (cells : Cells) (h : u.KeepsLegal b s) :
    u.KeepsLegal b (s.closeInterval cells) := by
  unfold State.closeInterval
  split
  · next n _ =>
    have sampled : u.KeepsLegal b (s.withScan (s.scan.takeRef n (cells.toList.getD 0 0))) := h.next
    dsimp only
    split
    · exact State.lateSlots_keepsLegal _ _ _ _ sampled
    · exact sampled
  · exact h

/-! ## The end of an attempt and of a job (R94, R114) -/

theorem State.composeSlip_keepsLegal (h : u.KeepsLegal b s) : u.KeepsLegal b s.composeSlip := h.next

/-- STOP_TONE is entered only by a line that is off the hook. -/
theorem State.endAttempt_keepsLegal (o : AttemptOutcome) (d : Detail) {tone : Bool}
    (hclosed : tone = true → s.line.state.atRest = false) (h : u.KeepsLegal b s) :
    u.KeepsLegal b (s.endAttempt o d tone) := by
  have ended : u.KeepsLegal b
      { s with
        record := s.closedRecord o d, line := s.line.endCall s.crystal s.now o d tone
        ring := s.ring.release, gate := s.gate.dropPrefetch } :=
    h.next (line := Line.endCall_legal _ _ _ _ _ hclosed)
  exact State.composeSlip_keepsLegal (State.takeRecord_keepsLegal ended)

theorem State.cut_keepsLegal (cause : Cause) (h : u.KeepsLegal b s) : u.KeepsLegal b (s.cut cause) := by
  unfold State.cut
  split
  · exact State.endAttempt_keepsLegal _ _ (by simp) h
  · split
    · next hanswered => exact State.endAttempt_keepsLegal _ _ (fun _ => LineState.atRest_of_answered hanswered) h
    · exact h

theorem State.takeBandLost_keepsLegal (h : u.KeepsLegal b s) : u.KeepsLegal b s.takeBandLost := by
  have finished : u.KeepsLegal b
      (if s.line.state.sending then s.lossTaken.endAttempt .drumFault .bandLost true else s) := by
    split
    · next hsending =>
      exact State.endAttempt_keepsLegal _ _ (fun _ => LineState.atRest_of_sending hsending) h.next
    · exact h
  unfold State.takeBandLost
  split
  · exact finished.next
  · exact h

theorem State.endJob_keepsLegal (cause : Cause) (first : Bool) (h : u.KeepsLegal b s) :
    u.KeepsLegal b (s.endJob cause first) := by
  have taken : u.KeepsLegal b (State.endedFirst cause first s) := by
    have noted : u.KeepsLegal b (s.mapJobs fun j => { j with endCause := some cause }) :=
      h.next (jobs := .of_eq rfl rfl rfl rfl)
    unfold State.endedFirst
    split
    · exact State.takeBandLost_keepsLegal noted
    · exact noted
  have cut : u.KeepsLegal b (if (State.endedFirst cause first s).jobs.attemptInProgress then
      (State.endedFirst cause first s).cut cause else State.endedFirst cause first s) := by
    split
    · exact State.cut_keepsLegal cause taken
    · exact taken
  exact State.finalizeJob_keepsLegal cause cut

/-- A cause whose requests go on their way is not one of a command that settles. -/
theorem State.causeLate_keepsLegal (cause : Cause) (freeAhead : Option Nat)
    (hlate : b = true → ¬ ∀ n, Config.faultRequestsLate n = false) (h : u.KeepsLegal b s) :
    u.KeepsLegal b (s.causeLate cause freeAhead) :=
  h.next (jobs := ⟨id, id, fun hb hfree => absurd hfree (hlate hb)⟩)

theorem State.endJobAs_keepsLegal {late : Bool} (cause : Cause)
    (hlate : late = true → b = true → ¬ ∀ n, Config.faultRequestsLate n = false) (h : u.KeepsLegal b s) :
    u.KeepsLegal b (s.endJobAs late cause) := by
  unfold State.endJobAs
  split
  · next hboth => exact State.causeLate_keepsLegal _ _ (hlate (Bool.and_eq_true _ _ ▸ hboth).2) h
  · exact State.endJob_keepsLegal _ _ h

theorem State.completeEnd_keepsLegal (h : u.KeepsLegal b s) : u.KeepsLegal b s.completeEnd := by
  have reached (cause : Cause) {v : State} (hv : u.KeepsLegal b v) :
      u.KeepsLegal b (if v.jobs.requestsDue.isSome then v.endLate s.gate.ops.length cause else v) := by
    split
    · exact State.endLate_keepsLegal _ _ hv
    · exact hv
  unfold State.completeEnd
  split
  · next cause _ _ =>
    dsimp only
    refine reached cause ?_
    split
    · exact State.cut_keepsLegal cause h
    · exact h
  · exact h

theorem State.takeCarriageFault_keepsLegal (h : u.KeepsLegal b s) : u.KeepsLegal b s.takeCarriageFault := by
  have taken : u.KeepsLegal b (s.withCarriage { s.carriage with faultEvent := false }) := h.next
  unfold State.takeCarriageFault
  split
  · dsimp only
    split
    · exact State.endJobAs_keepsLegal _ (fun hlate _ hfree => absurd (hlate.symm.trans (hfree _)) (by decide)) taken
    · exact taken
  · exact h

theorem State.deliver_keepsLegal (h : u.KeepsLegal b s) : u.KeepsLegal b s.deliver := by
  have arrived : u.KeepsLegal b s.takeTruncation.takeArrival := (State.takeTruncation_keepsLegal h).next
  exact State.takeCarriageFault_keepsLegal (State.takeBandLost_keepsLegal arrived)

theorem State.drumFault_keepsLegal (kind : DrumFault) (h : u.KeepsLegal b s) :
    u.KeepsLegal b (s.drumFault kind) := by
  have policy : u.KeepsLegal b (s.mapDrum (·.faultEvent s.profile.drum s.now kind)) := h.next
  unfold State.drumFault
  dsimp only
  split
  · next hends => exact State.endAttempt_keepsLegal _ _ (fun _ => LineState.atRest_of_sending hends.2) policy
  · exact policy

/-! ## The line at an INDEX (R87 to R92) -/

theorem State.drumNotReady_keepsLegal (hclosed : s.line.state.atRest = false) (h : u.KeepsLegal b s) :
    u.KeepsLegal b s.drumNotReady :=
  State.endAttempt_keepsLegal _ _ (fun _ => hclosed) h

theorem State.sendTurn_keepsLegal (hclosed : s.line.state.atRest = false) (h : u.KeepsLegal b s) :
    u.KeepsLegal b s.sendTurn := by
  unfold State.sendTurn
  split
  · split
    · exact State.sendSlot_keepsLegal _ _ h
    · exact State.sendSlot_keepsLegal _ _ h
    · exact State.gapTurn_keepsLegal h
  · exact State.drumNotReady_keepsLegal hclosed h

theorem State.whiteTurn_keepsLegal (begins : Bool) (hclosed : s.line.state.atRest = false) (h : u.KeepsLegal b s) :
    u.KeepsLegal b (s.whiteTurn begins) := by
  unfold State.whiteTurn
  split
  · exact h.next (line := id)
  · exact State.drumNotReady_keepsLegal hclosed h

theorem State.enterPicture_keepsLegal (hclosed : s.line.state.atRest = false) (h : u.KeepsLegal b s) :
    u.KeepsLegal b (s.mapLine Line.enterPicture) :=
  h.next (line := fun hl => hl.of_closed hclosed rfl rfl rfl)

theorem State.askFrames_keepsLegal (begins : Bool) (fuel : Nat) (hclosed : s.line.state.atRest = false)
    (h : u.KeepsLegal b s) : u.KeepsLegal b (State.askFrames begins fuel s) := by
  induction fuel generalizing s with
  | zero => exact h
  | succ fuel ih =>
    unfold State.askFrames
    split
    · next d _ =>
      have finished : u.KeepsLegal b ((s.mapLine fun l => { l with sendSig := 1 }).endSending d) := h.next (line := id)
      dsimp only
      split
      · exact State.endAttempt_keepsLegal _ _ (fun _ => hclosed) finished
      · exact ih hclosed finished.next
    · split
      · split
        · exact State.sendTurn_keepsLegal rfl (State.enterPicture_keepsLegal hclosed h)
        · exact State.drumNotReady_keepsLegal hclosed h
      · exact State.whiteTurn_keepsLegal _ hclosed h
    · exact State.whiteTurn_keepsLegal _ hclosed h

theorem State.enterSeparator_keepsLegal (hclosed : s.line.state.atRest = false) (h : u.KeepsLegal b s) :
    u.KeepsLegal b s.enterSeparator := by
  refine State.askFrames_keepsLegal _ _ rfl ?_
  exact h.next (line := fun hl => hl.of_closed hclosed rfl rfl rfl)

theorem State.pictureTurn_keepsLegal (hclosed : s.line.state.atRest = false) (h : u.KeepsLegal b s) :
    u.KeepsLegal b s.pictureTurn := by
  unfold State.pictureTurn
  split
  · next d _ =>
    have finished := State.endSending_keepsLegal d h
    dsimp only
    split
    · exact State.endAttempt_keepsLegal _ _ (fun _ => hclosed) finished
    · exact State.enterSeparator_keepsLegal hclosed finished
  · exact State.sendTurn_keepsLegal hclosed h

theorem State.nextPhasingTurn_keepsLegal (hclosed : s.line.state.atRest = false) (h : u.KeepsLegal b s) :
    u.KeepsLegal b s.nextPhasingTurn := by
  have counted : u.KeepsLegal b (s.mapLine fun l => { l with turnCount := l.turnCount + 1 }) := h.next (line := id)
  unfold State.nextPhasingTurn
  dsimp only
  split
  · exact counted
  · split
    · exact State.phasingTurn_keepsLegal counted
    · exact State.drumNotReady_keepsLegal hclosed counted

theorem State.lineIndex_keepsLegal (h : u.KeepsLegal b s) : u.KeepsLegal b s.lineIndex := by
  have closed := State.closeTurn_keepsLegal h
  have off {st : LineState} (hst : s.closeTurn.line.state = st) (hrest : st.atRest = false) :
      s.closeTurn.line.state.atRest = false := hst ▸ hrest
  unfold State.lineIndex
  dsimp only
  split
  · next hst =>
    split
    · exact State.enterPhasing_keepsLegal (off hst rfl) closed
    · exact closed
  · next hst => exact State.nextPhasingTurn_keepsLegal (off hst rfl) closed
  · next hst => exact State.pictureTurn_keepsLegal (off hst rfl) closed
  · next hst => exact State.askFrames_keepsLegal _ _ (off hst rfl) closed
  · exact closed

theorem State.endPhasing_keepsLegal (hdue : s.line.phasingOver = true) (h : u.KeepsLegal b s) :
    u.KeepsLegal b s.endPhasing := by
  have hclosed : s.line.state.atRest = false := by
    simp only [Line.phasingOver, Bool.and_eq_true, beq_iff_eq] at hdue
    rw [hdue.1]
    rfl
  unfold State.endPhasing
  split
  · exact State.pictureTurn_keepsLegal rfl (State.enterPicture_keepsLegal hclosed h)
  · exact State.drumNotReady_keepsLegal hclosed h

theorem State.index_keepsLegal (scanFirst : Bool) (h : u.KeepsLegal b s) :
    u.KeepsLegal b (s.index scanFirst) := by
  unfold State.index
  split
  · exact State.lineIndex_keepsLegal (State.scanIndex_keepsLegal h)
  · split
    · exact State.scanIndex_keepsLegal (State.lineIndex_keepsLegal h)
    · exact State.lineIndex_keepsLegal h

theorem State.tachEvent_keepsLegal (cells : Cells) (scanFirst : Bool) (h : u.KeepsLegal b s) :
    u.KeepsLegal b (s.tachEvent cells scanFirst) := by
  have white {v : State} (hv : u.KeepsLegal b v) : u.KeepsLegal b v.phasingWhite := by
    unfold State.phasingWhite
    split
    · exact State.tone_keepsLegal _ hv
    · exact hv
  have closed := State.closeInterval_keepsLegal cells h
  unfold State.tachEvent
  dsimp only
  split
  · split
    · exact State.index_keepsLegal _ (closed.next (line := id))
    · exact State.index_keepsLegal _ (closed.next (line := id))
  · split
    · exact white (closed.next (line := id))
    · exact white (closed.next (line := id))

/-! ## Recognised tones and the other commands of the line -/

theorem State.repeatAsked_keepsLegal (h : u.KeepsLegal b s) : u.KeepsLegal b s.repeatAsked := by
  unfold State.repeatAsked
  dsimp only
  split
  · exact h.next
  · exact h.next (line := id)

theorem State.actOnTone_keepsLegal (tone : Tone) (h : u.KeepsLegal b s) :
    u.KeepsLegal b (s.actOnTone tone) := by
  unfold State.actOnTone
  split
  · next hst =>
    exact h.next (line := fun hl => hl.of_closed (by rw [hst]; rfl) rfl rfl rfl)
  · exact State.endAttempt_keepsLegal _ _ (by simp) h
  · exact State.repeatAsked_keepsLegal h
  · exact State.endAttempt_keepsLegal _ _ (by simp) h
  · exact State.endAttempt_keepsLegal _ _ (by simp) h
  · exact State.endAttempt_keepsLegal _ _ (by simp) h
  · exact h

theorem State.loseLine_keepsLegal (h : u.KeepsLegal b s) : u.KeepsLegal b s.loseLine := by
  unfold State.loseLine
  split
  · exact h.next (line := fun _ => Line.openRelay_legal _ _)
  · split
    · exact State.endAttempt_keepsLegal _ _ (by simp) h
    · exact h

/-- Each symbol of the dial string leaves the relay and the lamp alone, in DIALING or at ANSWER_WAIT. -/
theorem Line.beginSymbol_legal (t : Nat) {l : Line} (hst : l.state = .dialing) (h : l.Legal) :
    (l.beginSymbol t).Legal := by
  have hclosed : l.state.atRest = false := by rw [hst]; rfl
  unfold Line.beginSymbol
  split
  · exact h
  · exact h
  · exact h.of_closed hclosed rfl rfl rfl

theorem Line.enterDialing_legal (t : Nat) {l : Line} (hst : l.state = .seizeWait) (h : l.Legal) :
    (l.enterDialing t).Legal :=
  Line.beginSymbol_legal t rfl (h.of_closed (by rw [hst]; rfl) rfl rfl rfl)

theorem Line.endMake_legal (t : Nat) {l : Line} (hst : l.state = .dialing) (h : l.Legal) : (l.endMake t).Legal := by
  unfold Line.endMake
  split
  · exact h
  · exact Line.beginSymbol_legal t hst h

theorem Line.windowDone_legal (n : Nat) {l : Line} (h : l.Legal) : (l.windowDone n).Legal := by
  unfold Line.windowDone
  dsimp only
  split <;> exact h

theorem Line.hangUp_legal {l : Line} (hst : l.state = .releaseGuard) (h : l.Legal) : l.hangUp.Legal := by
  obtain ⟨hrelay, hlamp⟩ := h
  rw [hst] at hrelay
  exact ⟨hrelay, hlamp⟩

theorem State.lineRests_keepsLegal (hst : s.line.state = .releaseGuard) (h : u.KeepsLegal b s) :
    u.KeepsLegal b s.lineRests :=
  State.look_keepsLegal (h.next (line := Line.hangUp_legal hst) (jobs := .of_eq rfl rfl rfl rfl))

/-! ## Chains and aborts (06, 11) -/

theorem State.refuseChain_keepsLegal (head : Nat) (reason : RefusalReason) (h : u.KeepsLegal b s) :
    u.KeepsLegal b (s.refuseChain head reason) :=
  State.endTake_keepsLegal (State.handOn_keepsLegal _ (h.next (jobs := .of_eq rfl rfl rfl rfl)))

theorem State.fetchMember_keepsLegal (head : Option ChainHead) (members : List Member) (a : Nat)
    (h : u.KeepsLegal b s) : u.KeepsLegal b (s.fetchMember head members a) := by
  unfold State.fetchMember
  split
  · exact State.issue_keepsLegal _ _ (h.next (mailbox := id))
  · exact State.refuseChain_keepsLegal _ _ h

/-- A checked chain finds fewer than sixteen jobs queued (R104, R106). -/
theorem State.chainCheck_room {head : ChainHead} {members : List Member} (h : s.chainCheck head members = none) :
    s.jobs.queue.length < 16 := by
  unfold State.chainCheck at h
  split_ifs at h with _ _ hfull
  exact Nat.lt_of_not_le hfull

theorem State.endChain_keepsLegal (head : ChainHead) (members : List Member) (h : u.KeepsLegal b s) :
    u.KeepsLegal b (s.endChain head members) := by
  unfold State.endChain
  split
  · exact State.refuseChain_keepsLegal _ _ h
  · next hcheck => exact State.endTake_keepsLegal (State.queueChain_keepsLegal _ (State.chainCheck_room hcheck) h)

theorem State.memberArrived_keepsLegal (words : List Word) (h : u.KeepsLegal b s) :
    u.KeepsLegal b (s.memberArrived words) := by
  unfold State.memberArrived
  split
  · dsimp only
    split
    · exact State.refuseChain_keepsLegal _ _ h
    · split
      · exact State.endChain_keepsLegal _ _ h
      · split
        · exact State.refuseChain_keepsLegal _ _ h
        · exact State.fetchMember_keepsLegal _ _ _ h
  · exact h

theorem State.abortNotFound_keepsLegal (a : Nat) (h : u.KeepsLegal b s) :
    u.KeepsLegal b (s.abortNotFound a) :=
  State.endTake_keepsLegal (State.handOn_keepsLegal _ h)

theorem State.abort_keepsLegal {late : Bool} (ahead a : Nat) (hlate : late = true → b = false)
    (h : u.KeepsLegal b s) : u.KeepsLegal b (s.abort late ahead a) := by
  unfold State.abort
  split
  · next j q hremoved =>
    exact State.issueAll_keepsLegal _
      (h.next (jobs := ⟨id, (removeJob_length hremoved).trans, fun _ _ => id⟩) (mailbox := id))
  · split
    · split
      · exact State.abortNotFound_keepsLegal _ h
      · split
        · next hboth =>
          refine State.causeLate_keepsLegal _ _ (fun hb => ?_) h
          exact absurd (hb.symm.trans (hlate (Bool.and_eq_true _ _ ▸ hboth).1)) (by decide)
        · exact State.endTakeAmong_keepsLegal _ _ (State.endJob_keepsLegal _ _ h)
    · exact State.abortNotFound_keepsLegal _ h

theorem State.abortedWritten_keepsLegal (j : Job) (h : u.KeepsLegal b s) :
    u.KeepsLegal b (s.abortedWritten j) :=
  State.endTake_keepsLegal (State.handOnAll_keepsLegal _ h)

theorem State.clampOpen_keepsLegal (first : Bool) {late : Bool} (hlate : late = true → b = false)
    (h : u.KeepsLegal b s) : u.KeepsLegal b (s.clampOpen first late) := by
  have opened : u.KeepsLegal b (s.mapJobs Jobs.clampOpened) := h.next (jobs := .of_eq rfl rfl rfl rfl)
  unfold State.clampOpen
  dsimp only
  split
  · split
    · next hboth =>
      refine State.causeLate_keepsLegal _ _ (fun hb => ?_) opened
      exact absurd (hb.symm.trans (hlate (Bool.and_eq_true _ _ ▸ hboth).1)) (by decide)
    · exact State.endJob_keepsLegal _ _ (State.park_keepsLegal _ opened)
  · exact opened

/-! ## The clock, layouts and captures (08, 10) -/

theorem nextUptime_le (n : Nat) : nextUptime n ≤ 4294967295 := Nat.min_le_right _ _

theorem State.tick_keepsLegal (h : u.KeepsLegal b s) : u.KeepsLegal b s.tick :=
  State.look_keepsLegal (State.retryDue_keepsLegal (h.next (uptime := fun _ => nextUptime_le _)))

end Sys2Proof.Machine
end

section
/-! PROOFS. Captures and loads keep the invariants of O58: a capture puts only values of their ranges into the shadow
(R176, R177), and an accepted layout frees every Return slot and marks every word of the page (R166, R189). -/

-- The proofs of this part are elaborated one after another: at once, their threads take too much memory.
set_option Elab.async false

namespace Sys2Proof.Machine

variable {b : Bool} {u s t : State}

/-! ## The Profile Shadow (R177) -/

theorem Policy.place_le (x : Policy) : Profile.values.policies.idxOf x ≤ 4 := by cases x <;> decide

theorem RampMode.place_le (x : RampMode) : [RampMode.linear, .staircase].idxOf x ≤ 1 := by cases x <;> decide

theorem ParkMode.place_le (x : ParkMode) : [ParkMode.coast, .brake].idxOf x ≤ 1 := by cases x <;> decide

/-- The shadow holds only values of their ranges. -/
def Profile.ValuesAllowed (p : Profile) : Prop := ∀ w v, holdsValue w → p.values[w]? = some v → valueAllowed w v

theorem Profile.Legal.valuesAllowed {p : Profile} (h : p.Legal) : p.ValuesAllowed := by
  intro w v hw hv
  have hmodes := And.intro p.drum.rampMode.place_le p.drum.parkMode.place_le
  have hpolicies := And.intro p.drum.stallPolicy.place_le
    (And.intro p.drum.slipPolicy.place_le p.drum.overcurrentPolicy.place_le)
  obtain ⟨hduties, hband, hramp, hstair, htimes, hcounts, hdial, htones, hrelease, hfreqs, hlamp, -, -⟩ := h
  simp only [List.mem_cons, List.not_mem_nil, or_false, forall_eq_or_imp, forall_eq] at hramp hstair hcounts hfreqs
  have hlt : w < 48 := (List.getElem?_eq_some_iff.mp hv).1
  interval_cases w <;> simp [holdsValue] at hw <;> cases hv <;> simp only [valueAllowed] <;> omega

/-- The ranges of the value words, of two tone banks and of the slip header make the shadow legal. -/
theorem Profile.ValuesAllowed.legal {p : Profile} (h : p.ValuesAllowed)
    (hbanks : p.bank0.length = 64 ∧ p.bank1.length = 64 ∧ ∀ v ∈ p.bank0 ++ p.bank1, v ≤ 255)
    (hheader : p.header.length = 24 ∧ ∀ c ∈ p.header, 32 ≤ c ∧ c ≤ 126) : p.Legal := by
  have drum (w : Nat) {v : Nat} (hv : p.values[w]? = some v) (hw : w ≤ 25 := by decide) : valueAllowed w v :=
    h w v (.inl hw) hv
  have line (w : Nat) {v : Nat} (hv : p.values[w]? = some v) (hw : 32 ≤ w ∧ w ≤ 47 := by decide) :
      valueAllowed w v := h w v (.inr (.inl hw)) hv
  refine
    { duties := ⟨drum 0 rfl, drum 1 rfl, drum 2 rfl, drum 3 rfl, drum 4 rfl, drum 5 rfl⟩
      band := ⟨(drum 6 rfl).1, (drum 6 rfl).2, drum 7 rfl⟩
      ramp := ⟨(drum 9 rfl).1, (drum 9 rfl).2, ?hold⟩
      stair := ?stair
      times := ⟨drum 15 rfl, (drum 16 rfl).1, (drum 16 rfl).2, (drum 20 rfl).1, (drum 20 rfl).2, drum 22 rfl⟩
      counts := ⟨(drum 21 rfl).1, (drum 21 rfl).2, ?ratio, (drum 24 rfl).1, (drum 24 rfl).2, drum 25 rfl⟩
      dial := ⟨(line 32 rfl).1, (line 32 rfl).2, (line 33 rfl).1, (line 33 rfl).2, (line 34 rfl).1, (line 34 rfl).2,
        line 35 rfl⟩
      tones := ⟨(line 36 rfl).1, (line 36 rfl).2, (line 37 rfl).1, (line 37 rfl).2, (line 38 rfl).1, (line 38 rfl).2,
        line 39 rfl⟩
      release := ⟨(line 40 rfl).1, (line 40 rfl).2, (line 41 rfl).1, (line 41 rfl).2, line 42 rfl⟩
      freqs := ?freqs
      lamp := line 47 rfl
      banks := hbanks
      header := hheader }
  case hold => simpa [valueAllowed] using drum 13 rfl
  case ratio => simpa [valueAllowed] using drum 23 rfl
  case stair =>
    simp only [List.mem_cons, List.not_mem_nil, or_false, forall_eq_or_imp, forall_eq]
    exact ⟨drum 10 rfl, drum 11 rfl, drum 12 rfl⟩
  case freqs =>
    simp only [List.mem_cons, List.not_mem_nil, or_false, forall_eq_or_imp, forall_eq]
    exact ⟨line 43 rfl, line 44 rfl, line 45 rfl, line 46 rfl⟩

theorem Profile.ValuesAllowed.set {p q : Profile} {w v : Nat} (h : p.ValuesAllowed) (hv : valueAllowed w v)
    (hq : q.values = p.values.set w v) : q.ValuesAllowed := by
  intro w' v' hw' hv'
  rw [hq, List.getElem?_set] at hv'
  split at hv'
  · next hsame =>
    subst hsame
    split at hv'
    · cases hv'
      exact hv
    · cases hv'
  · exact h w' v' hw' hv'

theorem mem_set_set {α : Type} {l : List α} {i j : Nat} {x y z : α} (h : z ∈ (l.set i x).set j y) :
    z ∈ l ∨ z = x ∨ z = y := by
  rcases List.mem_or_eq_of_mem_set h with h | h
  · rcases List.mem_or_eq_of_mem_set h with h | h
    · exact .inl h
    · exact .inr (.inl h)
  · exact .inr (.inr h)

/-- A tone bank keeps its 64 entries, each a byte. -/
theorem bankCapture_legal {bank c : List Nat} {i : Nat} {data : Word} (h : bankCapture bank i data = some c) :
    c.length = bank.length ∧ ∀ v ∈ c, v ∈ bank ∨ v ≤ 255 := by
  unfold bankCapture at h
  obtain ⟨hbytes, hc⟩ := Option.ite_none_right_eq_some.mp h
  cases hc
  refine ⟨by simp, fun v hv => ?_⟩
  rcases mem_set_set hv with hv | rfl | rfl
  · exact .inl hv
  · exact .inr hbytes.1
  · exact .inr hbytes.2

/-- A slip header keeps its 24 characters, each printable. -/
theorem headerCapture_legal {header c : List Nat} {i : Nat} {data : Word} (h : headerCapture header i data = some c) :
    c.length = header.length ∧ ∀ v ∈ c, v ∈ header ∨ (32 ≤ v ∧ v ≤ 126) := by
  unfold headerCapture at h
  obtain ⟨hchars, hc⟩ := Option.ite_none_right_eq_some.mp h
  cases hc
  simp only [List.all_cons, List.all_nil, Bool.and_true, Bool.and_eq_true, decide_eq_true_eq] at hchars
  obtain ⟨h0, h1, h2, h3⟩ := hchars
  refine ⟨by simp, fun v hv => ?_⟩
  rcases mem_set_set hv with hv | rfl | rfl
  · rcases mem_set_set hv with hv | rfl | rfl
    · exact .inl hv
    · exact .inr h0
    · exact .inr h1
  · exact .inr h2
  · exact .inr h3

/-- A capture puts only allowed values into the shadow (R176, R177). -/
theorem Profile.capture_legal {p q : Profile} {w : Nat} {data : Word} (hq : p.capture w data = some q)
    (h : p.Legal) : q.Legal := by
  obtain ⟨-, -, hbytes⟩ := h.banks
  rcases Nat.lt_or_ge w 64 with hw | hw
  · have captured := Profile.capture_captured p w data
    by_cases hv : valueAllowed w (data.toNat % 2147483648)
    · obtain ⟨r, hr, hvalues, hbank0, hbank1, hheader⟩ := captured.value _ hw rfl hv
      obtain rfl : r = q := Option.some.inj (hr.symm.trans hq)
      exact (h.valuesAllowed.set hv hvalues).legal (by rw [hbank0, hbank1]; exact h.banks)
        (by rw [hheader]; exact h.header)
    · exact absurd (hq.symm.trans (captured.outside _ hw rfl hv)) (by simp)
  · unfold Profile.capture at hq
    dsimp only at hq
    rw [if_neg (by omega), if_neg (by omega), if_neg (by omega), if_neg (by omega), if_neg (by omega)] at hq
    split_ifs at hq
    · obtain ⟨c, hc, rfl⟩ := Option.map_eq_some_iff.mp hq
      obtain ⟨hlength, hmem⟩ := bankCapture_legal hc
      refine { h with banks := ⟨hlength.trans h.banks.1, h.banks.2.1, fun v hv => ?_⟩ }
      rcases List.mem_append.mp hv with hv | hv
      · exact (hmem v hv).elim (fun hv => hbytes v (List.mem_append_left _ hv)) id
      · exact hbytes v (List.mem_append_right _ hv)
    · obtain ⟨c, hc, rfl⟩ := Option.map_eq_some_iff.mp hq
      obtain ⟨hlength, hmem⟩ := bankCapture_legal hc
      refine { h with banks := ⟨h.banks.1, hlength.trans h.banks.2.1, fun v hv => ?_⟩ }
      rcases List.mem_append.mp hv with hv | hv
      · exact hbytes v (List.mem_append_left _ hv)
      · exact (hmem v hv).elim (fun hv => hbytes v (List.mem_append_right _ hv)) id
    · obtain ⟨c, hc, rfl⟩ := Option.map_eq_some_iff.mp hq
      obtain ⟨hlength, hmem⟩ := headerCapture_legal hc
      exact { h with header := ⟨hlength.trans h.header.1, fun v hv => (hmem v hv).elim (h.header.2 v) id⟩ }

/-! ## Captures and loads (10) -/

theorem State.tryCapture_keepsLegal (w : Nat) (data : Word) (be : ByteEnables) (h : u.KeepsLegal b s) :
    u.KeepsLegal b (s.tryCapture w data be) := by
  unfold State.tryCapture
  split
  · exact h.next
  · split
    · next p hp => exact h.next (profile := Profile.capture_legal hp)
    · exact h.next

theorem State.beginLoad_keepsLegal (h : u.KeepsLegal b s) : u.KeepsLegal b s.beginLoad :=
  State.issue_keepsLegal _ _ h.next

theorem State.endLoad_keepsLegal (result : LoadResult) (reason : Option LoadReason) (h : u.KeepsLegal b s) :
    u.KeepsLegal b (s.endLoad result reason) := by
  unfold State.endLoad
  extract_lets _ ended
  have done : u.KeepsLegal b ended := ⟨h.line, h.jobs, h.mailbox, h.gate, h.uptime, h.profile⟩
  split
  · exact State.beginLoad_keepsLegal done.next
  · exact done

theorem State.takeLayout_keepsLegal (l : Layout) (h : u.KeepsLegal b s) : u.KeepsLegal b (s.takeLayout l) :=
  h.next (mailbox := fun _ => Mailbox.takeLayout_legal _ _) (gate := ⟨id, fun _ => List.length_replicate⟩)

theorem State.endOfProfile_keepsLegal (h : u.KeepsLegal b s) : u.KeepsLegal b s.endOfProfile := by
  unfold State.endOfProfile State.endProfileLoad
  split
  · split
    · exact State.endLoad_keepsLegal _ _ (State.takeLayout_keepsLegal _ h)
    · exact State.endLoad_keepsLegal _ _ h
  · exact h

theorem State.blockArrived_keepsLegal (words : List Word) (h : u.KeepsLegal b s) :
    u.KeepsLegal b (s.blockArrived words) := by
  unfold State.blockArrived
  split
  · exact State.endLoad_keepsLegal _ _ h.next
  · exact State.issue_keepsLegal _ _ h.next

theorem State.profileArrived_keepsLegal (w : Nat) (data : Word) (h : u.KeepsLegal b s) :
    u.KeepsLegal b (s.profileArrived w data) := by
  unfold State.profileArrived
  split
  · exact State.tryCapture_keepsLegal _ _ _ h
  · exact h

theorem State.generationWritten_keepsLegal (h : u.KeepsLegal b s) : u.KeepsLegal b s.generationWritten := by
  unfold State.generationWritten
  split
  · exact h.next
  · exact State.beginLoad_keepsLegal h

theorem State.clearCounters_keepsLegal (h : u.KeepsLegal b s) : u.KeepsLegal b s.clearCounters :=
  h.next (jobs := .of_eq rfl rfl rfl rfl) (gate := .of_eq rfl rfl)

theorem State.clearDrum_keepsLegal (h : u.KeepsLegal b s) : u.KeepsLegal b s.clearDrum := by
  unfold State.clearDrum
  dsimp only
  split
  · exact State.look_keepsLegal h.next
  · exact h.next

end Sys2Proof.Machine
end

section
/-! PROOFS. No event of the Carriage Drive or of the Regulator waits once the events given have been taken, and the
commands that deliver none give none. -/

-- The proofs of this part are elaborated one after another: at once, their threads take too much memory.
set_option Elab.async false

namespace Sys2Proof.Machine

variable {b : Bool} {u s t : State}

/-! ## The events that wait (R29, R26, R88, R113) -/

theorem State.noSignals_iff (s : State) :
    s.noSignals = true ↔ s.carriage.arrivalEvent = false ∧ s.carriage.truncationEvent = false ∧
      s.carriage.faultEvent = false ∧ s.drum.bandLostSignal = false := by
  simp [State.noSignals, and_assoc]

theorem State.noSignals_of_eq (hcarriage : t.carriage = s.carriage)
    (hdrum : t.drum.bandLostSignal = s.drum.bandLostSignal) (h : s.noSignals = true) : t.noSignals = true := by
  unfold State.noSignals at h ⊢
  rw [hcarriage, hdrum]
  exact h

theorem State.takeTruncation_truncationEvent (s : State) : s.takeTruncation.carriage.truncationEvent = false := by
  unfold State.takeTruncation
  split
  · unfold State.truncateFrame
    split
    · split
      · exact State.endFrame_truncation _
      · split
        · exact State.endFrame_truncation _
        · rfl
    · rfl
  · next hnone => exact Bool.eq_false_iff.mpr hnone

theorem State.takeArrival_events (s : State) :
    s.takeArrival.carriage.arrivalEvent = false ∧
      s.takeArrival.carriage.truncationEvent = s.carriage.truncationEvent := by
  unfold State.takeArrival
  split
  · exact ⟨rfl, rfl⟩
  · next hnone => exact ⟨Bool.eq_false_iff.mpr hnone, rfl⟩

theorem State.takeBandLost_events (s : State) :
    s.takeBandLost.drum.bandLostSignal = false ∧
      s.takeBandLost.carriage.arrivalEvent = s.carriage.arrivalEvent ∧
      s.takeBandLost.carriage.truncationEvent = s.carriage.truncationEvent := by
  unfold State.takeBandLost
  split
  · split <;> simp
  · next hnone => exact ⟨Bool.eq_false_iff.mpr hnone, rfl, rfl⟩

theorem State.takeCarriageFault_events (s : State) :
    s.takeCarriageFault.carriage.faultEvent = false ∧
      s.takeCarriageFault.drum.bandLostSignal = s.drum.bandLostSignal ∧
      s.takeCarriageFault.carriage.arrivalEvent = s.carriage.arrivalEvent ∧
      s.takeCarriageFault.carriage.truncationEvent = s.carriage.truncationEvent := by
  unfold State.takeCarriageFault
  split
  · dsimp only
    split
    · next hendable =>
      have hnone : s.jobs.requestsDue = none := by
        simp only [Jobs.endable, Bool.and_eq_true, Option.isNone_iff_eq_none] at hendable
        exact hendable.2
      unfold State.endJobAs
      split
      · exact ⟨rfl, rfl, rfl, rfl⟩
      · obtain ⟨harrival, htruncation, hfault, hdrum, -⟩ :=
          (s.withCarriage { s.carriage with faultEvent := false }).endJob_events .carriageFault hnone
        exact ⟨hfault, by rw [hdrum]; rfl, harrival, htruncation⟩
    · exact ⟨rfl, rfl, rfl, rfl⟩
  · next hnone => exact ⟨Bool.eq_false_iff.mpr hnone, rfl, rfl, rfl⟩

/-- Once the events given have been taken, none waits, whatever waited before. -/
theorem State.deliver_noSignals (s : State) : s.deliver.noSignals = true := by
  obtain ⟨harrival, htruncation⟩ := s.takeTruncation.takeArrival_events
  obtain ⟨hband, harrival', htruncation'⟩ := s.takeTruncation.takeArrival.takeBandLost_events
  obtain ⟨hfault, hband', harrival'', htruncation''⟩ :=
    s.takeTruncation.takeArrival.takeBandLost.takeCarriageFault_events
  refine (State.noSignals_iff _).mpr ⟨?_, ?_, hfault, hband'.trans hband⟩
  · exact harrival''.trans (harrival'.trans harrival)
  · exact htruncation''.trans (htruncation'.trans (htruncation.trans s.takeTruncation_truncationEvent))

/-! ## The Regulator's signal (R4, R5, R12) -/

@[simp] theorem Drum.takeStair_bandLostSignal (p : DrumProfile) (t : Nat) (d : Drum) :
    (d.takeStair p t).bandLostSignal = d.bandLostSignal := by
  unfold Drum.takeStair
  dsimp only
  split <;> rfl

@[simp] theorem Drum.enterRamping_bandLostSignal (p : DrumProfile) (t : Nat) (d : Drum) :
    (d.enterRamping p t).bandLostSignal = d.bandLostSignal := by
  unfold Drum.enterRamping
  dsimp only
  split
  · rfl
  · exact Drum.takeStair_bandLostSignal _ _ _

@[simp] theorem Drum.rampStep_bandLostSignal (p : DrumProfile) (t : Nat) (d : Drum) :
    (d.rampStep p t).bandLostSignal = d.bandLostSignal := by
  unfold Drum.rampStep
  dsimp only
  split
  · split <;> rfl
  · split <;> rfl

theorem Drum.trackBand_bandLostSignal (inBand : Bool) (d : Drum) :
    (d.trackBand inBand).bandLostSignal = d.bandLostSignal := by
  unfold Drum.trackBand
  split <;> rfl

@[simp] theorem Drum.takeSample_bandLostSignal (p : DrumProfile) (t pm : Nat) (d : Drum) :
    (d.takeSample p t pm).bandLostSignal = d.bandLostSignal := by
  unfold Drum.takeSample
  dsimp only
  split
  · exact Drum.trackBand_bandLostSignal _ _
  · exact Drum.trackBand_bandLostSignal _ _
  · exact Drum.trackBand_bandLostSignal _ _
  · split
    · unfold Drum.stairSample
      split
      · exact Drum.takeStair_bandLostSignal _ _ _
      · rfl
    · rfl
  · rfl

@[simp] theorem Drum.enterInBand_bandLostSignal (d : Drum) : d.enterInBand.bandLostSignal = d.bandLostSignal := rfl

@[simp] theorem Drum.enterStopped_bandLostSignal (d : Drum) : d.enterStopped.bandLostSignal = d.bandLostSignal := rfl

@[simp] theorem Drum.endPwmPeriod_bandLostSignal (p : DrumProfile) (d : Drum) :
    (d.endPwmPeriod p).bandLostSignal = d.bandLostSignal := rfl

/-- The latch is left for STOPPED, from which a recorded SPIN gives no BAND_LOST (R19). -/
@[simp] theorem Drum.clear_bandLostSignal (p : DrumProfile) (t : Nat) (d : Drum) :
    (d.clear p t).bandLostSignal = d.bandLostSignal := by
  unfold Drum.clear
  dsimp only
  split
  · split
    · exact Drum.enterRamping_bandLostSignal _ _ _
    · rfl
  · rfl

@[simp] theorem Drum.watchPolicies_bandLostSignal (old new : DrumProfile) (t : Nat) (d : Drum) :
    (d.watchPolicies old new t).bandLostSignal = d.bandLostSignal := by
  unfold Drum.watchPolicies
  dsimp only
  (repeat' split) <;> rfl

@[simp] theorem State.tryCapture_bandLostSignal (w : Nat) (data : Word) (be : ByteEnables) (s : State) :
    (s.tryCapture w data be).drum.bandLostSignal = s.drum.bandLostSignal := by
  unfold State.tryCapture
  split
  · rfl
  · split
    · exact Drum.watchPolicies_bandLostSignal _ _ _ _
    · rfl

@[simp] theorem State.profileArrived_bandLostSignal (w : Nat) (data : Word) (s : State) :
    (s.profileArrived w data).drum.bandLostSignal = s.drum.bandLostSignal := by
  unfold State.profileArrived
  split
  · exact State.tryCapture_bandLostSignal _ _ _ _
  · rfl

@[simp] theorem State.clearDrum_bandLostSignal (s : State) :
    s.clearDrum.drum.bandLostSignal = s.drum.bandLostSignal := by
  unfold State.clearDrum
  dsimp only
  split <;> simp

end Sys2Proof.Machine
end

section
/-! PROOFS. The commands that branch on what they find uphold the invariants of O58 and leave no event waiting. -/

-- The proofs of this part are elaborated one after another: at once, their threads take too much memory.
set_option Elab.async false

namespace Sys2Proof.Machine

variable {c : Instr} {s t : State}

/-! ## What a command upholds -/

/-- The command `c` keeps what is legal in `s`, and leaves no event waiting where none waited. -/
structure State.Upholds (c : Instr) (s t : State) : Prop where
  legal : s.KeepsLegal (!leavesRequests c) t
  signals : s.noSignals = true → t.noSignals = true

/-- The outcome of a command upholds what is legal. -/
def State.UpheldBy (c : Instr) (s : State) (o : Host.Outcome State Fault Refusal) : Prop :=
  ∃ t, o = .next t ∧ s.Upholds c t

theorem State.Upholds.refl (c : Instr) (s : State) : s.Upholds c s := ⟨.refl s, id⟩

/-- A command that delivers its events leaves none. -/
theorem State.KeepsLegal.delivered (h : s.KeepsLegal (!leavesRequests c) t) : s.Upholds c t.deliver :=
  ⟨State.deliver_keepsLegal h, fun _ => State.deliver_noSignals t⟩

/-- A command that gives no event leaves those that waited. -/
theorem State.KeepsLegal.quietly (h : s.KeepsLegal (!leavesRequests c) t)
    (hcarriage : t.carriage = s.carriage := by simp)
    (hdrum : t.drum.bandLostSignal = s.drum.bandLostSignal := by simp) : s.Upholds c t :=
  ⟨h, State.noSignals_of_eq hcarriage hdrum⟩

theorem State.Upholds.finish (old : State) (h : s.Upholds c t) : s.Upholds c (finish old t) :=
  ⟨finish_keepsLegal old h.legal, fun hs => State.noSignals_of_eq (by simp) (by simp) (h.signals hs)⟩

theorem live_upheld {f : State → State} (h : s.Upholds c (f s)) : s.UpheldBy c (live f s) := by
  refine ⟨_, rfl, ?_⟩
  split
  · exact .refl c s
  · exact h.finish s

theorem when_upheld {due : State → Bool} {f : State → State} (h : due s = true → s.Upholds c (f s)) :
    s.UpheldBy c (when due f s) := by
  apply live_upheld
  split
  · next hdue => exact h hdue
  · exact .refl c s

theorem whenDeliver_upheld {due : State → Bool} {f : State → State}
    (h : due s = true → s.KeepsLegal (!leavesRequests c) (f s)) : s.UpheldBy c (whenDeliver due f s) :=
  when_upheld fun hdue => (h hdue).delivered

theorem whenLevel_upheld {level : State → State} {due : State → Bool} {f : State → State}
    (hlevel : s.Upholds c (level s)) (h : due s = true → s.KeepsLegal (!leavesRequests c) (f s)) :
    s.UpheldBy c (whenLevel level due f s) := by
  unfold whenLevel
  split
  · exact ⟨_, rfl, hlevel⟩
  · exact whenDeliver_upheld h

/-! ## The commands that branch on what they find -/

/-- RESET gives every block its reset state (R168). -/
theorem execReset_upheld (s : State) : s.UpheldBy .reset (execReset s) := by
  refine ⟨_, rfl, ⟨fun _ => ⟨rfl, rfl⟩, ⟨fun _ => rfl, fun _ => Nat.zero_le _, fun _ _ _ => rfl⟩, fun _ => rfl, ?_,
    fun _ => Nat.zero_le _, fun _ => theInvariantsHoldAtReset.2.2.2.2.2.2.2.2.2.1⟩, fun _ => rfl⟩
  show s.gate.KeepsLegal s.gateAtReset
  unfold State.gateAtReset
  dsimp only
  split
  · split <;> exact ⟨fun _ => Nat.zero_le _, fun _ => List.length_replicate⟩
  · exact ⟨fun _ => Nat.zero_le _, fun _ => List.length_replicate⟩

theorem execResetRelease_upheld (s : State) : s.UpheldBy .resetRelease (execResetRelease s) := by
  refine ⟨_, rfl, ?_⟩
  split
  · have started : s.KeepsLegal (!leavesRequests .resetRelease) s.startClocks :=
      (State.KeepsLegal.refl s).next (uptime := id)
    have accepted := State.acceptWaiting_keepsLegal started
    have released : s.KeepsLegal (!leavesRequests .resetRelease) s.startClocks.acceptWaiting.releaseRead :=
      accepted.next (gate := .of_eq rfl rfl)
    have begun := State.beginLoad_keepsLegal
      (released.next (t := s.startClocks.acceptWaiting.releaseRead.examinePaper))
    refine (begun.quietly ?_ ?_).finish s
    · simp
    · simp [State.startClocks]
  · exact (State.Upholds.refl _ s).finish s

theorem execRegulationSample_upheld (s : State) : s.UpheldBy .regulationSample (execRegulationSample s) := by
  apply live_upheld
  split
  · exact (State.KeepsLegal.refl s).next.quietly
  · exact .refl _ s

theorem execSlotEvent_upheld (cell : Sample) (s : State) : s.UpheldBy (.slotEvent cell) (execSlotEvent cell s) := by
  apply live_upheld
  split
  · split
    · exact (State.fallSlot_keepsLegal _ _ _ _ (.refl s)).quietly
    · exact .refl _ s
  · exact .refl _ s

theorem execScanWordWritten_upheld (s : State) : s.UpheldBy .scanWordWritten (execScanWordWritten s) := by
  have wrote (x : Access) : s.KeepsLegal (!leavesRequests .scanWordWritten) (s.scanWrote x) :=
    (State.KeepsLegal.refl s).next (gate := .of_eq rfl rfl)
  apply live_upheld
  split
  · next x live _ =>
    refine State.KeepsLegal.quietly ?_
    unfold State.entryWritten
    dsimp only
    split
    · exact (wrote x).next
    · exact wrote x
  · next x live _ =>
    refine State.KeepsLegal.delivered ?_
    unfold State.headerWritten
    dsimp only
    split
    · split
      · exact State.lineComplete_keepsLegal (wrote x).next
      · exact (wrote x).next
    · exact wrote x
  · exact .refl _ s

theorem execPrefetchWordArrived_upheld (s : State) :
    s.UpheldBy .prefetchWordArrived (execPrefetchWordArrived s) := by
  apply live_upheld
  split
  · dsimp only
    split
    · exact State.KeepsLegal.quietly ((State.KeepsLegal.refl s).next (gate := .of_eq rfl rfl))
    · exact State.KeepsLegal.quietly ((State.KeepsLegal.refl s).next (gate := .of_eq rfl rfl))
  · exact .refl _ s

theorem execToneRecognised_upheld (s : State) : s.UpheldBy .toneRecognised (execToneRecognised s) := by
  apply live_upheld
  split
  · next tone _ =>
    exact (State.actOnTone_keepsLegal tone
      ((State.KeepsLegal.refl s).next (t := s.mapLine (·.noteTone tone)) (line := id))).delivered
  · exact .refl _ s

theorem execStartEntry_upheld (s : State) : s.UpheldBy .startEntry (execStartEntry s) := by
  apply live_upheld
  split
  · next e a action _ =>
    split
    · exact (State.fetchMember_keepsLegal _ _ _ (State.takeEntry_keepsLegal e (.refl s))).quietly
    · exact .refl _ s
  · exact .refl _ s

theorem execAbortEntry_upheld (late : Bool) (ahead : Nat) (s : State) :
    s.UpheldBy (.abortEntry late ahead) (execAbortEntry late ahead s) := by
  apply live_upheld
  split
  · next e a action _ =>
    split
    · refine (State.abort_keepsLegal _ _ ?_ (State.takeEntry_keepsLegal e (.refl s))).delivered
      rintro rfl
      rfl
    · exact .refl _ s
  · exact .refl _ s

theorem execFreeEntry_upheld (s : State) : s.UpheldBy .freeEntry (execFreeEntry s) := by
  apply live_upheld
  split
  · next e a action _ =>
    split
    · exact (State.endTake_keepsLegal (State.takeEntry_keepsLegal e (.refl s))).quietly
    · exact .refl _ s
  · exact .refl _ s

theorem execBadActionEntry_upheld (s : State) : s.UpheldBy .badActionEntry (execBadActionEntry s) := by
  apply live_upheld
  split
  · next e a action _ =>
    split
    · exact (State.endTake_keepsLegal
        (State.handOn_keepsLegal _ (State.takeEntry_keepsLegal e (.refl s)))).quietly
    · exact .refl _ s
  · exact .refl _ s

theorem execAbortedResultsWritten_upheld (s : State) :
    s.UpheldBy .abortedResultsWritten (execAbortedResultsWritten s) := by
  apply live_upheld
  split
  · next j _ => exact (State.abortedWritten_keepsLegal j (State.controlStep_keepsLegal (.refl s))).quietly
  · exact .refl _ s

theorem execDirectoryReadDone_upheld (s : State) : s.UpheldBy .directoryReadDone (execDirectoryReadDone s) := by
  have stepped {b : Bool} : s.KeepsLegal b s.controlStep := State.controlStep_keepsLegal (.refl s)
  apply live_upheld
  split
  · exact (State.beginAttempt_keepsLegal _ stepped).delivered
  · exact stepped.quietly
  · exact .refl _ s

theorem execHistoryReadDone_upheld (s : State) : s.UpheldBy .historyReadDone (execHistoryReadDone s) := by
  apply live_upheld
  split
  · exact State.KeepsLegal.quietly ((State.controlStep_keepsLegal (.refl s)).next (gate := .of_eq rfl rfl))
  · exact .refl _ s

theorem execSlipLogWordWritten_upheld (s : State) : s.UpheldBy .slipLogWordWritten (execSlipLogWordWritten s) := by
  apply live_upheld
  split
  · exact State.KeepsLegal.quietly ((State.KeepsLegal.refl s).next (gate := .of_eq rfl rfl))
  · exact .refl _ s

theorem execSlipCharacterEnd_upheld (busy : Bool) (s : State) :
    s.UpheldBy (.slipCharacterEnd busy) (execSlipCharacterEnd busy s) := by
  unfold execSlipCharacterEnd
  split
  · exact ⟨_, rfl, (State.KeepsLegal.refl s).next.quietly⟩
  · exact live_upheld (State.KeepsLegal.refl s).next.quietly

theorem execHostRead_upheld (addr : Addr) (s : State) : s.UpheldBy (.hostRead addr) (execHostRead addr s) := by
  unfold execHostRead
  split
  · refine ⟨_, rfl, ?_⟩
    split
    · exact State.KeepsLegal.quietly ((State.KeepsLegal.refl s).next (gate := .of_eq rfl rfl))
    · exact .refl _ s
  · refine when_upheld fun _ => State.KeepsLegal.quietly ((State.KeepsLegal.refl s).next (gate := ?_))
    unfold State.takeRead
    split <;> exact .of_eq rfl rfl

theorem execHostReadData_upheld (s : State) : s.UpheldBy .hostReadData (execHostReadData s) := by
  apply live_upheld
  split
  · exact State.KeepsLegal.quietly ((State.KeepsLegal.refl s).next (gate := .of_eq rfl rfl))
  · exact .refl _ s

theorem execHostWrite_upheld (addr : Addr) (data : Word) (be : ByteEnables) (s : State) :
    s.UpheldBy (.hostWrite addr data be) (execHostWrite addr data be s) := by
  unfold execHostWrite
  split
  · refine ⟨_, rfl, ?_⟩
    split
    · exact State.KeepsLegal.quietly ((State.KeepsLegal.refl s).next (gate := .of_eq rfl rfl))
    · exact .refl _ s
  · exact when_upheld fun _ => (State.acceptWrite_keepsLegal _ (.refl s)).quietly

theorem execHostWriteDrain_upheld (s : State) : s.UpheldBy .hostWriteDrain (execHostWriteDrain s) := by
  apply live_upheld
  split
  · next w rest _ hbuffer => exact (State.drain_keepsLegal hbuffer (.refl s)).quietly
  · exact .refl _ s

theorem execSendActionWrite_upheld (s : State) : s.UpheldBy .sendActionWrite (execSendActionWrite s) := by
  have noted (e : Nat) (h : s.mailbox.Legal) : (s.mailbox.note e).Legal := by
    unfold Mailbox.note
    split <;> exact h
  apply live_upheld
  split
  · next e _ _ => exact State.KeepsLegal.quietly ((State.popMailbox_keepsLegal (.refl s)).next (mailbox := noted e))
  · exact .refl _ s

theorem execReturnFreeWrite_upheld (ahead : Nat) (s : State) :
    s.UpheldBy (.returnFreeWrite ahead) (execReturnFreeWrite ahead s) := by
  apply live_upheld
  split
  · next n action _ _ =>
    have freed : s.KeepsLegal (!leavesRequests (.returnFreeWrite ahead))
        (s.popMailbox.withMailbox (s.mailbox.hostFree n action)) :=
      (State.popMailbox_keepsLegal (.refl s)).next (mailbox := Mailbox.hostFree_legal n action)
    exact (State.slideLast_keepsLegal _ _ (State.serveBacklog_keepsLegal freed)).quietly
  · exact .refl _ s

theorem execReturnPostingDone_upheld (s : State) : s.UpheldBy .returnPostingDone (execReturnPostingDone s) := by
  apply live_upheld
  split
  · exact (State.posted_keepsLegal _ _ (State.controlStep_keepsLegal (.refl s))).quietly
  · exact .refl _ s

theorem execLayoutGenerationWrite_upheld (s : State) :
    s.UpheldBy .layoutGenerationWrite (execLayoutGenerationWrite s) := by
  apply live_upheld
  split
  · exact (State.generationWritten_keepsLegal (State.popLayout_keepsLegal (.refl s))).quietly
  · exact .refl _ s

theorem execLoadProfileWord_upheld (s : State) : s.UpheldBy .loadProfileWord (execLoadProfileWord s) := by
  apply live_upheld
  split
  · next w last _ =>
    have arrived := State.profileArrived_keepsLegal (b := !leavesRequests .loadProfileWord) w (wordAt s.wordsRead w)
      (State.controlStep_keepsLegal (.refl s))
    dsimp only
    split
    · exact (State.endOfProfile_keepsLegal arrived).quietly
    · exact arrived.quietly
  · exact .refl _ s

theorem execProfileCapture_upheld (s : State) : s.UpheldBy .profileCapture (execProfileCapture s) := by
  have popped {b : Bool} : s.KeepsLegal b s.popLayout := State.popLayout_keepsLegal (.refl s)
  apply live_upheld
  split
  · split
    · exact .refl _ s
    · split
      · exact (State.tryCapture_keepsLegal _ _ _ popped).quietly
      · exact popped.quietly
  · exact .refl _ s

/-- An action word that is refused counts the refusal alone; one that acts upholds what its action does (R179). -/
theorem State.tryAction_upholds {w : Nat} {data : Word} {be : ByteEnables} {act : Option (State → State)}
    (hact : ∀ f, act = some f → s.Upholds c (f s.popLayout)) : s.Upholds c (s.popLayout.tryAction w data be act) := by
  have refused (why : CaptureRefusal) : s.Upholds c (s.popLayout.refuseCapture w why) :=
    (State.popLayout_keepsLegal (.refl s)).next.quietly
  unfold State.tryAction
  split
  · exact refused _
  · split
    · exact hact _ rfl
    · exact refused _

theorem execClockSet_upheld (s : State) : s.UpheldBy .clockSet (execClockSet s) := by
  apply live_upheld
  split
  · split
    · refine State.tryAction_upholds fun f hf => ?_
      obtain ⟨time, -, rfl⟩ := Option.map_eq_some_iff.mp hf
      exact State.KeepsLegal.quietly ((State.popLayout_keepsLegal (.refl s)).next (uptime := id))
    · exact .refl _ s
  · exact .refl _ s

theorem execDrumClear_upheld (s : State) : s.UpheldBy .drumClear (execDrumClear s) := by
  apply live_upheld
  split
  · split
    · refine State.tryAction_upholds fun f hf => ?_
      obtain ⟨-, hf⟩ := Option.ite_none_right_eq_some.mp hf
      cases hf
      exact (State.clearDrum_keepsLegal (State.popLayout_keepsLegal (.refl s))).quietly
    · exact .refl _ s
  · exact .refl _ s

theorem execCounterClear_upheld (s : State) : s.UpheldBy .counterClear (execCounterClear s) := by
  apply live_upheld
  split
  · split
    · refine State.tryAction_upholds fun f hf => ?_
      obtain ⟨-, hf⟩ := Option.ite_none_right_eq_some.mp hf
      cases hf
      exact (State.clearCounters_keepsLegal (State.popLayout_keepsLegal (.refl s))).quietly rfl rfl
    · exact .refl _ s
  · exact .refl _ s

end Sys2Proof.Machine
end

section
/-! PROOFS. Every command and every step upholds the invariants of O58. What O58 asks beyond them is one statement about
the free value of log entry 25, which no proof in this model decides either way. -/

-- The proofs of this part are elaborated one after another: at once, their threads take too much memory.
set_option Elab.async false

namespace Sys2Proof.Machine

variable {s t : State}

/-! ## Every command -/

/-- An input's level of the carriage or of the slip printer is of no block of the invariants. -/
theorem State.withCarriage_upholds (c : Instr) (x : Carriage) (harrival : x.arrivalEvent = s.carriage.arrivalEvent)
    (htruncation : x.truncationEvent = s.carriage.truncationEvent) (hfault : x.faultEvent = s.carriage.faultEvent) :
    s.Upholds c (s.withCarriage x) where
  legal := (State.KeepsLegal.refl s).next
  signals h := by
    rw [State.noSignals_iff] at h ⊢
    rwa [State.withCarriage_carriage, State.withCarriage_drum, harrival, htruncation, hfault]

theorem exec_upheld (c : Instr) (s : State) : s.UpheldBy c (exec c s) := by
  have drum {d : Drum} {b : Bool} : s.KeepsLegal b (s.withDrum d) := (State.KeepsLegal.refl s).next
  have carriage {x : Carriage} {b : Bool} : s.KeepsLegal b (s.withCarriage x) := (State.KeepsLegal.refl s).next
  have slips {x : SlipUnit} {b : Bool} : s.KeepsLegal b (s.withSlips x) := (State.KeepsLegal.refl s).next
  have line {l : Line} {b : Bool} (hl : s.line.Legal → l.Legal) : s.KeepsLegal b (s.withLine l) :=
    (State.KeepsLegal.refl s).next (line := hl)
  have jobs {j : Jobs} {b : Bool} (hj : s.jobs.KeepsLegal b j) : s.KeepsLegal b (s.withJobs j) :=
    (State.KeepsLegal.refl s).next (jobs := hj)
  cases c with
  | reset => exact execReset_upheld s
  | resetRelease => exact execResetRelease_upheld s
  | indexPulse => exact show s.UpheldBy _ (execIndexPulse s) from live_upheld drum.quietly
  | tachEvent cells scanFirst =>
    exact show s.UpheldBy _ (execTachEvent cells scanFirst s) from
      live_upheld (State.tachEvent_keepsLegal _ _ (.refl s)).delivered
  | slipDetected =>
    exact show s.UpheldBy _ (execSlipDetected s) from whenDeliver_upheld fun _ => State.drumFault_keepsLegal _ drum
  | regulationSample => exact execRegulationSample_upheld s
  | bandEntry => exact show s.UpheldBy _ (execBandEntry s) from when_upheld fun _ => drum.quietly
  | bandLost => exact show s.UpheldBy _ (execBandLost s) from whenDeliver_upheld fun _ => drum
  | parkRestExpiry => exact show s.UpheldBy _ (execParkRestExpiry s) from when_upheld fun _ => drum.quietly
  | rampTick => exact show s.UpheldBy _ (execRampTick s) from when_upheld fun _ => drum.quietly
  | spinupTimeout =>
    exact show s.UpheldBy _ (execSpinupTimeout s) from whenDeliver_upheld fun _ => State.drumFault_keepsLegal _ drum
  | stallTimeout =>
    exact show s.UpheldBy _ (execStallTimeout s) from whenDeliver_upheld fun _ => State.drumFault_keepsLegal _ drum
  | ilimTrip => exact show s.UpheldBy _ (execIlimTrip s) from when_upheld fun _ => drum.quietly
  | overcurrentDetected =>
    exact show s.UpheldBy _ (execOvercurrentDetected s) from
      whenDeliver_upheld fun _ => State.drumFault_keepsLegal _ drum
  | faultWaitExpiry => exact show s.UpheldBy _ (execFaultWaitExpiry s) from when_upheld fun _ => drum.quietly
  | drumClear => exact execDrumClear_upheld s
  | counterClear => exact execCounterClear_upheld s
  | clockSet => exact execClockSet_upheld s
  | homingStep => exact show s.UpheldBy _ (execHomingStep s) from whenDeliver_upheld fun _ => carriage
  | homingFault => exact show s.UpheldBy _ (execHomingFault s) from whenDeliver_upheld fun _ => carriage
  | positionStep => exact show s.UpheldBy _ (execPositionStep s) from whenDeliver_upheld fun _ => carriage
  | arrival => exact show s.UpheldBy _ (execArrival s) from whenDeliver_upheld fun _ => carriage
  | limitAsserted =>
    exact show s.UpheldBy _ (execLimitAsserted s) from
      whenLevel_upheld (State.withCarriage_upholds _ _ rfl rfl rfl) fun _ => carriage
  | homeAsserted =>
    exact show s.UpheldBy _ (execHomeAsserted s) from
      whenLevel_upheld (State.withCarriage_upholds _ _ rfl rfl rfl) fun _ => carriage
  | trackStep => exact show s.UpheldBy _ (execTrackStep s) from whenDeliver_upheld fun _ => carriage
  | warmUpExpiry =>
    exact show s.UpheldBy _ (execWarmUpExpiry s) from
      when_upheld fun _ => State.KeepsLegal.quietly (State.KeepsLegal.refl s).next
  | referenceSample cell =>
    exact show s.UpheldBy _ (execReferenceSample cell s) from
      when_upheld fun _ => State.KeepsLegal.quietly (State.KeepsLegal.refl s).next
  | slotEvent cell => exact execSlotEvent_upheld cell s
  | scanWordWritten => exact execScanWordWritten_upheld s
  | prefetchWordArrived => exact execPrefetchWordArrived_upheld s
  | carrierToggle =>
    exact show s.UpheldBy _ (execCarrierToggle s) from when_upheld fun _ => State.KeepsLegal.quietly (line id)
  | seizeWaitExpiry =>
    exact show s.UpheldBy _ (execSeizeWaitExpiry s) from
      when_upheld fun hdue => (line (Line.enterDialing_legal _ (by simp_all))).quietly
  | dialBreakEnd =>
    exact show s.UpheldBy _ (execDialBreakEnd s) from when_upheld fun _ => State.KeepsLegal.quietly (line id)
  | dialMakeEnd =>
    exact show s.UpheldBy _ (execDialMakeEnd s) from
      when_upheld fun hdue => (line (Line.endMake_legal _ (by simp_all [State.dialDue]))).quietly
  | loopChange present =>
    exact show s.UpheldBy _ (execLoopChange present s) from
      whenLevel_upheld (State.KeepsLegal.quietly (line id)) fun _ => line id
  | loopLoss =>
    exact show s.UpheldBy _ (execLoopLoss s) from whenDeliver_upheld fun _ => State.loseLine_keepsLegal (.refl s)
  | toneWindowEnd crossings =>
    exact show s.UpheldBy _ (execToneWindowEnd crossings s) from
      when_upheld fun _ => (line (Line.windowDone_legal _)).quietly
  | toneRecognised => exact execToneRecognised_upheld s
  | answerTimeout =>
    exact show s.UpheldBy _ (execAnswerTimeout s) from
      whenDeliver_upheld fun _ => State.endAttempt_keepsLegal _ _ (by simp) (.refl s)
  | startToneExpiry =>
    exact show s.UpheldBy _ (execStartToneExpiry s) from
      when_upheld fun hdue =>
        State.KeepsLegal.quietly (line fun hl => hl.of_closed (by simp_all [LineState.atRest]) rfl rfl rfl)
  | readyWaitExpiry =>
    exact show s.UpheldBy _ (execReadyWaitExpiry s) from
      whenDeliver_upheld fun hdue =>
        State.endAttempt_keepsLegal _ _ (fun _ => by simp_all [LineState.atRest]) (.refl s)
  | phasingEnd =>
    exact show s.UpheldBy _ (execPhasingEnd s) from
      whenDeliver_upheld fun hdue => State.endPhasing_keepsLegal hdue (.refl s)
  | stopToneExpiry =>
    exact show s.UpheldBy _ (execStopToneExpiry s) from
      when_upheld fun _ => (line fun _ => Line.openRelay_legal _ _).quietly
  | releaseGuardExpiry =>
    exact show s.UpheldBy _ (execReleaseGuardExpiry s) from
      when_upheld fun hdue => (State.lineRests_keepsLegal (by simp_all) (.refl s)).quietly
  | startEntry => exact execStartEntry_upheld s
  | abortEntry late ahead => exact execAbortEntry_upheld late ahead s
  | freeEntry => exact execFreeEntry_upheld s
  | badActionEntry => exact execBadActionEntry_upheld s
  | tcbMemberRead =>
    exact show s.UpheldBy _ (execTcbMemberRead s) from
      when_upheld fun _ => (State.memberArrived_keepsLegal _ (State.controlStep_keepsLegal (.refl s))).quietly
  | clampOpen first late =>
    exact show s.UpheldBy _ (execClampOpen first late s) from
      whenLevel_upheld (State.KeepsLegal.quietly (jobs (.of_eq rfl rfl rfl rfl))) fun _ =>
        State.clampOpen_keepsLegal first (by rintro rfl; rfl) (.refl s)
  | clampClose =>
    have shut {b : Bool} : s.KeepsLegal b (s.mapJobs Jobs.clampShut) := jobs (.of_eq rfl rfl rfl rfl)
    exact show s.UpheldBy _ (execClampClose s) from
      whenLevel_upheld shut.quietly fun _ => State.leaveMountWait_keepsLegal shut
  | stopKey late =>
    exact show s.UpheldBy _ (execStopKey late s) from
      whenDeliver_upheld fun _ => State.endJobAs_keepsLegal _ (by rintro rfl ⟨⟩) (.refl s)
  | jobResultsWritten =>
    exact show s.UpheldBy _ (execJobResultsWritten s) from
      whenDeliver_upheld fun _ => State.finishJob_keepsLegal (State.controlStep_keepsLegal (.refl s))
  | abortedResultsWritten => exact execAbortedResultsWritten_upheld s
  | parkDelayExpiry =>
    exact show s.UpheldBy _ (execParkDelayExpiry s) from
      whenDeliver_upheld fun _ => State.park_keepsLegal _ (jobs (.of_eq rfl rfl rfl rfl))
  | directoryReadDone => exact execDirectoryReadDone_upheld s
  | historyReadDone => exact execHistoryReadDone_upheld s
  | clockTick =>
    exact show s.UpheldBy _ (execClockTick s) from when_upheld fun _ => (State.tick_keepsLegal (.refl s)).quietly
  | slipLogWordWritten => exact execSlipLogWordWritten_upheld s
  | slipCharacterEnd busy => exact execSlipCharacterEnd_upheld busy s
  | slipBusyRelease =>
    exact show s.UpheldBy _ (execSlipBusyRelease s) from whenLevel_upheld slips.quietly fun _ => slips
  | paperOut => exact show s.UpheldBy _ (execPaperOut s) from whenLevel_upheld slips.quietly fun _ => slips
  | paperPresent => exact show s.UpheldBy _ (execPaperPresent s) from whenLevel_upheld slips.quietly fun _ => slips
  | paperReturnExpiry => exact show s.UpheldBy _ (execPaperReturnExpiry s) from when_upheld fun _ => slips.quietly
  | hostRead addr => exact execHostRead_upheld addr s
  | hostReadData => exact execHostReadData_upheld s
  | hostWrite addr data be => exact execHostWrite_upheld addr data be s
  | hostWriteDrain => exact execHostWriteDrain_upheld s
  | controlWordDone =>
    exact show s.UpheldBy _ (execControlWordDone s) from
      when_upheld fun _ => (State.controlStep_keepsLegal (.refl s)).quietly
  | sendActionWrite => exact execSendActionWrite_upheld s
  | takeStart =>
    exact show s.UpheldBy _ (execTakeStart s) from when_upheld fun _ => (State.beginTake_keepsLegal (.refl s)).quietly
  | returnFreeWrite ahead => exact execReturnFreeWrite_upheld ahead s
  | returnPostingDone => exact execReturnPostingDone_upheld s
  | layoutGenerationWrite => exact execLayoutGenerationWrite_upheld s
  | layoutBlockRead =>
    exact show s.UpheldBy _ (execLayoutBlockRead s) from
      when_upheld fun _ => (State.blockArrived_keepsLegal _ (State.controlStep_keepsLegal (.refl s))).quietly
  | loadProfileWord => exact execLoadProfileWord_upheld s
  | profileCapture => exact execProfileCapture_upheld s
  | pwmPeriodEnd => exact show s.UpheldBy _ (execPwmPeriodEnd s) from when_upheld fun _ => drum.quietly

/-! ## Every step -/

/-- On an empty queue the requests on their way reach their units, and the crystal counts. -/
theorem State.crystalTick_keepsLegal (s : State) :
    s.KeepsLegal true s.crystalTick ∧ (s.noSignals = true → s.crystalTick.noSignals = true) := by
  have ended : s.KeepsLegal true s.endMoment ∧ (s.noSignals = true → s.endMoment.noSignals = true) := by
    unfold State.endMoment
    split
    · refine ⟨finish_keepsLegal s (State.deliver_keepsLegal (State.completeEnd_keepsLegal (.refl s))), fun _ => ?_⟩
      exact State.noSignals_of_eq (by simp) (by simp) s.completeEnd.deliver_noSignals
    · exact ⟨.refl s, id⟩
  obtain ⟨hlegal, hsignals⟩ := ended
  have counted : s.crystalTick.carriage = s.endMoment.carriage ∧ s.crystalTick.drum = s.endMoment.drum := by
    simp [State.crystalTick]
  refine ⟨finish_keepsLegal _ ?_, fun hs => State.noSignals_of_eq counted.1 (by rw [counted.2]) (hsignals hs)⟩
  exact ⟨hlegal.line, hlegal.jobs, hlegal.mailbox, hlegal.gate, hlegal.uptime, hlegal.profile⟩

/-- Every step keeps what is legal, and the requests of an end cause off their way where its command settles. -/
theorem step_keepsLegal (h : step s = .next t) :
    (∃ settled, s.KeepsLegal settled t ∧ ((∀ c q, s.pending = c :: q → leavesRequests c = false) → settled = true)) ∧
      (s.noSignals = true → t.noSignals = true) := by
  cases hq : s.pending with
  | nil =>
    rw [step_of_nil hq] at h
    cases h
    obtain ⟨hlegal, hsignals⟩ := s.crystalTick_keepsLegal
    exact ⟨⟨true, hlegal, fun _ => rfl⟩, hsignals⟩
  | cons c q =>
    rw [step_of_cons hq] at h
    obtain ⟨x, hx, hlegal, hsignals⟩ := exec_upheld c { s with pending := q }
    obtain rfl : x = t := Host.Outcome.next.inj (hx.symm.trans h)
    refine ⟨⟨_, ⟨hlegal.line, hlegal.jobs, hlegal.mailbox, hlegal.gate, hlegal.uptime, hlegal.profile⟩, fun hc => ?_⟩,
      hsignals⟩
    rw [hc c q rfl]
    rfl

/-- O58 holds exactly where the free value of log entry 25 never lets the requests of a carriage-fault go on their way:
nine of its ten clauses hold whatever it is, and the tenth asks that it be so. -/
theorem stateLegal_iff_faultRequestsNeverLate :
    Obligations.EveryStepKeepsTheStateLegal ↔ ∀ n, Config.faultRequestsLate n = false := by
  refine ⟨faultRequestsLate_of_stateLegal, fun hnever s t hstep => ?_⟩
  obtain ⟨⟨settled, hlegal, hsettled⟩, hsignals⟩ := step_keepsLegal hstep
  obtain ⟨hline, ⟨hlamp, hqueue, hrequests⟩, hmailbox, ⟨hbuffer, hmarks⟩, huptime, hprofile⟩ := hlegal
  rw [State.relayLegal_and_sendLampLegal_iff, State.relayLegal_and_sendLampLegal_iff, State.lampLegal_iff,
    State.lampLegal_iff, State.attnLegal_iff, State.attnLegal_iff, State.bufferLegal_iff, State.bufferLegal_iff,
    State.uptimeLegal_iff, State.uptimeLegal_iff]
  exact ⟨hline, hlamp, hqueue, hmailbox, hbuffer, hmarks, huptime, hprofile, hsignals,
    fun hnone hpending => hrequests (hsettled hpending) hnever hnone⟩

end Sys2Proof.Machine
end
